-- ==== Sys2Proof/Word.lean ====
section
/-!
DEFINITION. The word types of the Stalos K9 (00_scope R1): bytes, 32-bit words (vector register
elements, masks), 64-bit doublewords (scalar registers, privileged registers).
-/
namespace Sys2Proof

/-- One byte. -/
abbrev Byte := BitVec 8
/-- A vector register element, a mask or a 32-bit special register. -/
abbrev W32 := BitVec 32
/-- A scalar register, a unit word or a privileged register. -/
abbrev W64 := BitVec 64

end Sys2Proof
end

