-- ==== Sys2Proof/Syntax.lean ====
section
/-!
DEFINITION. The instructions of the Stalos K9: one constructor for each row of the opcode table.
Scalar words (09 R142 to R148) carry their fields as numbers; lane instructions (09 R149 to R155)
carry one record for each of the four field layouts; the steps of the machine's engines, which have
no encoding, carry the numbers of the agents they concern.
-/
namespace Sys2Proof

/-- The element types, in the order of their codes 0 to 15 (09 R149). -/
inductive Ty where
  | i32 | n32 | i64 | n64 | f32 | f64 | f16 | bf16 | e4m3 | e5m2 | e3m2 | e2m3 | e2m1 | q8 | q4 | i16
  deriving DecidableEq, Repr

/-- The fields of a lane instruction of class 0, 1, 2 or 7 (R149): `op`, `cls` and the reserved `ax`
are not fields of the record. -/
structure LArgs where
  vd : Nat
  va : Nat
  vb : Nat
  vc : Nat
  msk : Nat
  ty : Ty
  rm : Nat
  md : Nat
  ss : Nat
  im : Nat
  sb : Bool
  e : Bool
  deriving DecidableEq, Repr

/-- The fields of a lane instruction of class 3 or 4 (R153). `sz` is SZ in class 3 and 0 in class 4;
`vc` is the compare register in class 4 and 0 in class 3. -/
structure MArgs where
  vd : Nat
  va : Nat
  vb : Nat
  sz : Nat
  vc : Nat
  msk : Nat
  ty : Ty
  rm : Nat
  md : Nat
  win : Nat
  am : Nat
  im : Nat
  scope : Nat
  ord : Nat
  pfl : Nat
  noret : Bool
  e : Bool
  deriving DecidableEq, Repr

/-- The fields of a lane instruction of class 5 (R154). -/
structure TArgs where
  zd : Nat
  za : Nat
  zb : Nat
  vx : Nat
  shp : Nat
  msk : Nat
  ty : Ty
  rm : Nat
  md : Nat
  ss : Nat
  im : Nat
  win : Nat
  bt : Ty
  e : Bool
  deriving DecidableEq, Repr

/-- The fields of a lane instruction of class 6 (R155). -/
structure AArgs where
  sd : Nat
  sa : Nat
  sb : Nat
  sc : Nat
  ty : Ty
  rm : Nat
  md : Nat
  ss : Nat
  til : Bool
  zt : Nat
  e : Bool
  deriving DecidableEq, Repr

/-- One chunk as it arrives from a peer (26 R421, R423): the number of its instance among those of the communicator on its
sender, the direction, the part, the segment, the destination rank, the check words (R, ROOT, PARENT, kind, count, type),
the bytes. DESIGN CHOICE: the spec gives no form for what names a chunk; its instance number is one of the names. -/
structure Chunk where
  inst : Nat
  up : Bool
  part : Nat
  seg : Nat
  dst : Nat
  check : List Nat
  data : List Byte
  deriving DecidableEq, Repr

/-- The instructions and steps of the machine, in the order of the opcode table. -/
inductive Instr where
  /-- ADD (R179). -/
  | add (d a b : Nat)
  /-- SUB (R179). -/
  | sub (d a b : Nat)
  /-- MUL (R179). -/
  | mul (d a b : Nat)
  /-- MULH (R179). -/
  | mulh (d a b : Nat)
  /-- MULHN (R179). -/
  | mulhn (d a b : Nat)
  /-- DIV (R180). -/
  | div (d a b : Nat)
  /-- DIVN (R180). -/
  | divn (d a b : Nat)
  /-- REM (R180). -/
  | rem (d a b : Nat)
  /-- REMN (R180). -/
  | remn (d a b : Nat)
  /-- AND (R179). -/
  | and (d a b : Nat)
  /-- OR (R179). -/
  | or (d a b : Nat)
  /-- XOR (R179). -/
  | xor (d a b : Nat)
  /-- ANDN (R179). -/
  | andn (d a b : Nat)
  /-- SHL (R179). -/
  | shl (d a b : Nat)
  /-- SHR (R179). -/
  | shr (d a b : Nat)
  /-- SRA (R179). -/
  | sra (d a b : Nat)
  /-- MIN (R179). -/
  | min (d a b : Nat)
  /-- MAX (R179). -/
  | max (d a b : Nat)
  /-- MINN (R179). -/
  | minn (d a b : Nat)
  /-- MAXN (R179). -/
  | maxn (d a b : Nat)
  /-- ADD_2A (R179). -/
  | add2A (d a : Nat)
  /-- SUB_2A (R179). -/
  | sub2A (d a : Nat)
  /-- MUL_2A (R179). -/
  | mul2A (d a : Nat)
  /-- MULH_2A (R179). -/
  | mulh2A (d a : Nat)
  /-- MULHN_2A (R179). -/
  | mulhn2A (d a : Nat)
  /-- DIV_2A (R180). -/
  | div2A (d a : Nat)
  /-- DIVN_2A (R180). -/
  | divn2A (d a : Nat)
  /-- REM_2A (R180). -/
  | rem2A (d a : Nat)
  /-- REMN_2A (R180). -/
  | remn2A (d a : Nat)
  /-- AND_2A (R179). -/
  | and2A (d a : Nat)
  /-- OR_2A (R179). -/
  | or2A (d a : Nat)
  /-- XOR_2A (R179). -/
  | xor2A (d a : Nat)
  /-- ANDN_2A (R179). -/
  | andn2A (d a : Nat)
  /-- SHL_2A (R179). -/
  | shl2A (d a : Nat)
  /-- SHR_2A (R179). -/
  | shr2A (d a : Nat)
  /-- SRA_2A (R179). -/
  | sra2A (d a : Nat)
  /-- MIN_2A (R179). -/
  | min2A (d a : Nat)
  /-- MAX_2A (R179). -/
  | max2A (d a : Nat)
  /-- MINN_2A (R179). -/
  | minn2A (d a : Nat)
  /-- MAXN_2A (R179). -/
  | maxn2A (d a : Nat)
  /-- MOV (R181). -/
  | mov (d a : Nat)
  /-- NEG (R181). -/
  | neg (d a : Nat)
  /-- NOT (R181). -/
  | not (d a : Nat)
  /-- CLZ (R181). -/
  | clz (d a : Nat)
  /-- CTZ (R181). -/
  | ctz (d a : Nat)
  /-- POPC (R181). -/
  | popc (d a : Nat)
  /-- BREV (R181). -/
  | brev (d a : Nat)
  /-- SXT_8 (R181). -/
  | sxt8 (d a : Nat)
  /-- SXT_16 (R181). -/
  | sxt16 (d a : Nat)
  /-- SXT_32 (R181). -/
  | sxt32 (d a : Nat)
  /-- ZXT_8 (R181). -/
  | zxt8 (d a : Nat)
  /-- ZXT_16 (R181). -/
  | zxt16 (d a : Nat)
  /-- ZXT_32 (R181). -/
  | zxt32 (d a : Nat)
  /-- CMP_EQ (R182). -/
  | cmpEq (d a b : Nat)
  /-- CMP_NE (R182). -/
  | cmpNe (d a b : Nat)
  /-- CMP_LT (R182). -/
  | cmpLt (d a b : Nat)
  /-- CMP_GE (R182). -/
  | cmpGe (d a b : Nat)
  /-- CMP_LTN (R182). -/
  | cmpLtn (d a b : Nat)
  /-- CMP_GEN (R182). -/
  | cmpGen (d a b : Nat)
  /-- SEL (R182). -/
  | sel (d a b : Nat)
  /-- LEA (R184). -/
  | lea (k d a b : Nat)
  /-- WSET (R185). -/
  | wset (k a : Nat)
  /-- WINV (R185). -/
  | winv (k : Nat)
  /-- WLIM (R186). -/
  | wlim (d k : Nat)
  /-- PRVADDR (R187). -/
  | prvaddr (d a : Nat)
  /-- LI (R183). -/
  | li (d im : Nat)
  /-- LIH (R183). -/
  | lih (d im : Nat)
  /-- ADDI (R183). -/
  | addi (d im : Nat)
  /-- ANDI (R183). -/
  | andi (d im : Nat)
  /-- ORI (R183). -/
  | ori (d im : Nat)
  /-- XORI (R183). -/
  | xori (d im : Nat)
  /-- SHLI (R183). -/
  | shli (d im : Nat)
  /-- SHRI (R183). -/
  | shri (d im : Nat)
  /-- SRAI (R183). -/
  | srai (d im : Nat)
  /-- LDK (R190). -/
  | ldk (d im : Nat)
  /-- SGET (R198). -/
  | sget (d r : Nat)
  /-- SSET (R198). -/
  | sset (r a : Nat)
  /-- LDS (R188). -/
  | lds (d a sz sgn ord scope : Nat)
  /-- STS (R188). -/
  | sts (d a sz ord scope : Nat)
  /-- SATOM (R189). -/
  | satom (d a aop ord scope w : Nat)
  /-- JMP (R191). -/
  | jmp (o : Nat)
  /-- CALL (R191). -/
  | call (o : Nat)
  /-- RET (R191). -/
  | ret
  /-- JR (R191). -/
  | jr (a : Nat)
  /-- BR_EQ (R191). -/
  | brEq (a o : Nat)
  /-- BR_NE (R191). -/
  | brNe (a o : Nat)
  /-- BR_LT (R191). -/
  | brLt (a o : Nat)
  /-- BR_GE (R191). -/
  | brGe (a o : Nat)
  /-- BR_GT (R191). -/
  | brGt (a o : Nat)
  /-- BR_LE (R191). -/
  | brLe (a o : Nat)
  /-- FSPLIT (R47). -/
  | fsplit (k o : Nat)
  /-- FJOIN (R54). -/
  | fjoin (k d t : Nat)
  /-- FENT (R48). -/
  | fent
  /-- FNEXT (R49). -/
  | fnext
  /-- FANY (R52). -/
  | fany (d k : Nat)
  /-- VRUN (R193). -/
  | vrun (b : Nat)
  /-- VSYNC (R194). -/
  | vsync
  /-- WCNT (R195). -/
  | wcnt (l st c t k : Nat)
  /-- HWAIT (R197). -/
  | hwait (a : Nat)
  /-- HTEST (R197). -/
  | htest (d a : Nat)
  /-- HCANCEL (R197). -/
  | hcancel (d a : Nat)
  /-- FMTSET (R199). -/
  | fmtset (f a : Nat)
  /-- DFETCH (R200). -/
  | dfetch (d : Nat)
  /-- DDONE (R32). -/
  | ddone
  /-- DPUSH (R31). -/
  | dpush (d a : Nat)
  /-- DPUSH_Q (R313). -/
  | dpushQ (d k : Nat)
  /-- DPUSH_E (R314). -/
  | dpushE (d k : Nat)
  /-- LAUNCH (R201). -/
  | launch (d a : Nat)
  /-- JOIN (R201). -/
  | join (a : Nat)
  /-- BAR_BLK (R202). -/
  | barBlk (n : Nat)
  /-- BAR_CLU (R202). -/
  | barClu (n : Nat)
  /-- WWAIT (R203). -/
  | wwait (d a : Nat)
  /-- TKT (R204). -/
  | tkt (d a : Nat)
  /-- STKFLUSH (R205). -/
  | stkflush
  /-- VGROW (R206). -/
  | vgrow (n : Nat)
  /-- VSHRINK (R206). -/
  | vshrink (n : Nat)
  /-- RGN_ENTER (R207). -/
  | rgnEnter (id : Nat)
  /-- RGN_LEAVE (R207). -/
  | rgnLeave
  /-- VCOST (R209). -/
  | vcost (d o : Nat)
  /-- VDONE (R210). -/
  | vdone
  /-- NOP (R211). -/
  | nop
  /-- END (R51). -/
  | endPath
  /-- TRAP (R211). -/
  | trap (n : Nat)
  /-- TRET (R212). -/
  | tret (k : Nat)
  /-- BRK (R208). -/
  | brk (n : Nat)
  /-- VADD (R218). -/
  | vadd (x : LArgs)
  /-- VSUB (R218). -/
  | vsub (x : LArgs)
  /-- VMUL (R218). -/
  | vmul (x : LArgs)
  /-- VMULH (R218). -/
  | vmulh (x : LArgs)
  /-- VMAD (R219). -/
  | vmad (x : LArgs)
  /-- VMIN (R218). -/
  | vmin (x : LArgs)
  /-- VMAX (R218). -/
  | vmax (x : LArgs)
  /-- VAND (R218). -/
  | vand (x : LArgs)
  /-- VOR (R218). -/
  | vor (x : LArgs)
  /-- VXOR (R218). -/
  | vxor (x : LArgs)
  /-- VANDN (R218). -/
  | vandn (x : LArgs)
  /-- VSHL (R218). -/
  | vshl (x : LArgs)
  /-- VSHR (R218). -/
  | vshr (x : LArgs)
  /-- VSRA (R218). -/
  | vsra (x : LArgs)
  /-- VCLZ (R220). -/
  | vclz (x : LArgs)
  /-- VPOPC (R220). -/
  | vpopc (x : LArgs)
  /-- VBREV (R220). -/
  | vbrev (x : LArgs)
  /-- VBFE (R220). -/
  | vbfe (x : LArgs)
  /-- VBFI (R220). -/
  | vbfi (x : LArgs)
  /-- VCMP (R221). -/
  | vcmp (x : LArgs)
  /-- VSEL (R221). -/
  | vsel (x : LArgs)
  /-- VMOV (R219). -/
  | vmov (x : LArgs)
  /-- VFADD (R222). -/
  | vfadd (x : LArgs)
  /-- VFSUB (R222). -/
  | vfsub (x : LArgs)
  /-- VFMUL (R222). -/
  | vfmul (x : LArgs)
  /-- VFMA (R222). -/
  | vfma (x : LArgs)
  /-- VFMS (R222). -/
  | vfms (x : LArgs)
  /-- VFNMA (R222). -/
  | vfnma (x : LArgs)
  /-- VFMIN (R223). -/
  | vfmin (x : LArgs)
  /-- VFMAX (R223). -/
  | vfmax (x : LArgs)
  /-- VFDIV (R222). -/
  | vfdiv (x : LArgs)
  /-- VFSQRT (R222). -/
  | vfsqrt (x : LArgs)
  /-- VFCMP (R224). -/
  | vfcmp (x : LArgs)
  /-- VFCLS (R225). -/
  | vfcls (x : LArgs)
  /-- VCVT (R226). -/
  | vcvt (x : LArgs)
  /-- VEXP2 (R227). -/
  | vexp2 (x : LArgs)
  /-- VLOG2 (R227). -/
  | vlog2 (x : LArgs)
  /-- VSIN (R227). -/
  | vsin (x : LArgs)
  /-- VCOS (R227). -/
  | vcos (x : LArgs)
  /-- VRCP (R227). -/
  | vrcp (x : LArgs)
  /-- VRSQ (R227). -/
  | vrsq (x : LArgs)
  /-- VBFLY (R228). -/
  | vbfly (x : LArgs)
  /-- VTWID (R229). -/
  | vtwid (x : LArgs)
  /-- VCMUL (R230). -/
  | vcmul (x : LArgs)
  /-- VDOT (R231). -/
  | vdot (x : LArgs)
  /-- VLD (R245). -/
  | vld (x : MArgs)
  /-- VST (R245). -/
  | vst (x : MArgs)
  /-- VLDG (R245). -/
  | vldg (x : MArgs)
  /-- VSTG (R245). -/
  | vstg (x : MArgs)
  /-- VLDS (R245). -/
  | vlds (x : MArgs)
  /-- VSTS (R245). -/
  | vsts (x : MArgs)
  /-- VLDD (R245). -/
  | vldd (x : MArgs)
  /-- VSTD (R245). -/
  | vstd (x : MArgs)
  /-- VPRF (R248). -/
  | vprf (x : MArgs)
  /-- VATOM (R251). -/
  | vatom (x : MArgs)
  /-- VATOM_ORD (R254). -/
  | vatomOrd (x : MArgs)
  /-- VBANK (R258). -/
  | vbank (x : MArgs)
  /-- FENCE (R260). -/
  | fence (x : MArgs)
  /-- TLD (R272). -/
  | tld (x : TArgs)
  /-- TST (R272). -/
  | tst (x : TArgs)
  /-- TZERO (R273). -/
  | tzero (x : TArgs)
  /-- TMMA (R276). -/
  | tmma (x : TArgs)
  /-- TMMQ (R277). -/
  | tmmq (x : TArgs)
  /-- TCVT (R273). -/
  | tcvt (x : TArgs)
  /-- TADD (R273). -/
  | tadd (x : TArgs)
  /-- TMERGE (R279). -/
  | tmerge (x : TArgs)
  /-- SIGZ (R323). -/
  | sigz (x : TArgs)
  /-- SIGX (R324). -/
  | sigx (x : TArgs)
  /-- SIGJ (R325). -/
  | sigj (x : TArgs)
  /-- SIGLOG (R326). -/
  | siglog (x : TArgs)
  /-- CPY (R285). -/
  | cpy (x : AArgs)
  /-- CPY2D (R285). -/
  | cpy2d (x : AArgs)
  /-- COLL (R293). -/
  | coll (x : AArgs)
  /-- VSHFL (R232). -/
  | vshfl (x : LArgs)
  /-- VRED (R233). -/
  | vred (x : LArgs)
  /-- VSCAN (R234). -/
  | vscan (x : LArgs)
  /-- VBCAST (R235). -/
  | vbcast (x : LArgs)
  /-- VTOS (R236). -/
  | vtos (x : LArgs)
  /-- VMSK (R237). -/
  | vmsk (x : LArgs)
  /-- VLID (R238). -/
  | vlid (x : LArgs)
  /-- IVCMP (R308). -/
  | ivcmp (x : LArgs)
  /-- IVHULL (R309). -/
  | ivhull (x : LArgs)
  /-- IVWID (R310). -/
  | ivwid (x : LArgs)
  /-- IVSUM (R311). -/
  | ivsum (x : LArgs)
  /-- JOIN_WAIT_TIMEOUT (R55). -/
  | joinWaitTimeout (g : Nat)
  /-- LANE_ISSUE (R367). -/
  | laneIssue (core quad : Nat)
  /-- LANE_INSTR_COMPLETE (R71). -/
  | laneInstrComplete (g id : Nat)
  /-- UNCORRECTABLE_CONSUME (R395). -/
  | uncorrectableConsume (g : Nat)
  /-- TILE_OP_START (R263). -/
  | tileOpStart (k : Nat)
  /-- TILE_OP_COMPLETE (R263). -/
  | tileOpComplete (k : Nat)
  /-- TMERGE_RESUME (R279). -/
  | tmergeResume (k : Nat)
  /-- SPAN_INSTANCE_START (R281). -/
  | spanInstanceStart (k : Nat)
  /-- PARKED_OP_RECHECK (R269). -/
  | parkedOpRecheck (k : Nat)
  /-- COPY_BYTE_TRANSFER (R288). -/
  | copyByteTransfer (k n : Nat)
  /-- COPY_OVERLAP_STALL_END (R287). -/
  | copyOverlapStallEnd (g : Nat)
  /-- COPY_SUSPEND (R290). -/
  | copySuspend (k : Nat)
  /-- COPY_RESUME (R290). -/
  | copyResume (k : Nat)
  /-- COPY_COMPLETE (R288). -/
  | copyComplete (k : Nat)
  /-- COPY_FAIL (R291). -/
  | copyFail (k : Nat)
  /-- COLL_INSTANCE_START (R294). -/
  | collInstanceStart (k : Nat)
  /-- CHUNK_DEPART (R299). -/
  | chunkDepart (k : Nat)
  /-- CHUNK_ARRIVE (R423). -/
  | chunkArrive (c comm src : Nat) (m : Chunk)
  /-- CHUNK_COMBINE (R423). -/
  | chunkCombine (k : Nat)
  /-- SLOT_RELEASE_NOTICE (R421). -/
  | slotReleaseNotice (c comm src : Nat)
  /-- FAIL_NOTICE (R423). -/
  | failNotice (c comm src : Nat)
  /-- COLL_COMPLETE (R298). -/
  | collComplete (k : Nat)
  /-- COLL_FAIL (R299). -/
  | collFail (k : Nat)
  /-- DFETCH_WAKE (R30). -/
  | dfetchWake (g : Nat)
  /-- BARRIER_RELEASE (R202). -/
  | barrierRelease (g : Nat)
  /-- WWAIT_WAKE (R203). -/
  | wwaitWake (g : Nat)
  /-- TKT_REREAD (R204). -/
  | tktReread (g : Nat)
  /-- JOIN_WAKE (R201). -/
  | joinWake (g : Nat)
  /-- VGROW_GRANT (R38). -/
  | vgrowGrant (slot : Nat)
  /-- VGROW_DEADLOCK_SAVE (R39). -/
  | vgrowDeadlockSave (slot : Nat)
  /-- GROUP_RESTORE (R40). -/
  | groupRestore (g : Nat)
  /-- JOINED_GROUP_SAVE (R36). -/
  | joinedGroupSave (c : Nat)
  /-- STACK_WRITEBACK (R77). -/
  | stackWriteback (core : Nat)
  /-- STACK_WRITEBACK_RETRY (R77). -/
  | stackWritebackRetry (core : Nat)
  /-- LAUNCH_BIND (R174). -/
  | launchBind (l : Nat)
  /-- LAUNCH_PLACE (R26). -/
  | launchPlace (l : Nat)
  /-- CHILD_PLACE (R365). -/
  | childPlace (c : Nat)
  /-- LAUNCH_COMPLETE (R27). -/
  | launchComplete (l : Nat)
  /-- APPLY_ORDERED_ATOMICS (R257). -/
  | applyOrderedAtomics (l : Nat)
  /-- VACATE (R348). -/
  | vacate (c : Nat)
  /-- RESUME (R349). -/
  | resume (c : Nat)
  /-- DISABLE (R341). -/
  | disable (c : Nat)
  /-- HANDLER_WINDOW_CLOSE (R137). -/
  | handlerWindowClose (c : Nat)
  /-- VACATE_DRAIN_DONE (R348). -/
  | vacateDrainDone (c : Nat)
  /-- SPILL_DONE (R348). -/
  | spillDone (c : Nat)
  /-- FILL_DONE (R349). -/
  | fillDone (c : Nat)
  /-- RESUME_EXCHANGE (R349). -/
  | resumeExchange (c : Nat)
  /-- CTXCTL_WRITE (R341). -/
  | ctxctlWrite (c : Nat) (v : W64)
  /-- PART_WRITE (R342). -/
  | partWrite (c k : Nat) (v : W64)
  /-- VBREQ_WRITE (R343). -/
  | vbreqWrite (c : Nat) (v : W64)
  /-- BOUND_APPLY (R343). -/
  | boundApply (c : Nat)
  /-- FLOOR_WRITE (R346). -/
  | floorWrite (c n : Nat) (v : W64)
  /-- FLOOR_APPLY (R346). -/
  | floorApply (c : Nat)
  /-- EVT_CLEAR (R354). -/
  | evtClear (c : Nat) (v : W64)
  /-- QUOTA_WRITE (R370). -/
  | quotaWrite (c : Nat) (v : W64)
  /-- REGISTER_WRITE (R340). -/
  | registerWrite (addr : Nat) (v : W64)
  /-- BOUND_EXCURSION (R354). -/
  | boundExcursion (c start stop : Nat)
  /-- TOKEN_DEBIT (R368). -/
  | tokenDebit
  /-- TOKEN_REFILL (R370). -/
  | tokenRefill
  /-- SLOT_REQUEST (R371). -/
  | slotRequest (l : Nat)
  /-- TAIL_SNOOP (R356). -/
  | tailSnoop (c q : Nat)
  /-- LAUNCH_PACKET (R359). -/
  | launchPacket (c q : Nat)
  /-- SIGNAL_PACKET (R361). -/
  | signalPacket (c q : Nat)
  /-- WAIT_PACKET (R361). -/
  | waitPacket (c q : Nat)
  /-- WAIT_SATISFIED (R361). -/
  | waitSatisfied (c q : Nat)
  /-- GRAPH_OPEN (R361). -/
  | graphOpen (c q : Nat)
  /-- GRAPH_CANCEL (R34). -/
  | graphCancel (c q : Nat)
  /-- COPY_PACKET (R361). -/
  | copyPacket (c q : Nat)
  /-- SHOOTDOWN (R378). -/
  | shootdown (c : Nat)
  /-- SHOOTDOWN_DONE (R378). -/
  | shootdownDone (c : Nat)
  /-- PFDONE (R398). -/
  | pfdone (c : Nat) (v : W64)
  /-- LOCKET_FAULT (R399). -/
  | locketFault (g : Nat)
  /-- MOVE (R381). -/
  | move
  /-- SWAP (R385). -/
  | swap
  /-- EVACUATE (R392). -/
  | evacuate
  /-- ABORT (R390). -/
  | abort
  /-- LINE_COPY (R381). -/
  | lineCopy (r : Nat)
  /-- SOURCE_HOME_REQUEST (R382). -/
  | sourceHomeRequest (g id : Nat)
  /-- MOVE_COMPLETE (R384). -/
  | moveComplete (r : Nat)
  /-- MOVE_RETIRE (R384). -/
  | moveRetire (r : Nat)
  /-- MOVE_ABORT (R390). -/
  | moveAbort (r : Nat)
  /-- HOTNESS_REPORT (R387). -/
  | hotnessReport
  /-- THRASH_PIN_EXPIRE (R389). -/
  | thrashPinExpire (c va : Nat)
  /-- CORRECTED_THRESHOLD (R404). -/
  | correctedThreshold (die loc : Nat)
  /-- RETIREMENT_DONE (R408). -/
  | retirementDone (kind n : Nat)
  /-- RELAUNCH (R409). -/
  | relaunch (c : Nat)
  /-- FLIT_RECEIVE (R413). -/
  | flitReceive (port : Nat) (flit : List Byte)
  /-- LINK_REPLAY (R413). -/
  | linkReplay (port : Nat)
  /-- LINK_RETRAIN (R413). -/
  | linkRetrain (port : Nat)
  /-- PORT_DOWN (R415). -/
  | portDown (port : Nat)
  /-- PCTL_WRITE (R417). -/
  | pctlWrite (v : W64)
  /-- FABRIC_REQUEST (R418). -/
  | fabricRequest (port vc : Nat)
  /-- PAUSE_NOTICE (R419). -/
  | pauseNotice (port vc : Nat)
  /-- RESUME_NOTICE (R419). -/
  | resumeNotice (port vc : Nat)
  /-- DEBUG_STOP (R434). -/
  | debugStop (c : Nat) (v : W64)
  /-- DEBUG_RESUME (R436). -/
  | debugResume (c : Nat) (v : W64)
  /-- DEBUG_STEP (R434). -/
  | debugStep (c : Nat) (v : W64)
  /-- DEBUG_STOP_SAVE (R435). -/
  | debugStopSave (g : Nat)
  /-- WATCH_HIT (R439). -/
  | watchHit (c : Nat)
  /-- WATCHPOINT_WRITE (R437). -/
  | watchpointWrite (c n : Nat) (v : W64)
  /-- TARGET_WRITE (R432). -/
  | targetWrite (c k f : Nat) (v : W64)
  /-- SPERIOD_WRITE (R431). -/
  | speriodWrite (c : Nat) (v : W64)
  /-- SAMPLE_TAG (R441). -/
  | sampleTag (core quad : Nat)
  /-- SAMPLE_RECORD (R442). -/
  | sampleRecord (core quad : Nat)
  /-- REPLAY_DIVERGED (R444). -/
  | replayDiverged (l : Nat)
  /-- POWER_GOOD (R446). -/
  | powerGood
  /-- CLOCK_STEP_START (R447). -/
  | clockStepStart (die : Nat)
  /-- CLOCK_RESTART (R447). -/
  | clockRestart (die : Nat)
  /-- THERMAL_STEP_DOWN (R451). -/
  | thermalStepDown (die : Nat)
  /-- THERMAL_STEP_UP (R451). -/
  | thermalStepUp (die : Nat)
  /-- SELF_REFRESH_ENTER (R407). -/
  | selfRefreshEnter (stack : Nat)
  /-- SELF_REFRESH_EXIT (R407). -/
  | selfRefreshExit (stack : Nat)
  /-- DIE_THERMAL_STOP (R451). -/
  | dieThermalStop (die : Nat)
  /-- TELEMETRY (R452). -/
  | telemetry (die : Nat)
  /-- STEP (R447). -/
  | step (die mhz : Nat)
  /-- CEILING (R451). -/
  | ceiling (die mhz : Nat)
  /-- TRIM (R450). -/
  | trim (ppb : Int)
  /-- LOGREAD (R452). -/
  | logread (off : Nat)
  /-- FWUPDATE (R453). -/
  | fwupdate (chunk : List Byte)
  /-- RETIRE (R408). -/
  | retire (kind n : Nat)
  /-- HOSTLINK (R426). -/
  | hostlink (port : Nat)
  /-- RESET (R452). -/
  | reset
  /-- SCALAR_ACCESS_COMPLETE (R188). -/
  | scalarAccessComplete (g id : Nat)
  /-- LINK_TRAIN_DONE (R413). -/
  | linkTrainDone (port : Nat)
  /-- ILLEGAL_SCALAR_WORD (R158). -/
  | illegalScalarWord
  /-- SCALAR_FETCH_FAULT (R191). -/
  | scalarFetchFault
  deriving DecidableEq, Repr

end Sys2Proof
end

