-- ==== Sys2Proof/Machine/Num.lean ====
section
/-!
DEFINITION. Number formats and exact arithmetic (07 R109 to R125): exact values, decoding, rounding
once to a format with its flags, the stochastic draw, conversion to integers.
-/
namespace Sys2Proof.Machine

/-- Bits hi down to lo of a number (R144). -/
def bits (w hi lo : Nat) : Nat := w / 2 ^ lo % 2 ^ (hi - lo + 1)

/-- The low n bits of a number, read as a two's complement integer (R144 `sext`). -/
def sext (n x : Nat) : Int :=
  if x % 2 ^ n < 2 ^ (n - 1) then ((x % 2 ^ n : Nat) : Int) else ((x % 2 ^ n : Nat) : Int) - ((2 ^ n : Nat) : Int)

/-- An integer modulo 2^n. -/
def wrap (n : Nat) (x : Int) : Nat := (x % ((2 ^ n : Nat) : Int)).toNat

/-- One bit of a number. -/
def bitOf (x i : Nat) : Bool := x / 2 ^ i % 2 == 1

/-- The number of bits needed to write a number. -/
def bitLen (n : Nat) : Nat := if n = 0 then 0 else Nat.log2 n + 1

/-- 1 for true and 0 for false. -/
def b2n (b : Bool) : Nat := if b then 1 else 0

/-- Ceiling of a quotient. -/
def ceilDiv (a b : Nat) : Nat := (a + b - 1) / b

/-! ## Types -/

/-- The code of a type in the fields `ty`, AT, BT, OT and BT (R149). -/
def tyCode : Ty → Nat
  | .i32 => 0 | .n32 => 1 | .i64 => 2 | .n64 => 3 | .f32 => 4 | .f64 => 5 | .f16 => 6 | .bf16 => 7
  | .e4m3 => 8 | .e5m2 => 9 | .e3m2 => 10 | .e2m3 => 11 | .e2m1 => 12 | .q8 => 13 | .q4 => 14 | .i16 => 15

/-- The type of a four-bit code (R149). -/
def tyOf (n : Nat) : Ty :=
  match n % 16 with
  | 0 => .i32 | 1 => .n32 | 2 => .i64 | 3 => .n64 | 4 => .f32 | 5 => .f64 | 6 => .f16 | 7 => .bf16
  | 8 => .e4m3 | 9 => .e5m2 | 10 => .e3m2 | 11 => .e2m3 | 12 => .e2m1 | 13 => .q8 | 14 => .q4 | _ => .i16

/-- The width of an element of a type, in bits (R109, R110, R112). -/
def tyWidth : Ty → Nat
  | .i32 | .n32 | .f32 => 32
  | .i64 | .n64 | .f64 => 64
  | .f16 | .bf16 | .i16 => 16
  | .e4m3 | .e5m2 | .q8 => 8
  | .e3m2 | .e2m3 => 6
  | .e2m1 | .q4 => 4

/-- The types that fill an even-odd pair of registers (R151). -/
def tyIs64 : Ty → Bool
  | .i64 | .n64 | .f64 => true
  | _ => false

/-- The integer types of lane arithmetic (R218). -/
def tyIsInt : Ty → Bool
  | .i32 | .n32 | .i64 | .n64 | .i16 => true
  | _ => false

/-- The signed integer types. -/
def tySigned : Ty → Bool
  | .i32 | .i64 | .i16 => true
  | _ => false

/-- The floating-point types (R109). -/
def tyIsFloat : Ty → Bool
  | .f32 | .f64 | .f16 | .bf16 | .e4m3 | .e5m2 | .e3m2 | .e2m3 | .e2m1 => true
  | _ => false

/-- The layout of a floating-point format: exponent bits, mantissa bits, bias, and which infinities
and NaNs it has (R109). -/
structure Fmt where
  ebits : Nat
  mbits : Nat
  bias : Nat
  ieee : Bool
  deriving DecidableEq, Repr

/-- The formats of R109; integer types answer the layout of `f32`, which nothing reads. -/
def tyFmt : Ty → Fmt
  | .f64 => ⟨11, 52, 1023, true⟩
  | .f16 => ⟨5, 10, 15, true⟩
  | .bf16 => ⟨8, 7, 127, true⟩
  | .e4m3 => ⟨4, 3, 7, false⟩
  | .e5m2 => ⟨5, 2, 15, true⟩
  | .e3m2 => ⟨3, 2, 3, false⟩
  | .e2m3 => ⟨2, 3, 1, false⟩
  | .e2m1 => ⟨2, 1, 1, false⟩
  | _ => ⟨8, 23, 127, true⟩

/-- The encoding, without its sign, of the largest finite value (R109). -/
def maxEnc (t : Ty) : Nat :=
  let f := tyFmt t
  if f.ieee then (2 ^ f.ebits - 1) * 2 ^ f.mbits - 1
  else match t with
    | .e4m3 => 0x7E
    | _ => 2 ^ (f.ebits + f.mbits) - 1

/-- The encoding of +infinity in the formats that have one. -/
def infEnc (t : Ty) : Nat := (2 ^ (tyFmt t).ebits - 1) * 2 ^ (tyFmt t).mbits

/-- The sign bit of a format. -/
def signBit (t : Ty) : Nat := 2 ^ ((tyFmt t).ebits + (tyFmt t).mbits)

/-- The formats that have a NaN (R109). -/
def hasNan (t : Ty) : Bool := (tyFmt t).ieee || t == .e4m3

/-- The canonical NaN of a format (R116). -/
def canon (t : Ty) : Nat :=
  match t with
  | .e4m3 => 0x7F
  | _ => infEnc t + 2 ^ ((tyFmt t).mbits - 1)

/-! ## Exact values -/

/-- An exact magnitude with a sign: m * 2^e, and, where `more` holds, a further positive amount smaller
than 2^e, which stands for the bits of an infinite expansion below the last one kept. -/
structure Exact where
  neg : Bool
  m : Nat
  e : Int
  more : Bool
  deriving DecidableEq, Repr

/-- What a floating-point operand is: a NaN (signalling or quiet; an invalid operation's result counts as
signalling, since both raise NV), an infinity or an exact finite value. -/
inductive Val where
  | nan (signalling : Bool)
  | inf (neg : Bool)
  | fin (x : Exact)
  deriving DecidableEq, Repr

/-- A zero of a sign. -/
def Exact.zero (neg : Bool) : Exact := ⟨neg, 0, 0, false⟩

/-- An exact integer. -/
def Exact.ofInt (x : Int) : Exact := ⟨decide (x < 0), x.natAbs, 0, false⟩

/-- The value is zero. -/
def Exact.isZero (x : Exact) : Bool := x.m == 0 && !x.more

/-- The value as a multiple of 2^g, for g at most its exponent; the sticky part is left out. -/
def Exact.scaled (x : Exact) (g : Int) : Int :=
  let k : Int := ((x.m * 2 ^ (x.e - g).toNat : Nat) : Int)
  if x.neg then -k else k

/-- The exact product. -/
def Exact.mul (x y : Exact) : Exact := ⟨x.neg != y.neg, x.m * y.m, x.e + y.e, false⟩

/-- The smallest exponent of a list of values. -/
def minExp : List Exact → Int
  | [] => 0
  | [x] => x.e
  | x :: t => min x.e (minExp t)

/-- The exact sum of a list of values. A sum of zero is -0 where `zneg` holds. -/
def Exact.sum (xs : List Exact) (zneg : Bool) : Exact :=
  let g := minExp xs
  let s := xs.foldl (fun acc x => acc + x.scaled g) (0 : Int)
  if s = 0 then Exact.zero zneg else ⟨decide (s < 0), s.natAbs, g, false⟩

/-- The comparison of two exact values without sticky parts: x < y. -/
def Exact.lt (x y : Exact) : Bool :=
  let g := min x.e y.e
  decide (x.scaled g < y.scaled g)

/-- The two values are equal as numbers. -/
def Exact.eqv (x y : Exact) : Bool :=
  let g := min x.e y.e
  decide (x.scaled g = y.scaled g)

/-- Multiplication by a power of two. -/
def Exact.shift (x : Exact) (k : Int) : Exact := { x with e := x.e + k }

/-- The integer square root, by the bits of the root from bit n down. -/
def isqrtGo (x : Nat) : Nat → Nat → Nat
  | 0, r => if (r + 1) * (r + 1) ≤ x then r + 1 else r
  | n + 1, r =>
    let r' := r + 2 ^ (n + 1)
    if r' * r' ≤ x then isqrtGo x n r' else isqrtGo x n r

/-- The integer square root. -/
def isqrt (x : Nat) : Nat := isqrtGo x (bitLen x / 2 + 1) 0

/-- The quotient of two nonzero values, to at least 140 significant bits, with its sticky part (the
second value is not zero). -/
def Exact.div (x y : Exact) : Exact :=
  let k := 140 + bitLen y.m
  let n := x.m * 2 ^ k
  ⟨x.neg != y.neg, n / y.m, x.e - y.e - (k : Int), n % y.m != 0⟩

/-- The square root of a value that is not negative, to at least 140 significant bits. -/
def Exact.sqrt (x : Exact) : Exact :=
  let odd : Nat := (x.e % 2).toNat
  let n := x.m * 2 ^ (odd + 320)
  let r := isqrt n
  ⟨x.neg, r, (x.e - odd) / 2 - 160, r * r != n⟩

/-! ## Decoding -/

/-- `decode` of R125 with the flushing of inputs of R118 (`fz` = 1 flushes). -/
def decodeVal (t : Ty) (fz : Nat) (b : Nat) : Val :=
  let f := tyFmt t
  let mag := b % 2 ^ (f.ebits + f.mbits)
  let neg := bitOf b (f.ebits + f.mbits)
  let ex := mag / 2 ^ f.mbits
  let mn := mag % 2 ^ f.mbits
  if f.ieee && ex == 2 ^ f.ebits - 1 then
    if mn = 0 then .inf neg else .nan (mn < 2 ^ (f.mbits - 1))
  else if t = .e4m3 ∧ mag = 0x7F then .nan false
  else if ex = 0 then
    if fz = 1 then .fin (Exact.zero neg) else .fin ⟨neg, mn, 1 - (f.bias : Int) - (f.mbits : Int), false⟩
  else .fin ⟨neg, 2 ^ f.mbits + mn, (ex : Int) - (f.bias : Int) - (f.mbits : Int), false⟩

/-- An operand's bits after input flushing (R118), for the instructions that copy an operand. -/
def flushIn (t : Ty) (fz : Nat) (b : Nat) : Nat :=
  let f := tyFmt t
  let mag := b % 2 ^ (f.ebits + f.mbits)
  if fz = 1 ∧ mag / 2 ^ f.mbits = 0 then b - mag else b

/-! ## Flags and modes -/

/-- Invalid operation (R117). -/
def fNV : W32 := 16#32
/-- Division by zero. -/
def fDZ : W32 := 8#32
/-- Overflow. -/
def fOF : W32 := 4#32
/-- Underflow. -/
def fUF : W32 := 2#32
/-- Inexact. -/
def fNX : W32 := 1#32

/-- The rounding modes (R113), in the order of their codes 0 to 5. -/
inductive RMode where
  | rne | rtz | rdn | rup | rna | rst
  deriving DecidableEq, Repr

/-- The mode of a code 0 to 5. -/
def rmodeOf : Nat → RMode
  | 0 => .rne | 1 => .rtz | 2 => .rdn | 3 => .rup | 4 => .rna | _ => .rst

/-- Field RM of a format word (R119). -/
def fmtRM (fmt : W32) : Nat := bits fmt.toNat 13 11
/-- Field FZ of a format word. -/
def fmtFZ (fmt : W32) : Nat := bits fmt.toNat 10 9
/-- Field SG of a format word. -/
def fmtSG (fmt : W32) : Nat := bits fmt.toNat 15 14
/-- Field OT of a format word. -/
def fmtOT (fmt : W32) : Nat := bits fmt.toNat 19 16
/-- Field BT of a format word. -/
def fmtBT (fmt : W32) : Nat := bits fmt.toNat 23 20
/-- Field AT of a format word. -/
def fmtAT (fmt : W32) : Nat := bits fmt.toNat 27 24

/-- The format word has no reserved pattern (R119). -/
def fmtValid (v : Nat) : Bool :=
  decide (v < 2 ^ 28) && bits v 15 14 != 3 && decide (bits v 13 11 < 6) && bits v 10 9 != 3 && v % 2 ^ 9 == 0

/-- The mode of an instruction's `rm` field: code 6, `.rfm`, takes the mode of the governing format word
(R113). -/
def modeOf (rm : Nat) (fmt : W32) : RMode := if rm = 6 then rmodeOf (fmtRM fmt) else rmodeOf rm

/-! ## Stochastic rounding -/

/-- One step of the generator, Galois form (R115). -/
def lfsrStep (s : W32) : W32 :=
  if s.getLsbD 0 then (s >>> 1) ^^^ 0x80200003#32 else s >>> 1

/-- n steps of the generator. -/
def lfsrSteps : Nat → W32 → W32
  | 0, s => s
  | n + 1, s => lfsrSteps n (lfsrStep s)

/-- The state after one draw: 32 steps (R115). -/
def lfsrAdvance (s : W32) : W32 := lfsrSteps 32 s

/-- The state of a lane at group start (R115). -/
def lfsrInit (seed bid gid lane : Nat) : W32 :=
  let s := BitVec.ofNat 32 seed ^^^ (BitVec.ofNat 32 bid * 0x9E3779B9#32) ^^^
    (BitVec.ofNat 32 gid * 0x85EBCA6B#32) ^^^ (BitVec.ofNat 32 lane * 0xC2B2AE35#32)
  if s = 0#32 then 1#32 else s

/-! ## Rounding to a grid -/

/-- A value cut at the grid 2^g: the whole multiples below it, whether a half is reached, exceeded or missed
(-1 below a half, 0 a half, 1 above), whether anything is left, and the first 24 bits left (R115). -/
structure Cut where
  k : Nat
  half : Int
  rest : Bool
  d24 : Nat
  deriving DecidableEq, Repr

/-- Cuts the magnitude of a value at the grid 2^g. -/
def cutAt (x : Exact) (g : Int) : Cut :=
  if g ≤ x.e then ⟨x.m * 2 ^ (x.e - g).toNat, -1, x.more, 0⟩
  else
    let n := (g - x.e).toNat
    let r := x.m % 2 ^ n
    let h := 2 ^ (n - 1)
    ⟨x.m / 2 ^ n,
     if r < h then -1 else if r = h ∧ x.more = false then 0 else 1,
     r != 0 || x.more,
     if 24 ≤ n then r / 2 ^ (n - 24) else r * 2 ^ (24 - n)⟩

/-- Whether a cut value goes away from zero, by mode; `draw` is the random number R of R115. -/
def goesUp (rm : RMode) (neg : Bool) (draw : Nat) (c : Cut) : Bool :=
  match rm with
  | .rne => c.half == 1 || (c.half == 0 && c.k % 2 == 1)
  | .rtz => false
  | .rdn => neg && c.rest
  | .rup => !neg && c.rest
  | .rna => c.half == 1 || c.half == 0
  | .rst => decide (2 ^ 24 ≤ c.d24 + draw)

/-- The result of a rounding: the encoding, the flags raised, the state of the lane's generator. -/
structure Rounded where
  bits : Nat
  flags : W32
  lfsr : W32
  deriving DecidableEq, Repr

/-- What an overflow gives, without its sign (R114). -/
def overflowEnc (t : Ty) (rm : RMode) (neg : Bool) : Nat :=
  if (tyFmt t).ieee then
    match rm with
    | .rtz => maxEnc t
    | .rdn => if neg then infEnc t else maxEnc t
    | .rup => if neg then maxEnc t else infEnc t
    | _ => infEnc t
  else maxEnc t

/-- floor(log2) of the magnitude of a value whose m is not zero. -/
def Exact.top (x : Exact) : Int := x.e + (bitLen x.m : Int) - 1

/-- The step of `round` of R125 that forms y: a finite value, not flushed. -/
def roundFin (t : Ty) (rm : RMode) (s : W32) (x : Exact) : Rounded :=
  let f := tyFmt t
  let draw := (s >>> 8).toNat
  let s' := if rm = .rst then lfsrAdvance s else s
  let sb := if x.neg then signBit t else 0
  if x.isZero then ⟨sb, 0#32, s'⟩
  else
    let emin : Int := 1 - (f.bias : Int)
    let g : Int := max x.top emin - (f.mbits : Int)
    let c := cutAt x g
    let up := goesUp rm x.neg draw c
    let k := c.k + b2n up
    let enc : Nat := (g - (emin - (f.mbits : Int))).toNat * 2 ^ f.mbits + k
    if maxEnc t < enc then ⟨sb + overflowEnc t rm x.neg, fOF ||| fNX, s'⟩
    else
      let gu : Int := x.top - (f.mbits : Int)
      let cu := cutAt x gu
      let upu := if rm = .rst then up && cu.rest else goesUp rm x.neg draw cu
      let tiny : Bool := decide (x.top < emin) &&
        !(decide (x.top + 1 = emin) && decide (cu.k + b2n upu = 2 ^ (f.mbits + 1)))
      ⟨sb + enc, if c.rest then (if tiny then fNX ||| fUF else fNX) else 0#32, s'⟩

/-- `round` of R125: the encoding of an exact value in a format, with its flags and its draw. -/
def roundVal (t : Ty) (rm : RMode) (fz : Nat) (s : W32) (v : Val) : Rounded :=
  match v with
  | .nan sig =>
    if hasNan t then ⟨canon t, if sig then fNV else 0#32, s⟩ else ⟨0, fNV, s⟩
  | .inf neg =>
    let sb := if neg then signBit t else 0
    if (tyFmt t).ieee then ⟨sb + infEnc t, 0#32, s⟩
    else if t = .e4m3 then ⟨canon t, fNV, s⟩
    else ⟨sb + maxEnc t, fOF ||| fNX, s⟩
  | .fin x =>
    if fz ≠ 0 ∧ x.isZero = false ∧ x.top < 1 - ((tyFmt t).bias : Int) then
      ⟨if x.neg then signBit t else 0, fUF ||| fNX, s⟩
    else roundFin t rm s x

/-- `racc` of R125: the array's own accumulation, to nearest even and never flushed. -/
def racc (v : Val) : Nat := (roundVal .f32 .rne 0 0#32 v).bits

/-- `lo` of R125: rounding down to `f32`, no flags. -/
def rndLo (fz : Nat) (v : Val) : Nat := (roundVal .f32 .rdn fz 0#32 v).bits
/-- `hi` of R125: rounding up to `f32`, no flags. -/
def rndHi (fz : Nat) (v : Val) : Nat := (roundVal .f32 .rup fz 0#32 v).bits

/-- The result of a conversion to an integer: the value, the flags, the generator. -/
structure RoundedInt where
  val : Int
  flags : W32
  lfsr : W32
  deriving DecidableEq, Repr

/-- The smallest value of an integer type. -/
def tyMin (t : Ty) : Int := if tySigned t then -((2 ^ (tyWidth t - 1) : Nat) : Int) else 0
/-- The largest value of an integer type. -/
def tyMax (t : Ty) : Int :=
  if tySigned t then ((2 ^ (tyWidth t - 1) : Nat) : Int) - 1 else ((2 ^ tyWidth t : Nat) : Int) - 1

/-- `toint` of R125, with NX where a finite value changes (R226). -/
def toInt (t : Ty) (rm : RMode) (s : W32) (v : Val) : RoundedInt :=
  match v with
  | .nan _ => ⟨0, fNV, s⟩
  | .inf neg => ⟨if neg then tyMin t else tyMax t, fNV, s⟩
  | .fin x =>
    let draw := (s >>> 8).toNat
    let s' := if rm = .rst then lfsrAdvance s else s
    let c := cutAt x 0
    let k := c.k + b2n (goesUp rm x.neg draw c)
    let y : Int := if x.neg then -(k : Int) else (k : Int)
    if y < tyMin t then ⟨tyMin t, fNV ||| fNX, s'⟩
    else if tyMax t < y then ⟨tyMax t, fNV ||| fNX, s'⟩
    else ⟨y, if c.rest then fNX else 0#32, s'⟩

/-! ## Sums and products of operands -/

/-- The sign of a value. -/
def Val.neg : Val → Bool
  | .nan _ => false
  | .inf n => n
  | .fin x => x.neg

/-- The value is a NaN. -/
def Val.isNan : Val → Bool
  | .nan _ => true
  | _ => false

/-- The value is a signalling NaN. -/
def Val.isSig : Val → Bool
  | .nan s => s
  | _ => false

/-- The value is a zero. -/
def Val.isZero : Val → Bool
  | .fin x => x.isZero
  | _ => false

/-- The value with its sign turned; a NaN stays as it is. -/
def Val.negate : Val → Val
  | .nan s => .nan s
  | .inf n => .inf (!n)
  | .fin x => .fin { x with neg := !x.neg }

/-- The exact value, or zero for a NaN or an infinity. -/
def Val.exact : Val → Exact
  | .fin x => x
  | _ => Exact.zero false

/-- The exact product; 0 times infinity is invalid (R222). -/
def Val.mul (x y : Val) : Val :=
  match x, y with
  | .nan s, .nan s' => .nan (s || s')
  | .nan s, _ => .nan s
  | _, .nan s => .nan s
  | .inf n, .inf n' => .inf (n != n')
  | .inf n, .fin b => if b.isZero then .nan true else .inf (n != b.neg)
  | .fin a, .inf n => if a.isZero then .nan true else .inf (a.neg != n)
  | .fin a, .fin b => .fin (a.mul b)

/-- The terms hold both infinities (R222). -/
def bothInf (ts : List Val) : Bool := ts.contains (.inf false) && ts.contains (.inf true)

/-- The exact sum of terms, with the IEEE rules for NaNs, infinities and the sign of an exact zero sum:
-0 where every term is -0, or, under RDN, where the zeros do not agree (R222). Terms that hold both infinities are invalid
also beside a quiet NaN (R228, R231, R233). -/
def Val.sum (rm : RMode) (ts : List Val) : Val :=
  if ts.any Val.isNan then .nan (ts.any Val.isSig || bothInf ts)
  else if ts.any (fun v => v == .inf false) then
    if ts.any (fun v => v == .inf true) then .nan true else .inf false
  else if ts.any (fun v => v == .inf true) then .inf true
  else
    let allNeg := ts.all (fun v => v.isZero && v.neg)
    let allPos := ts.all (fun v => v.isZero && !v.neg)
    .fin (Exact.sum (ts.map Val.exact) (allNeg || (rm == .rdn && !allPos)))

/-- The exact quotient, with whether DZ is raised (R222). -/
def Val.div (x y : Val) : Val × W32 :=
  match x, y with
  | .nan s, .nan s' => (.nan (s || s'), 0#32)
  | .nan s, _ => (.nan s, 0#32)
  | _, .nan s => (.nan s, 0#32)
  | .inf _, .inf _ => (.nan true, 0#32)
  | .inf n, .fin b => (.inf (n != b.neg), 0#32)
  | .fin a, .inf n => (.fin (Exact.zero (a.neg != n)), 0#32)
  | .fin a, .fin b =>
    if b.isZero then
      if a.isZero then (.nan true, 0#32) else (.inf (a.neg != b.neg), fDZ)
    else if a.isZero then (.fin (Exact.zero (a.neg != b.neg)), 0#32)
    else (.fin (a.div b), 0#32)

/-- The exact square root (R222). -/
def Val.sqrt (x : Val) : Val :=
  match x with
  | .nan s => .nan s
  | .inf n => if n then .nan true else .inf false
  | .fin a => if a.isZero then .fin a else if a.neg then .nan true else .fin a.sqrt

/-- A numeric comparison of two values that are not NaNs: less than. -/
def Val.lt (x y : Val) : Bool :=
  match x, y with
  | .inf n, .inf n' => n && !n'
  | .inf n, .fin _ => n
  | .fin _, .inf n => !n
  | .fin a, .fin b => a.lt b
  | _, _ => false

/-- Equal as numbers; -0 equals +0. -/
def Val.eqv (x y : Val) : Bool :=
  match x, y with
  | .inf n, .inf n' => n == n'
  | .fin a, .fin b => a.eqv b
  | _, _ => false

end Sys2Proof.Machine
end

