-- ==== Sys2Proof/Machine/Special.lean ====
section
/-!
DEFINITION. The special functions of 12 R227 and the twiddles of 07 R123, correctly rounded: each value is
enclosed between two fixed-point numbers, and the enclosure is narrowed until both ends round alike.
-/
namespace Sys2Proof.Machine

/-- The terms of arctan(1/n) at scale 2^q, from term index k on; `t` is 2^q / n^(2k+1). -/
def atanInvGo (n : Nat) : Nat → Nat → Nat → Int
  | 0, _, _ => 0
  | fuel + 1, k, t =>
    if t = 0 then 0
    else
      let v : Int := ((t / (2 * k + 1) : Nat) : Int)
      (if k % 2 = 0 then v else -v) + atanInvGo n fuel (k + 1) (t / (n * n))

/-- pi at scale 2^q, by Machin's formula. -/
def piFix (q : Nat) : Nat :=
  (4 * (4 * atanInvGo 5 q 0 (2 ^ q / 5) - atanInvGo 239 q 0 (2 ^ q / 239))).toNat

/-- The terms of a series of odd powers with denominators 1, 3, 5 and so on; `y2` is the square of the
argument. -/
def atanhGo (q y2 : Nat) : Nat → Nat → Nat → Nat
  | 0, _, _ => 0
  | fuel + 1, k, t =>
    if t = 0 then 0 else t / (2 * k + 1) + atanhGo q y2 fuel (k + 1) (t * y2 / 2 ^ q)

/-- The natural logarithm of a number in [1, 2] at scale 2^q. -/
def lnFix (q m : Nat) : Nat :=
  let y := (m - 2 ^ q) * 2 ^ q / (m + 2 ^ q)
  2 * atanhGo q (y * y / 2 ^ q) q 0 y

/-- ln 2 at scale 2^q. -/
def ln2Fix (q : Nat) : Nat := lnFix q (2 ^ (q + 1))

/-- The terms of the exponential series. -/
def expGo (q f : Nat) : Nat → Nat → Nat → Nat
  | 0, _, _ => 0
  | fuel + 1, k, t => if t = 0 then 0 else t + expGo q f fuel (k + 1) (t * f / 2 ^ q / (k + 1))

/-- The exponential of a number in [0, 1) at scale 2^q. -/
def expFix (q f : Nat) : Nat := expGo q f q 0 (2 ^ q)

/-- The terms of the sine (from k = 1) and cosine (from k = 0) series. -/
def sinCosGo (q r2 : Nat) : Nat → Nat → Nat → Int
  | 0, _, _ => 0
  | fuel + 1, k, t => if t = 0 then 0 else (t : Int) - sinCosGo q r2 fuel (k + 2) (t * r2 / 2 ^ q / ((k + 1) * (k + 2)))

/-- The sine of an angle in [0, pi/2] at scale 2^q. -/
def sinFix (q r : Nat) : Nat := (sinCosGo q (r * r / 2 ^ q) q 1 r).toNat
/-- The cosine of an angle in [0, pi/2] at scale 2^q. -/
def cosFix (q r : Nat) : Nat := (sinCosGo q (r * r / 2 ^ q) q 0 (2 ^ q)).toNat

/-- A fixed-point magnitude v at scale 2^q with a sign and an error below 2^24 units, times 2^n. -/
structure Approx where
  neg : Bool
  v : Nat
  q : Nat
  n : Int
  deriving DecidableEq, Repr

/-- The lower and the upper end of the magnitude. -/
def Approx.lo (a : Approx) : Exact := ⟨a.neg, a.v - 2 ^ 24, a.n - (a.q : Int), true⟩
/-- The upper end. -/
def Approx.hi (a : Approx) : Exact := ⟨a.neg, a.v + 2 ^ 24, a.n - (a.q : Int), true⟩

/-- Narrows an enclosure until both ends round to the same encoding with the same flags. -/
def ziv (t : Ty) (rm : RMode) (fz : Nat) (f : Nat → Approx) : List Nat → Rounded
  | [] => ⟨0, 0#32, 0#32⟩
  | q :: qs =>
    let a := f q
    let r := roundVal t rm fz 0#32 (.fin a.lo)
    if decide (2 ^ 25 < a.v) && decide (r = roundVal t rm fz 0#32 (.fin a.hi)) then r
    else match qs with
      | [] => r
      | _ => ziv t rm fz f qs

/-- The scales tried in turn. -/
def zivScales : List Nat := [192, 384, 768, 1536, 3072]

/-- floor(|x| * 2^q) for an exact value. -/
def Exact.fix (x : Exact) (q : Nat) : Nat :=
  let k := x.e + (q : Int)
  if 0 ≤ k then x.m * 2 ^ k.toNat else x.m / 2 ^ (-k).toNat

/-- The special functions (R227). -/
inductive Sfu where
  | exp2 | log2 | sin | cos | rcp | rsq
  deriving DecidableEq, Repr

/-- 2^x for a finite x that is not zero. -/
def sfuExp2 (t : Ty) (rm : RMode) (fz : Nat) (x : Exact) : Rounded :=
  if 14 < x.top then
    roundVal t rm fz 0#32 (.fin ⟨false, 1, if x.neg then -5000 else 5000, true⟩)
  else
    let g := min x.e 0
    let s := x.scaled g
    let d : Int := ((2 ^ (-g).toNat : Nat) : Int)
    let n := s / d
    let fr := (s % d).toNat
    if fr = 0 then roundVal t rm fz 0#32 (.fin ⟨false, 1, n, false⟩)
    else
      ziv t rm fz (fun q =>
        let f := fr * 2 ^ q / 2 ^ (-g).toNat
        ⟨false, expFix q (f * ln2Fix q / 2 ^ q), q, n⟩) zivScales

/-- log2 of a finite x above zero. -/
def sfuLog2 (t : Ty) (rm : RMode) (fz : Nat) (x : Exact) : Rounded :=
  let l := bitLen x.m - 1
  let ex := x.e + (l : Int)
  if x.m = 2 ^ l then roundVal t rm fz 0#32 (.fin (Exact.ofInt ex))
  else
    ziv t rm fz (fun q =>
      let m := x.m * 2 ^ q / 2 ^ l
      let v : Int := ex * ((2 ^ q : Nat) : Int) + ((lnFix q m * 2 ^ q / ln2Fix q : Nat) : Int)
      ⟨decide (v < 0), v.natAbs, q, 0⟩) zivScales

/-- Reduces an angle: the quadrant and the rest at scale 2^q (R227: exactly, for every finite input). -/
def reduceAngle (x : Exact) (q : Nat) : Nat × Nat :=
  let w := q + 192
  let p := piFix w / 2
  let a := x.fix w
  (a / p % 4, a % p / 2 ^ 192)

/-- The sine or the cosine of a finite x that is not zero. -/
def sfuSinCos (t : Ty) (rm : RMode) (fz : Nat) (cosine : Bool) (x : Exact) : Rounded :=
  ziv t rm fz (fun q =>
    let (k, r) := reduceAngle x q
    let k' := if cosine then (k + 1) % 4 else k
    let v := if k' % 2 = 0 then sinFix q r else cosFix q r
    ⟨(decide (2 ≤ k')) != (x.neg && !cosine), v, q, 0⟩) zivScales

/-- 1 / sqrt x for a finite x above zero. -/
def rsqExact (x : Exact) : Exact :=
  let odd : Nat := (x.e % 2).toNat
  let d := x.m * 2 ^ odd
  let k : Nat := 400
  let r := isqrt (2 ^ (2 * k) / d)
  ⟨false, r, -(k : Int) - (x.e - odd) / 2, r * r * d != 2 ^ (2 * k)⟩

/-- A special function of an operand, rounded to a type: the encoding and the flags (R227). -/
def sfu (op : Sfu) (t : Ty) (rm : RMode) (fz : Nat) (v : Val) : Rounded :=
  match v with
  | .nan s => ⟨canon t, if s then fNV else 0#32, 0#32⟩
  | .inf n =>
    match op with
    | .exp2 => if n then ⟨0, 0#32, 0#32⟩ else ⟨infEnc t, 0#32, 0#32⟩
    | .log2 => if n then ⟨canon t, fNV, 0#32⟩ else ⟨infEnc t, 0#32, 0#32⟩
    | .sin | .cos => ⟨canon t, fNV, 0#32⟩
    | .rcp => ⟨if n then signBit t else 0, 0#32, 0#32⟩
    | .rsq => if n then ⟨canon t, fNV, 0#32⟩ else ⟨0, 0#32, 0#32⟩
  | .fin x =>
    if x.isZero then
      match op with
      | .exp2 | .cos => roundVal t rm fz 0#32 (.fin ⟨false, 1, 0, false⟩)
      | .log2 => ⟨signBit t + infEnc t, fDZ, 0#32⟩
      | .sin => ⟨if x.neg then signBit t else 0, 0#32, 0#32⟩
      | .rcp | .rsq => ⟨(if x.neg then signBit t else 0) + infEnc t, fDZ, 0#32⟩
    else
      match op with
      | .exp2 => sfuExp2 t rm fz x
      | .log2 => if x.neg then ⟨canon t, fNV, 0#32⟩ else sfuLog2 t rm fz x
      | .sin => sfuSinCos t rm fz false x
      | .cos => sfuSinCos t rm fz true x
      | .rcp => roundVal t rm fz 0#32 (.fin (Exact.div ⟨false, 1, 0, false⟩ x))
      | .rsq => if x.neg then ⟨canon t, fNV, 0#32⟩ else roundVal t rm fz 0#32 (.fin (rsqExact x))

/-- One component of a twiddle: cos or sin of 2 pi k / n, as an exact value where it is 0, a half or 1 in
magnitude, else by enclosure, rounded to nearest even (R123). `quarter` is 1 for the cosine, 0 for the sine. -/
def twidPart (k n quarter : Nat) (negate : Bool) (fz : Nat) : Rounded :=
  let quad := (4 * k / n + quarter) % 4
  let rest := 4 * k % n
  let neg := decide (2 ≤ quad) != negate
  let f (q : Nat) : Approx :=
    let r := piFix q / 2 * rest / n
    ⟨neg, if quad % 2 = 0 then sinFix q r else cosFix q r, q, 0⟩
  if rest = 0 then
    if quad % 2 = 0 then ⟨0, 0#32, 0#32⟩ else roundVal .f32 .rne fz 0#32 (.fin ⟨neg, 1, 0, false⟩)
  else
    let v := (f 192).v
    if 12 * k % n = 0 ∧ 2 ^ 191 - 2 ^ 24 ≤ v ∧ v ≤ 2 ^ 191 + 2 ^ 24 then
      roundVal .f32 .rne fz 0#32 (.fin ⟨neg, 1, -1, false⟩)
    else ziv .f32 .rne fz f zivScales

/-- The twiddle of k and n (R123): the two components and the flags. -/
def twiddle (k n fz : Nat) : Nat × Nat × W32 :=
  if 1 ≤ n ∧ n ≤ 2 ^ 24 ∧ k < n then
    let c := twidPart k n 1 false fz
    let s := twidPart k n 0 true fz
    (c.bits, s.bits, c.flags ||| s.flags)
  else (canon .f32, canon .f32, fNV)

end Sys2Proof.Machine
end

