-- ==== Sys2Proof/Machine/LaneFn.lean ====
section
/-!
DEFINITION. What one lane computes in element mode (12 R218 to R231, R237): functions of operand bits, with
no state. Operands and results are numbers below 2^w, w the width of the type.
-/
namespace Sys2Proof.Machine

/-! ## Integers (R218 to R221) -/

/-- An operand as an integer, by the type's sign. -/
def intVal (t : Ty) (a : Nat) : Int := if tySigned t then sext (tyWidth t) a else ((a % 2 ^ tyWidth t : Nat) : Int)

/-- Comparison of two operands by type: a < b. -/
def intLt (t : Ty) (a b : Nat) : Bool := decide (intVal t a < intVal t b)

/-- `vadd`. -/
def iAdd (t : Ty) (a b : Nat) : Nat := (a + b) % 2 ^ tyWidth t
/-- `vsub`. -/
def iSub (t : Ty) (a b : Nat) : Nat := wrap (tyWidth t) ((a : Int) - (b : Int))
/-- `vmul`. -/
def iMul (t : Ty) (a b : Nat) : Nat := a * b % 2 ^ tyWidth t
/-- `vmulh`: bits 2w-1 down to w of the exact product, signed or unsigned by type. -/
def iMulh (t : Ty) (a b : Nat) : Nat :=
  wrap (tyWidth t) (intVal t a * intVal t b / ((2 ^ tyWidth t : Nat) : Int))
/-- `vmin`. -/
def iMin (t : Ty) (a b : Nat) : Nat := if intLt t b a then b else a
/-- `vmax`. -/
def iMax (t : Ty) (a b : Nat) : Nat := if intLt t a b then b else a
/-- `vand`. -/
def iAnd (_ : Ty) (a b : Nat) : Nat := a &&& b
/-- `vor`. -/
def iOr (_ : Ty) (a b : Nat) : Nat := a ||| b
/-- `vxor`. -/
def iXor (_ : Ty) (a b : Nat) : Nat := a ^^^ b
/-- `vandn`: a AND NOT b. -/
def iAndn (t : Ty) (a b : Nat) : Nat := a &&& (2 ^ tyWidth t - 1 - b % 2 ^ tyWidth t)
/-- `vshl`. -/
def iShl (t : Ty) (a b : Nat) : Nat := a * 2 ^ (b % tyWidth t) % 2 ^ tyWidth t
/-- `vshr`. -/
def iShr (t : Ty) (a b : Nat) : Nat := a / 2 ^ (b % tyWidth t)
/-- `vsra`: filled with the top bit, whatever the type. -/
def iSra (t : Ty) (a b : Nat) : Nat := wrap (tyWidth t) (sext (tyWidth t) a / ((2 ^ (b % tyWidth t) : Nat) : Int))
/-- `vmad`. -/
def iMad (t : Ty) (a b c : Nat) : Nat := (a * b + c) % 2 ^ tyWidth t
/-- `vclz`. -/
def iClz (t : Ty) (a : Nat) : Nat := tyWidth t - bitLen (a % 2 ^ tyWidth t)

/-- Set bits among the low n. -/
def popN : Nat → Nat → Nat
  | 0, _ => 0
  | n + 1, a => a % 2 + popN n (a / 2)

/-- The low n bits in reverse order. -/
def revN : Nat → Nat → Nat
  | 0, _ => 0
  | n + 1, a => a % 2 * 2 ^ n + revN n (a / 2)

/-- `vpopc`. -/
def iPopc (t : Ty) (a : Nat) : Nat := popN (tyWidth t) a
/-- `vbrev`. -/
def iBrev (t : Ty) (a : Nat) : Nat := revN (tyWidth t) a
/-- `vbfe`: the field of n bits from bit o, extended by type (R220). -/
def iBfe (t : Ty) (o n a : Nat) : Nat :=
  let x := a / 2 ^ o % 2 ^ n
  if tySigned t then wrap (tyWidth t) (sext n x) else x
/-- `vbfi`: the old value with the field replaced. -/
def iBfi (o n old a : Nat) : Nat := old - old / 2 ^ o % 2 ^ n * 2 ^ o + a % 2 ^ n * 2 ^ o

/-- The conditions of `vcmp`, coded 0 eq to 5 ge, on a strict order and an equality (R221). -/
def condHolds (cc : Nat) (lt eq gt : Bool) : Bool :=
  match cc with
  | 0 => eq
  | 1 => !eq
  | 2 => lt
  | 3 => lt || eq
  | 4 => gt
  | _ => gt || eq

/-- `vcmp` (R221). -/
def iCmp (cc : Nat) (t : Ty) (a b : Nat) : Bool :=
  condHolds cc (intLt t a b) (decide (intVal t a = intVal t b)) (intLt t b a)

/-! ## Floating point (R222 to R225) -/

/-- What a lane's operation needs beside its operands: the type, the rounding mode, FZ, the generator. -/
structure FCtx where
  t : Ty
  rm : RMode
  fz : Nat
  lfsr : W32
  deriving DecidableEq, Repr

/-- An operand decoded (R222). -/
def FCtx.dec (c : FCtx) (a : Nat) : Val := decodeVal c.t c.fz a
/-- A value rounded once to the type. -/
def FCtx.rnd (c : FCtx) (v : Val) : Rounded := roundVal c.t c.rm c.fz c.lfsr v

/-- a + b. -/
def fAdd (c : FCtx) (a b : Nat) : Rounded := c.rnd (Val.sum c.rm [c.dec a, c.dec b])
/-- a - b. -/
def fSub (c : FCtx) (a b : Nat) : Rounded := c.rnd (Val.sum c.rm [c.dec a, (c.dec b).negate])
/-- a * b. -/
def fMul (c : FCtx) (a b : Nat) : Rounded := c.rnd ((c.dec a).mul (c.dec b))
/-- a * b + z. -/
def fMa (c : FCtx) (a b z : Nat) : Rounded := c.rnd (Val.sum c.rm [(c.dec a).mul (c.dec b), c.dec z])
/-- a * b - z. -/
def fMs (c : FCtx) (a b z : Nat) : Rounded := c.rnd (Val.sum c.rm [(c.dec a).mul (c.dec b), (c.dec z).negate])
/-- -(a * b) + z. -/
def fNma (c : FCtx) (a b z : Nat) : Rounded := c.rnd (Val.sum c.rm [((c.dec a).mul (c.dec b)).negate, c.dec z])
/-- a / b, with DZ. -/
def fDiv (c : FCtx) (a b : Nat) : Rounded :=
  let q := (c.dec a).div (c.dec b)
  let r := c.rnd q.1
  { r with flags := r.flags ||| q.2 }
/-- The square root. -/
def fSqrt (c : FCtx) (a : Nat) : Rounded := c.rnd (c.dec a).sqrt

/-- The order of R223 on values that are not NaNs: -0 counts as less than +0. -/
def Val.ltZ (x y : Val) : Bool :=
  x.lt y || (x.isZero && y.isZero && x.neg && !y.neg)

/-- `vfmin` and `vfmax` (R223): a bit-exact copy of the chosen operand after input flushing. -/
def fMinMax (big : Bool) (t : Ty) (fz a b : Nat) : Nat × W32 :=
  let x := decodeVal t fz a
  let y := decodeVal t fz b
  let fl := if x.isSig || y.isSig then fNV else 0#32
  let a' := flushIn t fz a
  let b' := flushIn t fz b
  if x.isNan then (if y.isNan then canon t else b', fl)
  else if y.isNan then (a', fl)
  else if big then (if x.ltZ y then b' else a', fl)
  else (if y.ltZ x then b' else a', fl)

/-- `vfcmp` (R224): the bit and the flags; code 6 is `un`. -/
def fCmp (cc : Nat) (t : Ty) (fz a b : Nat) : Bool × W32 :=
  let x := decodeVal t fz a
  let y := decodeVal t fz b
  let un := x.isNan || y.isNan
  let ordered := decide (2 ≤ cc) && decide (cc ≤ 5)
  let fl := if (un && ordered) || x.isSig || y.isSig then fNV else 0#32
  (if un then cc == 1 || cc == 6
   else if cc = 6 then false else condHolds cc (x.lt y) (x.eqv y) (y.lt x), fl)

/-- `vfcls` (R225): the one-hot class. -/
def fCls (t : Ty) (fz a : Nat) : Nat :=
  match decodeVal t fz a with
  | .nan s => if s then 2 ^ 8 else 2 ^ 9
  | .inf n => if n then 2 ^ 0 else 2 ^ 7
  | .fin x =>
    let sub := decide (x.top < 1 - ((tyFmt t).bias : Int))
    if x.isZero then (if x.neg then 2 ^ 3 else 2 ^ 4)
    else if sub then (if x.neg then 2 ^ 2 else 2 ^ 5)
    else (if x.neg then 2 ^ 1 else 2 ^ 6)

/-! ## Conversion (R226) -/

/-- The element at a position of a 32-bit register, or all of a wide one (R226, R110). -/
def element (x p w : Nat) : Nat := if 32 ≤ w then x % 2 ^ w else x / 2 ^ (p * w) % 2 ^ w

/-- A register with an element put at a position. -/
def insertAt (x q w y : Nat) : Nat :=
  if 32 ≤ w then y % 2 ^ w
  else x - x / 2 ^ (q * w) % 2 ^ w * 2 ^ (q * w) + y % 2 ^ w * 2 ^ (q * w)

/-- An element of a source type as an exact value: integers are read exactly. -/
def readVal (t : Ty) (fz x : Nat) : Val :=
  if tyIsInt t then .fin (Exact.ofInt (intVal t x)) else decodeVal t fz x

/-- An integer held at a type's limits. -/
def clampTo (t : Ty) (x : Int) : Int := max (tyMin t) (min (tyMax t) x)

/-- `vcvt` on one element (R226). -/
def cvtElem (d s : Ty) (rm : RMode) (fz : Nat) (sat : Bool) (lfsr : W32) (x : Nat) : Rounded :=
  if tyIsInt d then
    if tyIsInt s then
      let v := intVal s x
      ⟨wrap (tyWidth d) (if sat then clampTo d v else v), 0#32, lfsr⟩
    else
      let r := toInt d rm lfsr (decodeVal s fz x)
      ⟨wrap (tyWidth d) r.val, r.flags, r.lfsr⟩
  else roundVal d rm fz lfsr (readVal s fz x)

/-! ## Complex values and dot products (R228 to R231, R123) -/

/-- Both parts of w * b: the terms of the real and of the imaginary part. -/
def cplxTerms (wr wi br bi : Val) : List Val × List Val :=
  ([wr.mul br, (wi.mul bi).negate], [wr.mul bi, wi.mul br])

/-- A subtractive output of `vbfly` before rounding (R123, R228): one fused operation on a and the terms of the product. An
exact zero is +0, unless a is +0 and the exact product term is -0, in the order in which R123 names them. DEDUCED (log 85). -/
def butterflySub (a : Val) (ts : List Val) : Val :=
  let t := Val.sum .rne ts
  match Val.sum .rne (a :: ts.map Val.negate) with
  | .fin x => if x.isZero then .fin (Exact.zero (a.isZero && !a.neg && t.isZero && t.neg)) else .fin x
  | v => v

/-- `vbfly` (R228): four results, rounded to nearest even, and the flags. -/
def butterfly (fz : Nat) (ar ai br bi wr wi : Nat) : List Nat × W32 :=
  let d := decodeVal .f32 fz
  let (tr, ti) := cplxTerms (d wr) (d wi) (d br) (d bi)
  let one (v : Val) : Rounded := roundVal .f32 .rne fz 0#32 v
  let r0 := one (Val.sum .rne (d ar :: tr))
  let r1 := one (Val.sum .rne (d ai :: ti))
  let r2 := one (butterflySub (d ar) tr)
  let r3 := one (butterflySub (d ai) ti)
  ([r0.bits, r1.bits, r2.bits, r3.bits], r0.flags ||| r1.flags ||| r2.flags ||| r3.flags)

/-- `vcmul` (R230): the real part drawn for first. -/
def cmul (rm : RMode) (fz : Nat) (lfsr : W32) (conj : Bool) (ar ai br bi : Nat) : Nat × Nat × W32 × W32 :=
  let d := decodeVal .f32 fz
  let vbi := if conj then (d bi).negate else d bi
  let (tr, ti) := cplxTerms (d ar) (d ai) (d br) vbi
  let r := roundVal .f32 rm fz lfsr (Val.sum rm tr)
  let i := roundVal .f32 rm fz r.lfsr (Val.sum rm ti)
  (r.bits, i.bits, r.flags ||| i.flags, i.lfsr)

/-- The elements of a packed register for `vdot`: how many (R231). -/
def dotCount (t : Ty) : Nat :=
  match t with
  | .f16 | .bf16 | .i16 => 2
  | .e2m1 => 8
  | _ => 4

/-- An element of `vdot`: only `f16`, `bf16` and `f32` have signalling NaNs here (R231). -/
def dotVal (t : Ty) (fz x : Nat) : Val :=
  match decodeVal t fz x with
  | .nan s => .nan (s && (t == .f16 || t == .bf16))
  | v => v

/-- `vdot` on one lane (R231). -/
def dot (t : Ty) (rm : RMode) (fz : Nat) (lfsr : W32) (a b c : Nat) : Rounded :=
  let w := tyWidth t
  let idx := List.range (dotCount t)
  if t = .i16 then
    let s := idx.foldl (fun acc i => acc + intVal .i16 (element a i w) * intVal .i16 (element b i w)) (0 : Int)
    ⟨wrap 32 ((c : Int) + s), 0#32, lfsr⟩
  else
    let ts := idx.map (fun i => (dotVal t fz (element a i w)).mul (dotVal t fz (element b i w)))
    roundVal .f32 rm fz lfsr (Val.sum rm (ts ++ [decodeVal .f32 fz c]))

/-! ## Reductions (R233, R234) -/

/-- The identity of an operator of `vred` and `vscan`, by type (R233). -/
def redIdentity (op : Nat) (t : Ty) : Nat :=
  match op with
  | 1 => if tyIsFloat t then infEnc t else wrap (tyWidth t) (tyMax t)
  | 2 => if tyIsFloat t then signBit t + infEnc t else wrap (tyWidth t) (tyMin t)
  | 3 => 2 ^ tyWidth t - 1
  | _ => 0

/-- The combination of a list of lane values, in ascending lanes; the empty list gives the identity (R233). -/
def reduceList (op : Nat) (c : FCtx) (xs : List Nat) : Rounded :=
  match xs with
  | [] => ⟨redIdentity op c.t, 0#32, c.lfsr⟩
  | x :: rest =>
    if tyIsFloat c.t then
      if op = 0 then c.rnd (Val.sum c.rm (xs.map c.dec))
      else
        let one := fMinMax (op == 2) c.t c.fz
        let first := one x x
        let r := rest.foldl (fun (acc : Nat × W32) y => let z := one acc.1 y; (z.1, acc.2 ||| z.2)) first
        ⟨r.1, r.2, c.lfsr⟩
    else
      let f : Nat → Nat → Nat := match op with
        | 0 => iAdd c.t
        | 1 => iMin c.t
        | 2 => iMax c.t
        | 3 => iAnd c.t
        | 4 => iOr c.t
        | _ => iXor c.t
      ⟨rest.foldl f x, 0#32, c.lfsr⟩

end Sys2Proof.Machine
end

