-- ==== Sys2Proof/WellFormed.lean ====
section
/-!
DEFINITION. Which instructions are well formed: every operand within the range its encoding gives it, every field
that the instruction does not use at zero, every code one that the instruction's entry lists (09 R143 to R158 and the
entries of 11 to 15).
-/
namespace Sys2Proof

open Sys2Proof.Machine

/-- The special register codes of R157. -/
def isSpecial (r : Nat) : Bool :=
  decide (r ≤ 5) || (decide (0x10 ≤ r) && decide (r ≤ 0x14)) || (decide (0x18 ≤ r) && decide (r ≤ 0x1B)) ||
  (decide (0x20 ≤ r) && decide (r ≤ 0x25)) || (decide (0x30 ≤ r) && decide (r ≤ 0x33)) ||
  (decide (0x40 ≤ r) && decide (r ≤ 0x44)) || (decide (0x50 ≤ r) && decide (r ≤ 0x56)) ||
  (decide (0x58 ≤ r) && decide (r ≤ 0x5C))

/-- A number is even. -/
def isEven (n : Nat) : Bool := n % 2 == 0

/-- A register of a type: even where the type fills a pair (R151). -/
def regOk (t : Ty) (r : Nat) : Bool := !(tyIs64 t) || isEven r

/-- The types of class 0 (R218). -/
def tyInt0 (t : Ty) : Bool := tyIsInt t
/-- The types of class 1 (R222). -/
def tyFlt1 (t : Ty) : Bool := t == .f32 || t == .f64 || t == .f16 || t == .bf16
/-- The types 0 to 5 of class 7 (R232). -/
def tyX (t : Ty) : Bool := decide (tyCode t < 6)
/-- The types of intervals (R239). -/
def tyIv (t : Ty) : Bool := t == .i32 || t == .n32 || t == .f32
/-- The narrow floating types. -/
def tyNarrow (t : Ty) : Bool := decide (8 ≤ tyCode t) && decide (tyCode t ≤ 12)
/-- The largest position of an element in 32 bits (R226). -/
def posMax (t : Ty) : Nat :=
  match tyWidth t with
  | 16 => 1
  | 8 => 3
  | 6 => 3
  | 4 => 7
  | _ => 0

/-! ## Classes 0, 1, 2 and 7 -/

/-- Every field within its width (R149); rounding code 7 is illegal (R149). -/
def LArgs.inRange (x : LArgs) : Bool :=
  decide (x.vd < 256) && decide (x.va < 256) && decide (x.vb < 256) && decide (x.vc < 256) && decide (x.msk < 16) &&
  decide (x.rm < 7) && decide (x.md < 16) && decide (x.ss < 1024) && decide (x.im < 65536)

/-- IMM: bit 3 of `md` in classes 0 and 1 (R151). -/
def LArgs.imm (x : LArgs) : Bool := decide (8 ≤ x.md)

/-- No scalar operand and no immediate. -/
def LArgs.noB (x : LArgs) : Bool := x.vb == 0 && !x.sb && x.ss == 0 && x.im == 0

/-- Operand b of classes 0 and 1 (R151): a scalar, an immediate of an allowed type, or a vector register. -/
def LArgs.opB01 (x : LArgs) : Bool :=
  if x.sb then x.vb == 0 && !x.imm && x.im == 0
  else if x.imm then x.vb == 0 && x.ss == 0 && (x.ty == .i32 || x.ty == .n32 || x.ty == .f32)
  else x.ss == 0 && x.im == 0 && regOk x.ty x.vb

/-- Operand b of classes 2 and 7: a scalar or a vector register. -/
def LArgs.opB (x : LArgs) (t : Ty) : Bool :=
  x.im == 0 && (if x.sb then x.vb == 0 else x.ss == 0 && regOk t x.vb)

/-- Two-operand integer instructions (R218). -/
def LArgs.intBin (x : LArgs) : Bool :=
  x.inRange && tyInt0 x.ty && x.rm == 0 && x.md % 8 == 0 && x.vc == 0 && regOk x.ty x.vd && regOk x.ty x.va && x.opB01
/-- `vmad` (R219). -/
def LArgs.intMad (x : LArgs) : Bool :=
  x.inRange && tyInt0 x.ty && x.rm == 0 && x.md % 8 == 0 && regOk x.ty x.vc && regOk x.ty x.vd && regOk x.ty x.va && x.opB01
/-- `vmov` (R219). -/
def LArgs.movI (x : LArgs) : Bool :=
  x.inRange && tyInt0 x.ty && x.rm == 0 && x.md % 8 == 0 && x.va == 0 && x.vc == 0 && regOk x.ty x.vd && x.opB01
/-- One-operand integer instructions (R220). -/
def LArgs.intUn (x : LArgs) : Bool :=
  x.inRange && tyInt0 x.ty && x.rm == 0 && x.md == 0 && x.vc == 0 && regOk x.ty x.vd && regOk x.ty x.va && x.noB
/-- `vbfe`, `vbfi` (R220): the field lies within the width. -/
def LArgs.bitField (x : LArgs) : Bool :=
  x.inRange && tyInt0 x.ty && x.rm == 0 && x.md == 0 && x.vc == 0 && regOk x.ty x.vd && regOk x.ty x.va &&
  x.vb == 0 && !x.sb && x.ss == 0 && bits x.im 15 13 == 0 && bits x.im 12 6 != 0 &&
  decide (bits x.im 5 0 + bits x.im 12 6 ≤ tyWidth x.ty)
/-- `vcmp` (R221). -/
def LArgs.cmpI (x : LArgs) : Bool :=
  x.inRange && tyInt0 x.ty && x.rm == 0 && decide (x.md % 8 < 6) && x.vc == 0 && decide (1 ≤ x.vd) && decide (x.vd < 16) &&
  regOk x.ty x.va && x.opB01
/-- `vsel` (R221). -/
def LArgs.selI (x : LArgs) : Bool :=
  x.inRange && tyInt0 x.ty && x.rm == 0 && x.md % 8 == 0 && decide (x.vc < 16) && regOk x.ty x.vd && regOk x.ty x.va && x.opB01

/-- `vfadd`, `vfsub`, `vfmul`, `vfdiv` (R222). -/
def LArgs.fltBin (x : LArgs) : Bool :=
  x.inRange && tyFlt1 x.ty && x.md % 8 == 0 && x.vc == 0 && regOk x.ty x.vd && regOk x.ty x.va && x.opB01
/-- The fused forms (R222). -/
def LArgs.fltMa (x : LArgs) : Bool :=
  x.inRange && tyFlt1 x.ty && x.md % 8 == 0 && regOk x.ty x.vc && regOk x.ty x.vd && regOk x.ty x.va && x.opB01
/-- `vfmin`, `vfmax` (R223). -/
def LArgs.fltMinMax (x : LArgs) : Bool := x.fltBin && x.rm == 0
/-- `vfsqrt` (R222). -/
def LArgs.fltSqrt (x : LArgs) : Bool :=
  x.inRange && tyFlt1 x.ty && x.md == 0 && x.vc == 0 && regOk x.ty x.vd && regOk x.ty x.va && x.noB
/-- `vfcmp` (R224). -/
def LArgs.cmpF (x : LArgs) : Bool :=
  x.inRange && tyFlt1 x.ty && x.rm == 0 && decide (x.md % 8 < 7) && x.vc == 0 && decide (1 ≤ x.vd) && decide (x.vd < 16) &&
  regOk x.ty x.va && x.opB01
/-- `vfcls` (R225): the destination may be odd. -/
def LArgs.clsF (x : LArgs) : Bool :=
  x.inRange && tyFlt1 x.ty && x.rm == 0 && x.md == 0 && x.vc == 0 && regOk x.ty x.va && x.noB

/-- `vcvt` (R226): types 0 to 12 and 15, positions in range, SAT between integers only; `rm` is 0 where nothing
rounds (R156). -/
def LArgs.cvt (x : LArgs) : Bool :=
  let d := tyOf x.md
  x.inRange && x.ty != .q8 && x.ty != .q4 && d != .q8 && d != .q4 && x.vb == 0 && !x.sb && x.ss == 0 && x.vc == 0 &&
  decide (bits x.im 3 0 ≤ posMax x.ty) && decide (bits x.im 7 4 ≤ posMax d) && decide (x.im < 512) &&
  (decide (x.im < 256) || (tyIsInt x.ty && tyIsInt d)) && (x.rm == 0 || !(tyIsInt x.ty && tyIsInt d)) &&
  regOk x.ty x.va && regOk d x.vd
/-- The special functions (R227). -/
def LArgs.sfu (x : LArgs) : Bool :=
  x.inRange && (x.ty == .f32 || x.ty == .f16) && x.rm == 0 && x.md == 0 && x.vc == 0 && x.noB
/-- `vbfly` (R228). -/
def LArgs.bfly (x : LArgs) : Bool :=
  x.inRange && x.ty == .f32 && x.rm == 0 && x.md == 0 && !x.sb && x.ss == 0 && x.im == 0 && x.vd % 4 == 0 &&
  isEven x.va && isEven x.vb && isEven x.vc
/-- `vtwid` (R229). -/
def LArgs.twid (x : LArgs) : Bool :=
  x.inRange && x.ty == .f32 && x.rm == 0 && x.md == 0 && x.vc == 0 && isEven x.vd && x.opB .f32
/-- `vcmul` (R230). -/
def LArgs.cmul (x : LArgs) : Bool :=
  x.inRange && x.ty == .f32 && decide (x.md < 2) && x.vc == 0 && isEven x.vd && isEven x.va && x.opB .f64
/-- `vdot` (R231); `i16` does not round. -/
def LArgs.dot (x : LArgs) : Bool :=
  x.inRange && ((decide (6 ≤ tyCode x.ty) && decide (tyCode x.ty ≤ 12)) || x.ty == .i16) && x.md == 0 && x.opB .f32 &&
  (x.rm == 0 || x.ty != .i16)

/-- `vshfl` (R232). -/
def LArgs.shfl (x : LArgs) : Bool :=
  x.inRange && tyX x.ty && x.rm == 0 && decide (x.md < 5) && x.vc == 0 && regOk x.ty x.vd && regOk x.ty x.va &&
  (if x.sb then x.vb == 0 && x.im == 0
   else x.ss == 0 && (if x.md = 0 then x.im == 0 else x.vb == 0 && decide (x.im < 32)))
/-- The operators of `vred` and `vscan` (R233). -/
def LArgs.redOp (x : LArgs) : Bool :=
  tyX x.ty && decide (x.md % 8 < 6) && (decide (x.md % 8 < 3) || !(tyIsFloat x.ty)) &&
  (x.rm == 0 || (x.md % 8 == 0 && tyIsFloat x.ty))
/-- `vred` (R233). -/
def LArgs.red (x : LArgs) : Bool :=
  x.inRange && x.redOp && decide (x.md < 8) && x.vd == 0 && x.vb == 0 && x.vc == 0 && !x.sb && x.im == 0 && regOk x.ty x.va
/-- `vscan` (R234). -/
def LArgs.scan (x : LArgs) : Bool :=
  x.inRange && x.redOp && x.vc == 0 && x.noB && regOk x.ty x.vd && regOk x.ty x.va
/-- `vbcast` (R235). -/
def LArgs.bcast (x : LArgs) : Bool :=
  x.inRange && tyX x.ty && x.rm == 0 && x.md == 0 && x.vc == 0 && x.vb == 0 && regOk x.ty x.vd &&
  (if x.sb then x.va == 0 && x.im == 0 else x.ss == 0 && decide (x.im < 32) && regOk x.ty x.va)
/-- `vtos` (R236). -/
def LArgs.tos (x : LArgs) : Bool :=
  x.inRange && tyX x.ty && x.rm == 0 && x.md == 0 && x.vd == 0 && x.vb == 0 && x.vc == 0 && !x.sb && decide (x.im < 32) &&
  regOk x.ty x.va
/-- `vmsk` (R237). -/
def LArgs.msk8 (x : LArgs) : Bool :=
  x.inRange && x.rm == 0 && x.vc == 0 && x.im == 0 && (x.md == 7 || (decide (1 ≤ x.vd) && decide (x.vd < 16))) &&
  (match x.md with
   | 0 | 1 | 2 | 3 => x.ty == .n32 && decide (x.va < 16) && decide (x.vb < 16) && !x.sb && x.ss == 0
   | 4 => x.ty == .n32 && decide (x.va < 16) && x.vb == 0 && !x.sb && x.ss == 0
   | 5 => (x.ty == .n32 || (x.ty == .n64 && isEven x.va)) && x.vb == 0 && !x.sb && x.ss == 0
   | 6 => x.ty == .n32 && x.va == 0 && x.vb == 0 && x.sb
   | 7 => x.ty == .n32 && decide (x.va < 16) && x.vb == 0 && !x.sb && x.ss == 0
   | _ => false)
/-- `vlid` (R238). -/
def LArgs.lid (x : LArgs) : Bool :=
  x.inRange && x.ty == .n32 && x.rm == 0 && x.md == 0 && x.va == 0 && x.vb == 0 && x.vc == 0 && x.im == 0 &&
  (x.sb || x.ss == 0)
/-- `ivcmp` (R307): two masks, neither `m0`, not the same. -/
def LArgs.ivCmp (x : LArgs) : Bool :=
  x.inRange && tyIv x.ty && x.rm == 0 && decide (x.md < 6) && x.vc == 0 && x.vd % 16 != 0 && x.vd / 16 != 0 &&
  x.vd % 16 != x.vd / 16 && isEven x.va && x.opB .f64
/-- `ivhull` (R307). -/
def LArgs.ivHull (x : LArgs) : Bool :=
  x.inRange && tyIv x.ty && x.rm == 0 && x.md == 0 && x.vc == 0 && isEven x.vd && isEven x.va && x.opB .f64
/-- `ivwid` (R307). -/
def LArgs.ivWid (x : LArgs) : Bool :=
  x.inRange && x.ty == .n32 && x.rm == 0 && decide (x.md ≤ 4) && x.vc == 0 && isEven x.vd && x.va == 0 && x.vb == 0 && x.im == 0 &&
  (if x.md < 2 then x.sb else !x.sb && x.ss == 0)
/-- `ivsum` (R307). -/
def LArgs.ivSum (x : LArgs) : Bool :=
  x.inRange && x.ty == .n32 && x.rm == 0 && x.md == 0 && x.vc == 0 && isEven x.vd && x.va == 0 && x.vb == 0 && x.im == 0 && x.sb

/-! ## Classes 3 and 4 -/

/-- Every field within its width (R153); codes 5 to 7 of SCOPE and 7 of `rm` are illegal. -/
def MArgs.inRange (x : MArgs) : Bool :=
  decide (x.vd < 256) && decide (x.va < 256) && decide (x.vb < 256) && decide (x.sz < 7) && decide (x.vc < 256) && decide (x.msk < 16) &&
  decide (x.rm < 7) && decide (x.md < 16) && decide (x.win < 16) && decide (x.am < 3) && decide (x.im < 65536) &&
  decide (x.scope < 5) && decide (x.ord < 4) && decide (x.pfl < 2)

/-- What every class-3 instruction has at zero (R243), and the register alignment of its size. -/
def MArgs.cls3 (x : MArgs) : Bool :=
  x.inRange && x.vb == 0 && x.vc == 0 && x.ty == .i32 && x.rm == 0 && x.md == 0 && x.am == 0 && !x.noret &&
  (x.sz != 5 || isEven x.vd) && (x.sz != 6 || x.vd % 4 == 0)
/-- ORD of a load (0, 1) or of a store (0, 2). -/
def MArgs.ordOk (x : MArgs) (store : Bool) : Bool := x.ord == 0 || x.ord == (if store then 2 else 1)
/-- `vld`, `vst`, `vldd`, `vstd` (R243). -/
def MArgs.memWin (x : MArgs) (store : Bool) : Bool := x.cls3 && x.ordOk store && x.pfl == 0
/-- `vldg`, `vstg`: an address pair. -/
def MArgs.memPair (x : MArgs) (store : Bool) : Bool := x.cls3 && x.ordOk store && x.pfl == 0 && x.win == 0 && isEven x.va
/-- `vlds`, `vsts`: a scratch offset. -/
def MArgs.memScr (x : MArgs) (store : Bool) : Bool := x.cls3 && x.ordOk store && x.pfl == 0 && x.win == 0
/-- `vprf`. -/
def MArgs.prf (x : MArgs) : Bool := x.cls3 && x.ord == 0 && x.vd == 0 && x.sz == 0

/-- What `vatom`, `vatom.ord` and `vbank` share: the address mode, types 0 to 7, registers of 64-bit types even. -/
def MArgs.cls4 (x : MArgs) : Bool :=
  x.inRange && x.sz == 0 && x.pfl == 0 && decide (tyCode x.ty < 8) && (x.am == 0 || x.win == 0) &&
  (x.am != 1 || isEven x.va) && regOk x.ty x.vd && regOk x.ty x.vb && regOk x.ty x.vc && (!x.noret || x.vd == 0)
/-- `vatom` (R250). -/
def MArgs.atom (x : MArgs) : Bool :=
  x.cls4 && decide (x.md < 8) && (x.md == 7 || x.vc == 0) &&
  (x.md == 0 || x.md == 4 || x.md == 5 || decide (tyCode x.ty < 4)) && (x.rm == 0 || (x.md == 0 && tyIsFloat x.ty))
/-- `vatom.ord` (R254). -/
def MArgs.atomOrd (x : MArgs) : Bool :=
  x.cls4 && (x.md == 0 || x.md == 4 || x.md == 5) && tyIsFloat x.ty && (x.rm == 0 || (x.md == 0 && x.rm != 5)) && x.noret && x.vc == 0 &&
  decide (x.am < 2) && (x.ord == 0 || x.ord == 2)
/-- `vbank` (R258). -/
def MArgs.bank (x : MArgs) : Bool :=
  x.cls4 && decide (x.md < 8) && (decide (x.md < 5) || decide (tyCode x.ty < 4)) &&
  (x.rm == 0 || (decide (x.md < 3) && tyIsFloat x.ty)) && x.noret && x.vc == 0 && decide (x.am < 2) && (x.ord == 0 || x.ord == 2)
/-- `fence` (R260): only `md`[0], SCOPE and E. -/
def MArgs.fenceOk (x : MArgs) : Bool :=
  x.inRange && decide (x.md < 2) && x.vd == 0 && x.va == 0 && x.vb == 0 && x.sz == 0 && x.vc == 0 && x.msk == 0 && x.ty == .i32 &&
  x.rm == 0 && x.win == 0 && x.am == 0 && x.im == 0 && x.ord == 0 && x.pfl == 0 && !x.noret

/-! ## Class 5 -/

/-- Every field within its width (R154); `mk` is 0 in every tile instruction (R265). -/
def TArgs.inRange (x : TArgs) : Bool :=
  decide (x.zd < 32) && decide (x.za < 32) && decide (x.zb < 32) && decide (x.vx < 256) && decide (x.shp < 32) && x.msk == 0 &&
  decide (x.rm < 7) && decide (x.md < 16) && decide (x.ss < 1024) && decide (x.im < 65536) && decide (x.win < 16)
/-- The M code of a shape, 0 to 2 (R267). -/
def shpM (shp : Nat) : Nat := shp / 8
/-- The K code of a shape, 0 to 5. -/
def shpK (shp : Nat) : Nat := shp % 8
/-- A shape with a row code and no K (R267). -/
def TArgs.rowShape (x : TArgs) : Bool := decide (shpM x.shp < 3) && shpK x.shp == 0
/-- A shape whose B operand fits one tile (R267). -/
def TArgs.matShape (x : TArgs) : Bool :=
  decide (shpM x.shp < 3) && decide (shpK x.shp < 6) && decide (32 * 2 ^ shpK x.shp * 32 * tyWidth x.bt / 8 ≤ 16384)
/-- `tld` (R272). -/
def TArgs.tldOk (x : TArgs) : Bool :=
  x.inRange && x.rowShape && x.za == 0 && x.zb == 0 && x.vx == 0 && x.md == 0 && x.bt == .i32 && x.rm == 0 &&
  (x.ty == .n32 || x.ty == .f16 || x.ty == .bf16)
/-- `tst` (R272). -/
def TArgs.tstOk (x : TArgs) : Bool :=
  x.inRange && x.rowShape && x.zd == 0 && x.zb == 0 && x.vx == 0 && x.md == 0 && x.bt == .i32 &&
  ((x.ty == .n32 && x.rm == 0) || x.ty == .f16 || x.ty == .bf16)
/-- No memory fields. -/
def TArgs.noMem (x : TArgs) : Bool := x.ss == 0 && x.im == 0 && x.win == 0
/-- `tzero` (R273). -/
def TArgs.tzeroOk (x : TArgs) : Bool :=
  x.inRange && x.rowShape && x.za == 0 && x.zb == 0 && x.vx == 0 && x.md == 0 && x.bt == .i32 && x.ty == .i32 && x.rm == 0 && x.noMem
/-- `tcvt` (R273). -/
def TArgs.tcvtOk (x : TArgs) : Bool :=
  x.inRange && x.rowShape && x.zb == 0 && x.vx == 0 && x.md == 0 && x.noMem && (x.ty == .i32 || x.ty == .f32) &&
  (x.bt == .i32 || x.bt == .f32 || (decide (6 ≤ tyCode x.bt) && decide (tyCode x.bt ≤ 12))) &&
  (x.rm == 0 || !(x.ty == .i32 && x.bt == .i32))
/-- `tadd` (R273). -/
def TArgs.taddOk (x : TArgs) : Bool :=
  x.inRange && x.rowShape && x.vx == 0 && x.md == 0 && x.bt == .i32 && x.noMem && (x.ty == .f32 || (x.ty == .i32 && x.rm == 0))
/-- `tmma` (R274): both operands of one family; block scales only for narrow types. -/
def TArgs.tmmaOk (x : TArgs) : Bool :=
  x.inRange && x.matShape && x.za == 0 && x.win == 0 && x.rm == 0 && x.md / 4 % 2 == 0 &&
  ((x.ty == .f32 && x.bt == .f32) || ((x.ty == .f16 || x.ty == .bf16) && (x.bt == .f16 || x.bt == .bf16)) ||
   (tyNarrow x.ty && tyNarrow x.bt)) &&
  (if x.md / 2 % 2 = 1 then tyNarrow x.ty else x.im == 0)
/-- `tmmq` (R277). -/
def TArgs.tmmqOk (x : TArgs) : Bool :=
  x.inRange && x.matShape && x.za == 0 && x.win == 0 && x.rm == 0 && (x.ty == .q8 || x.ty == .q4) && (x.bt == .q8 || x.bt == .q4) &&
  (x.md / 4 % 2 == 0 || x.im == 0)
/-- `tmerge` (R279). -/
def TArgs.tmergeOk (x : TArgs) : Bool :=
  x.inRange && x.rowShape && x.zd == 0 && x.zb == 0 && x.vx == 0 && x.md == 0 && x.bt == .i32 && x.rm == 0 && (x.ty == .f32 || x.ty == .i32)
/-- `sigz`, `sigx`, `sigj`, `siglog` (R319), numbered 0 to 3. -/
def TArgs.sigOk (x : TArgs) (k : Nat) : Bool :=
  x.inRange && x.shp == 0 && x.md == 0 && x.noMem && x.bt == .i32 && x.ty == .f32 && (k != 0 || x.rm == 0) &&
  (k == 2 || k == 3 || x.za == 0) && (k == 2 || x.zb == 0) && (k == 1 || x.vx == 0)

/-! ## Class 6 -/

/-- Every field within its width (R155); E is 1. -/
def AArgs.inRange (x : AArgs) : Bool :=
  decide (x.sd < 256) && decide (x.sa < 256) && decide (x.sb < 256) && decide (x.sc < 256) && decide (x.rm < 7) && decide (x.md < 16) &&
  decide (x.ss < 1024) && decide (x.zt < 32) && x.e
/-- `cpy` (R285). -/
def AArgs.cpyOk (x : AArgs) : Bool :=
  x.inRange && x.ty == .i32 && x.rm == 0 && x.md == 0 && x.ss == 0 && !x.til && x.zt == 0
/-- `cpy2d` (R285). -/
def AArgs.cpy2dOk (x : AArgs) : Bool :=
  x.inRange && x.ty == .i32 && x.rm == 0 && x.md == 0 && decide (x.ss ≤ 1021) && !x.til && x.zt == 0
/-- `coll` (R293, R329). -/
def AArgs.collOk (x : AArgs) : Bool :=
  x.inRange && decide (x.md < 10) && decide (tyCode x.ty < 8) && x.rm != 5 && (x.til || x.zt == 0) && (!x.til || x.sa == 0) &&
  (x.rm == 0 || ((x.md == 0 || x.md == 3 || x.md == 4) && tyIsFloat x.ty)) &&
  (x.md != 8 || (x.ty == .i32 && x.sa == 0 && x.sc == 0 && !x.til)) && (x.md != 9 || (x.til && x.ty == .f32))

/-! ## All instructions -/

/-- The instruction has an encoding that the spec gives (scalar and lane instructions), or names agents that
exist (steps). -/
def Instr.wf : Instr → Bool
  | .add d a b => decide (d < 256 ∧ a < 256 ∧ b < 256)
  | .sub d a b => decide (d < 256 ∧ a < 256 ∧ b < 256)
  | .mul d a b => decide (d < 256 ∧ a < 256 ∧ b < 256)
  | .mulh d a b => decide (d < 256 ∧ a < 256 ∧ b < 256)
  | .mulhn d a b => decide (d < 256 ∧ a < 256 ∧ b < 256)
  | .div d a b => decide (d < 256 ∧ a < 256 ∧ b < 256)
  | .divn d a b => decide (d < 256 ∧ a < 256 ∧ b < 256)
  | .rem d a b => decide (d < 256 ∧ a < 256 ∧ b < 256)
  | .remn d a b => decide (d < 256 ∧ a < 256 ∧ b < 256)
  | .and d a b => decide (d < 256 ∧ a < 256 ∧ b < 256)
  | .or d a b => decide (d < 256 ∧ a < 256 ∧ b < 256)
  | .xor d a b => decide (d < 256 ∧ a < 256 ∧ b < 256)
  | .andn d a b => decide (d < 256 ∧ a < 256 ∧ b < 256)
  | .shl d a b => decide (d < 256 ∧ a < 256 ∧ b < 256)
  | .shr d a b => decide (d < 256 ∧ a < 256 ∧ b < 256)
  | .sra d a b => decide (d < 256 ∧ a < 256 ∧ b < 256)
  | .min d a b => decide (d < 256 ∧ a < 256 ∧ b < 256)
  | .max d a b => decide (d < 256 ∧ a < 256 ∧ b < 256)
  | .minn d a b => decide (d < 256 ∧ a < 256 ∧ b < 256)
  | .maxn d a b => decide (d < 256 ∧ a < 256 ∧ b < 256)
  | .add2A d a => decide (d < 1024 ∧ a < 1024)
  | .sub2A d a => decide (d < 1024 ∧ a < 1024)
  | .mul2A d a => decide (d < 1024 ∧ a < 1024)
  | .mulh2A d a => decide (d < 1024 ∧ a < 1024)
  | .mulhn2A d a => decide (d < 1024 ∧ a < 1024)
  | .div2A d a => decide (d < 1024 ∧ a < 1024)
  | .divn2A d a => decide (d < 1024 ∧ a < 1024)
  | .rem2A d a => decide (d < 1024 ∧ a < 1024)
  | .remn2A d a => decide (d < 1024 ∧ a < 1024)
  | .and2A d a => decide (d < 1024 ∧ a < 1024)
  | .or2A d a => decide (d < 1024 ∧ a < 1024)
  | .xor2A d a => decide (d < 1024 ∧ a < 1024)
  | .andn2A d a => decide (d < 1024 ∧ a < 1024)
  | .shl2A d a => decide (d < 1024 ∧ a < 1024)
  | .shr2A d a => decide (d < 1024 ∧ a < 1024)
  | .sra2A d a => decide (d < 1024 ∧ a < 1024)
  | .min2A d a => decide (d < 1024 ∧ a < 1024)
  | .max2A d a => decide (d < 1024 ∧ a < 1024)
  | .minn2A d a => decide (d < 1024 ∧ a < 1024)
  | .maxn2A d a => decide (d < 1024 ∧ a < 1024)
  | .mov d a => decide (d < 1024 ∧ a < 1024)
  | .neg d a => decide (d < 1024 ∧ a < 1024)
  | .not d a => decide (d < 1024 ∧ a < 1024)
  | .clz d a => decide (d < 1024 ∧ a < 1024)
  | .ctz d a => decide (d < 1024 ∧ a < 1024)
  | .popc d a => decide (d < 1024 ∧ a < 1024)
  | .brev d a => decide (d < 1024 ∧ a < 1024)
  | .sxt8 d a => decide (d < 1024 ∧ a < 1024)
  | .sxt16 d a => decide (d < 1024 ∧ a < 1024)
  | .sxt32 d a => decide (d < 1024 ∧ a < 1024)
  | .zxt8 d a => decide (d < 1024 ∧ a < 1024)
  | .zxt16 d a => decide (d < 1024 ∧ a < 1024)
  | .zxt32 d a => decide (d < 1024 ∧ a < 1024)
  | .cmpEq d a b => decide (d < 256 ∧ a < 256 ∧ b < 256)
  | .cmpNe d a b => decide (d < 256 ∧ a < 256 ∧ b < 256)
  | .cmpLt d a b => decide (d < 256 ∧ a < 256 ∧ b < 256)
  | .cmpGe d a b => decide (d < 256 ∧ a < 256 ∧ b < 256)
  | .cmpLtn d a b => decide (d < 256 ∧ a < 256 ∧ b < 256)
  | .cmpGen d a b => decide (d < 256 ∧ a < 256 ∧ b < 256)
  | .sel d a b => decide (d < 256 ∧ a < 256 ∧ b < 256)
  | .lea k d a b => decide (k < 4 ∧ d < 256 ∧ a < 256 ∧ b < 256)
  | .wset k a => decide (k < 16 ∧ a < 1024)
  | .winv k => decide (k < 16)
  | .wlim d k => decide (d < 1024 ∧ k < 16)
  | .prvaddr d a => decide (d < 1024 ∧ a < 1024)
  | .li d im => decide (d < 1024 ∧ im < 65536)
  | .lih d im => decide (d < 1024 ∧ im < 65536)
  | .addi d im => decide (d < 1024 ∧ im < 65536)
  | .andi d im => decide (d < 1024 ∧ im < 65536)
  | .ori d im => decide (d < 1024 ∧ im < 65536)
  | .xori d im => decide (d < 1024 ∧ im < 65536)
  | .shli d im => decide (d < 1024 ∧ im < 64)
  | .shri d im => decide (d < 1024 ∧ im < 64)
  | .srai d im => decide (d < 1024 ∧ im < 64)
  | .ldk d im => decide (d < 1024 ∧ im < 65536)
  | .sget d r => decide (d < 1024 ∧ isSpecial r = true)
  | .sset r a => decide (isSpecial r = true ∧ a < 1024)
  | .lds d a sz sgn ord scope => decide (d < 256 ∧ a < 256 ∧ sz < 4 ∧ sgn < 2 ∧ (sz = 3 → sgn = 0) ∧ ord < 2 ∧ scope < 5)
  | .sts d a sz ord scope => decide (d < 256 ∧ a < 256 ∧ sz < 4 ∧ (ord = 0 ∨ ord = 2) ∧ scope < 5)
  | .satom d a aop ord scope w => decide (d < 256 ∧ a < 256 ∧ aop < 10 ∧ (aop = 9 → d % 2 = 0) ∧ ord < 4 ∧ scope < 5 ∧ w < 2)
  | .jmp o => decide (o < 67108864)
  | .call o => decide (o < 67108864)
  | .ret => true
  | .jr a => decide (a < 1024)
  | .brEq a o => decide (a < 1024 ∧ o < 65536)
  | .brNe a o => decide (a < 1024 ∧ o < 65536)
  | .brLt a o => decide (a < 1024 ∧ o < 65536)
  | .brGe a o => decide (a < 1024 ∧ o < 65536)
  | .brGt a o => decide (a < 1024 ∧ o < 65536)
  | .brLe a o => decide (a < 1024 ∧ o < 65536)
  | .fsplit k o => decide (k < 16 ∧ o < 65536)
  | .fjoin k d t => decide (k < 16 ∧ d < 1024 ∧ t < 4096 ∧ ¬(t = 0 ∧ d ≠ 0 ∧ k = 0))
  | .fent => true
  | .fnext => true
  | .fany d k => decide (d < 1024 ∧ k < 16)
  | .vrun b => decide (b < 67108864)
  | .vsync => true
  | .wcnt l st c t k => decide (l < 32 ∧ st < 32 ∧ c < 32 ∧ t < 32 ∧ k < 32)
  | .hwait a => decide (a < 1024)
  | .htest d a => decide (d < 1024 ∧ a < 1024)
  | .hcancel d a => decide (d < 1024 ∧ a < 1024)
  | .fmtset f a => decide (0 < f ∧ f < 64 ∧ a < 1024)
  | .dfetch d => decide (d < 1024)
  | .ddone => true
  | .dpush d a => decide (d < 1024 ∧ a < 1024)
  | .dpushQ d k => decide (d < 1024 ∧ k < 16)
  | .dpushE d k => decide (d < 1024 ∧ k < 16)
  | .launch d a => decide (d < 1024 ∧ a < 1024)
  | .join a => decide (a < 1024)
  | .barBlk n => decide (n < 16)
  | .barClu n => decide (n < 8)
  | .wwait d a => decide (d < 1024 ∧ a < 1024)
  | .tkt d a => decide (d < 1024 ∧ a < 1024)
  | .stkflush => true
  | .vgrow n => decide (1 ≤ n ∧ n ≤ 32)
  | .vshrink n => decide (1 ≤ n ∧ n ≤ 32)
  | .rgnEnter id => decide (id < 65536)
  | .rgnLeave => true
  | .vcost d o => decide (d < 1024 ∧ o < 65536)
  | .vdone => true
  | .nop => true
  | .endPath => true
  | .trap n => decide (n < 65536)
  | .tret k => decide (k < 16)
  | .brk n => decide (n < 65536)
  | .vadd x => x.intBin
  | .vsub x => x.intBin
  | .vmul x => x.intBin
  | .vmulh x => x.intBin
  | .vmad x => x.intMad
  | .vmin x => x.intBin
  | .vmax x => x.intBin
  | .vand x => x.intBin
  | .vor x => x.intBin
  | .vxor x => x.intBin
  | .vandn x => x.intBin
  | .vshl x => x.intBin
  | .vshr x => x.intBin
  | .vsra x => x.intBin
  | .vclz x => x.intUn
  | .vpopc x => x.intUn
  | .vbrev x => x.intUn
  | .vbfe x => x.bitField
  | .vbfi x => x.bitField
  | .vcmp x => x.cmpI
  | .vsel x => x.selI
  | .vmov x => x.movI
  | .vfadd x => x.fltBin
  | .vfsub x => x.fltBin
  | .vfmul x => x.fltBin
  | .vfma x => x.fltMa
  | .vfms x => x.fltMa
  | .vfnma x => x.fltMa
  | .vfmin x => x.fltMinMax
  | .vfmax x => x.fltMinMax
  | .vfdiv x => x.fltBin
  | .vfsqrt x => x.fltSqrt
  | .vfcmp x => x.cmpF
  | .vfcls x => x.clsF
  | .vcvt x => x.cvt
  | .vexp2 x => x.sfu
  | .vlog2 x => x.sfu
  | .vsin x => x.sfu
  | .vcos x => x.sfu
  | .vrcp x => x.sfu
  | .vrsq x => x.sfu
  | .vbfly x => x.bfly
  | .vtwid x => x.twid
  | .vcmul x => x.cmul
  | .vdot x => x.dot
  | .vld x => x.memWin false
  | .vst x => x.memWin true
  | .vldg x => x.memPair false
  | .vstg x => x.memPair true
  | .vlds x => x.memScr false
  | .vsts x => x.memScr true
  | .vldd x => x.memWin false
  | .vstd x => x.memWin true
  | .vprf x => x.prf
  | .vatom x => x.atom
  | .vatomOrd x => x.atomOrd
  | .vbank x => x.bank
  | .fence x => x.fenceOk
  | .tld x => x.tldOk
  | .tst x => x.tstOk
  | .tzero x => x.tzeroOk
  | .tmma x => x.tmmaOk
  | .tmmq x => x.tmmqOk
  | .tcvt x => x.tcvtOk
  | .tadd x => x.taddOk
  | .tmerge x => x.tmergeOk
  | .sigz x => x.sigOk 0
  | .sigx x => x.sigOk 1
  | .sigj x => x.sigOk 2
  | .siglog x => x.sigOk 3
  | .cpy x => x.cpyOk
  | .cpy2d x => x.cpy2dOk
  | .coll x => x.collOk
  | .vshfl x => x.shfl
  | .vred x => x.red
  | .vscan x => x.scan
  | .vbcast x => x.bcast
  | .vtos x => x.tos
  | .vmsk x => x.msk8
  | .vlid x => x.lid
  | .ivcmp x => x.ivCmp
  | .ivhull x => x.ivHull
  | .ivwid x => x.ivWid
  | .ivsum x => x.ivSum
  | .joinWaitTimeout _ => true
  | .laneIssue core quad => decide (core < 720 ∧ quad < 4)
  | .laneInstrComplete _ _ => true
  | .uncorrectableConsume _ => true
  | .tileOpStart _ => true
  | .tileOpComplete _ => true
  | .tmergeResume _ => true
  | .spanInstanceStart _ => true
  | .parkedOpRecheck _ => true
  | .copyByteTransfer _ _ => true
  | .copyOverlapStallEnd _ => true
  | .copySuspend _ => true
  | .copyResume _ => true
  | .copyComplete _ => true
  | .copyFail _ => true
  | .collInstanceStart _ => true
  | .chunkDepart _ => true
  | .chunkArrive c comm src _ => decide (c < 16 ∧ comm < 8 ∧ src < 256)
  | .chunkCombine _ => true
  | .slotReleaseNotice c comm src => decide (c < 16 ∧ comm < 8 ∧ src < 256)
  | .failNotice c comm src => decide (c < 16 ∧ comm < 8 ∧ src < 256)
  | .collComplete _ => true
  | .collFail _ => true
  | .dfetchWake _ => true
  | .barrierRelease _ => true
  | .wwaitWake _ => true
  | .tktReread _ => true
  | .joinWake _ => true
  | .vgrowGrant slot => decide (slot < 1440)
  | .vgrowDeadlockSave slot => decide (slot < 1440)
  | .groupRestore _ => true
  | .joinedGroupSave c => decide (c < 16)
  | .stackWriteback core => decide (core < 720)
  | .stackWritebackRetry core => decide (core < 720)
  | .launchBind _ => true
  | .launchPlace _ => true
  | .childPlace c => decide (c < 16)
  | .launchComplete _ => true
  | .applyOrderedAtomics _ => true
  | .vacate c => decide (c < 16)
  | .resume c => decide (c < 16)
  | .disable c => decide (c < 16)
  | .handlerWindowClose c => decide (c < 16)
  | .vacateDrainDone c => decide (c < 16)
  | .spillDone c => decide (c < 16)
  | .fillDone c => decide (c < 16)
  | .resumeExchange c => decide (c < 16)
  | .ctxctlWrite c _ => decide (c < 16)
  | .partWrite c k _ => decide (c < 16 ∧ k < 23)
  | .vbreqWrite c _ => decide (c < 16)
  | .boundApply c => decide (c < 16)
  | .floorWrite c n _ => decide (c < 16 ∧ n < 57)
  | .floorApply c => decide (c < 16)
  | .evtClear c _ => decide (c < 16)
  | .quotaWrite c _ => decide (c < 16)
  | .registerWrite _ _ => true
  | .boundExcursion c _ _ => decide (c < 16)
  | .tokenDebit => true
  | .tokenRefill => true
  | .slotRequest _ => true
  | .tailSnoop c q => decide (c < 16 ∧ q < 64)
  | .launchPacket c q => decide (c < 16 ∧ q < 64)
  | .signalPacket c q => decide (c < 16 ∧ q < 64)
  | .waitPacket c q => decide (c < 16 ∧ q < 64)
  | .waitSatisfied c q => decide (c < 16 ∧ q < 64)
  | .graphOpen c q => decide (c < 16 ∧ q < 64)
  | .graphCancel c q => decide (c < 16 ∧ q < 64)
  | .copyPacket c q => decide (c < 16 ∧ q < 64)
  | .shootdown c => decide (c < 16)
  | .shootdownDone c => decide (c < 16)
  | .pfdone c _ => decide (c < 16)
  | .locketFault _ => true
  | .move => true
  | .swap => true
  | .evacuate => true
  | .abort => true
  | .lineCopy _ => true
  | .sourceHomeRequest _ _ => true
  | .moveComplete _ => true
  | .moveRetire _ => true
  | .moveAbort _ => true
  | .hotnessReport => true
  | .thrashPinExpire c _ => decide (c < 16)
  | .correctedThreshold die loc => decide (die < 9 ∧ loc < 8)
  | .retirementDone kind _ => decide (kind < 3)
  | .relaunch c => decide (c < 16)
  | .flitReceive port flit => decide (port < 12 ∧ flit.length = 256)
  | .linkReplay port => decide (port < 12)
  | .linkRetrain port => decide (port < 12)
  | .portDown port => decide (port < 12)
  | .pctlWrite _ => true
  | .fabricRequest port vc => decide (port < 12 ∧ vc < 16)
  | .pauseNotice port vc => decide (port < 12 ∧ vc < 16)
  | .resumeNotice port vc => decide (port < 12 ∧ vc < 16)
  | .debugStop c _ => decide (c < 16)
  | .debugResume c _ => decide (c < 16)
  | .debugStep c _ => decide (c < 16)
  | .debugStopSave _ => true
  | .watchHit c => decide (c < 16)
  | .watchpointWrite c n _ => decide (c < 16 ∧ n < 16)
  | .targetWrite c k f _ => decide (c < 16 ∧ k < 4 ∧ f < 6)
  | .speriodWrite c _ => decide (c < 16)
  | .sampleTag core quad => decide (core < 720 ∧ quad < 4)
  | .sampleRecord core quad => decide (core < 720 ∧ quad < 4)
  | .replayDiverged _ => true
  | .powerGood => true
  | .clockStepStart die => decide (die < 9)
  | .clockRestart die => decide (die < 9)
  | .thermalStepDown die => decide (die < 9)
  | .thermalStepUp die => decide (die < 9)
  | .selfRefreshEnter stack => decide (stack < 12)
  | .selfRefreshExit stack => decide (stack < 12)
  | .dieThermalStop die => decide (die < 9)
  | .telemetry _ => true
  | .step _ _ => true
  | .ceiling _ _ => true
  | .trim _ => true
  | .logread _ => true
  | .fwupdate _ => true
  | .retire _ _ => true
  | .hostlink _ => true
  | .reset => true
  | .scalarAccessComplete _ _ => true
  | .linkTrainDone port => decide (port < 12)
  | .illegalScalarWord => true
  | .scalarFetchFault => true

end Sys2Proof
end

