-- ==== Sys2Proof/Decode.lean ====
section
/-!
DEFINITION. The decoder of scalar words and lane instructions (09 R142 to R158), total on any bytes, and after it
the encoder, written from the same tables.
-/
namespace Sys2Proof

open Sys2Proof.Machine

/-- Why a pattern is not an instruction (R158). -/
inductive DecodeError where
  /-- A major opcode, or a class and opcode, marked illegal. -/
  | illegalOpcode
  /-- A function code that the major opcode does not assign. -/
  | illegalFunction
  /-- A reserved bit, or a register field the function does not use, that is not zero. -/
  | reservedField
  /-- An operand or a code that the instruction's entry does not allow. -/
  | illegalOperand
  /-- Fewer bytes than the instruction has. -/
  | tooShort
  deriving DecidableEq, Repr

/-- The twenty ALU operations in the S3 form, by index (R146). -/
def alu3 (i d a b : Nat) : Option Instr :=
  match i with
  | 0 => some (.add d a b)
  | 1 => some (.sub d a b)
  | 2 => some (.mul d a b)
  | 3 => some (.mulh d a b)
  | 4 => some (.mulhn d a b)
  | 5 => some (.div d a b)
  | 6 => some (.divn d a b)
  | 7 => some (.rem d a b)
  | 8 => some (.remn d a b)
  | 9 => some (.and d a b)
  | 10 => some (.or d a b)
  | 11 => some (.xor d a b)
  | 12 => some (.andn d a b)
  | 13 => some (.shl d a b)
  | 14 => some (.shr d a b)
  | 15 => some (.sra d a b)
  | 16 => some (.min d a b)
  | 17 => some (.max d a b)
  | 18 => some (.minn d a b)
  | 19 => some (.maxn d a b)
  | _ => none

/-- The twenty ALU operations in the S2 form. -/
def alu2 (i d a : Nat) : Option Instr :=
  match i with
  | 0 => some (.add2A d a)
  | 1 => some (.sub2A d a)
  | 2 => some (.mul2A d a)
  | 3 => some (.mulh2A d a)
  | 4 => some (.mulhn2A d a)
  | 5 => some (.div2A d a)
  | 6 => some (.divn2A d a)
  | 7 => some (.rem2A d a)
  | 8 => some (.remn2A d a)
  | 9 => some (.and2A d a)
  | 10 => some (.or2A d a)
  | 11 => some (.xor2A d a)
  | 12 => some (.andn2A d a)
  | 13 => some (.shl2A d a)
  | 14 => some (.shr2A d a)
  | 15 => some (.sra2A d a)
  | 16 => some (.min2A d a)
  | 17 => some (.max2A d a)
  | 18 => some (.minn2A d a)
  | 19 => some (.maxn2A d a)
  | _ => none

/-- The unary operations of major 0x0A (R146). -/
def unary (i d a : Nat) : Option Instr :=
  match i with
  | 0 => some (.mov d a)
  | 1 => some (.neg d a)
  | 2 => some (.not d a)
  | 3 => some (.clz d a)
  | 4 => some (.ctz d a)
  | 5 => some (.popc d a)
  | 6 => some (.brev d a)
  | 8 => some (.sxt8 d a)
  | 9 => some (.sxt16 d a)
  | 10 => some (.sxt32 d a)
  | 12 => some (.zxt8 d a)
  | 13 => some (.zxt16 d a)
  | 14 => some (.zxt32 d a)
  | _ => none

/-- A pattern whose reserved bits are zero gives an instruction; others are refused. -/
def whenZero (r : Nat) (i : Instr) : Except DecodeError Instr := if r = 0 then .ok i else .error .reservedField

/-- An instruction found in a table, or the refusal of its function code. -/
def orFunction (o : Option Instr) : Except DecodeError Instr :=
  match o with
  | some i => .ok i
  | none => .error .illegalFunction

/-- Major 0x00, system (R147). -/
def decodeSystem (w : Nat) : Except DecodeError Instr :=
  match bits w 25 22 with
  | 0 => whenZero (bits w 21 0) .nop
  | 1 => whenZero (bits w 21 0) .endPath
  | 2 => whenZero (bits w 21 16) (.trap (bits w 15 0))
  | 3 => whenZero (bits w 17 0) (.tret (bits w 21 18))
  | 4 => whenZero (bits w 21 16) (.brk (bits w 15 0))
  | _ => .error .illegalFunction

/-- Majors 0x0B and 0x0C: comparisons and `sel` (R146). -/
def decodeCmp (maj w : Nat) : Except DecodeError Instr :=
  let d := bits w 23 16
  let a := bits w 15 8
  let b := bits w 7 0
  match (maj - 0x0B) * 4 + bits w 25 24 with
  | 0 => .ok (.cmpEq d a b)
  | 1 => .ok (.cmpNe d a b)
  | 2 => .ok (.cmpLt d a b)
  | 3 => .ok (.cmpGe d a b)
  | 4 => .ok (.cmpLtn d a b)
  | 5 => .ok (.cmpGen d a b)
  | 6 => .ok (.sel d a b)
  | _ => .error .illegalFunction

/-- Major 0x0E: windows (R146). -/
def decodeWindow (w : Nat) : Except DecodeError Instr :=
  match bits w 25 20 with
  | 0 => whenZero (bits w 19 14) (.wset (bits w 13 10) (bits w 9 0))
  | 1 => whenZero (bits w 19 14 + bits w 9 0) (.winv (bits w 13 10))
  | 2 => whenZero (bits w 9 4) (.wlim (bits w 19 10) (bits w 3 0))
  | 3 => .ok (.prvaddr (bits w 19 10) (bits w 9 0))
  | _ => .error .illegalFunction

/-- Majors 0x33 (handles), 0x35 (work) and 0x37 (wait and ticket), all S2 (R146). -/
def decodeWork (maj w : Nat) : Except DecodeError Instr :=
  let d := bits w 19 10
  let a := bits w 9 0
  match maj, bits w 25 20 with
  | 0x33, 0 => whenZero d (.hwait a)
  | 0x33, 1 => .ok (.htest d a)
  | 0x33, 2 => .ok (.hcancel d a)
  | 0x35, 0 => whenZero a (.dfetch d)
  | 0x35, 1 => whenZero (d + a) .ddone
  | 0x35, 2 => .ok (.dpush d a)
  | 0x35, 3 => whenZero (bits w 9 4) (.dpushQ d (bits w 3 0))
  | 0x35, 4 => whenZero (bits w 9 4) (.dpushE d (bits w 3 0))
  | 0x35, 5 => .ok (.launch d a)
  | 0x35, 6 => whenZero d (.join a)
  | 0x37, 0 => .ok (.wwait d a)
  | 0x37, 1 => .ok (.tkt d a)
  | 0x37, 2 => whenZero (d + a) .stkflush
  | _, _ => .error .illegalFunction

/-- Major 0x2E: frontier instructions (R46). -/
def decodeFrontier (w : Nat) : Except DecodeError Instr :=
  match bits w 25 24 with
  | 0 => whenZero (bits w 23 0) .fent
  | 1 => whenZero (bits w 23 0) .fnext
  | 2 => whenZero (bits w 9 0) (.fany (bits w 23 14) (bits w 13 10))
  | _ => .error .illegalFunction

/-- Major 0x36: barriers (R147). -/
def decodeBar (w : Nat) : Except DecodeError Instr :=
  match bits w 25 24 with
  | 0 => whenZero (bits w 19 0) (.barBlk (bits w 23 20))
  | 1 => whenZero (bits w 23 23 + bits w 19 0) (.barClu (bits w 22 20))
  | _ => .error .illegalFunction

/-- Majors 0x38 and 0x39: registers and regions (R147). -/
def decodeRegs (maj w : Nat) : Except DecodeError Instr :=
  match maj, bits w 25 25 with
  | 0x38, 0 => whenZero (bits w 24 6) (.vgrow (bits w 5 0))
  | 0x38, 1 => whenZero (bits w 24 6) (.vshrink (bits w 5 0))
  | 0x39, 0 => whenZero (bits w 24 16) (.rgnEnter (bits w 15 0))
  | 0x39, 1 => whenZero (bits w 24 0) .rgnLeave
  | _, _ => .error .illegalFunction

/-- The fields of a scalar word by its major opcode (R145 to R148), reserved fields checked. -/
def scalarFields (w : Nat) : Except DecodeError Instr :=
  let d16 := bits w 25 16
  let im := bits w 15 0
  match w / 2 ^ 26 with
  | 0x00 => decodeSystem w
  | 0x04 => orFunction (alu3 (bits w 25 24) (bits w 23 16) (bits w 15 8) (bits w 7 0))
  | 0x05 => orFunction (alu3 (4 + bits w 25 24) (bits w 23 16) (bits w 15 8) (bits w 7 0))
  | 0x06 => orFunction (alu3 (8 + bits w 25 24) (bits w 23 16) (bits w 15 8) (bits w 7 0))
  | 0x07 => orFunction (alu3 (12 + bits w 25 24) (bits w 23 16) (bits w 15 8) (bits w 7 0))
  | 0x08 => orFunction (alu3 (16 + bits w 25 24) (bits w 23 16) (bits w 15 8) (bits w 7 0))
  | 0x09 => orFunction (alu2 (bits w 25 20) (bits w 19 10) (bits w 9 0))
  | 0x0A => orFunction (unary (bits w 25 20) (bits w 19 10) (bits w 9 0))
  | 0x0B => decodeCmp 0x0B w
  | 0x0C => decodeCmp 0x0C w
  | 0x0D => .ok (.lea (bits w 25 24) (bits w 23 16) (bits w 15 8) (bits w 7 0))
  | 0x0E => decodeWindow w
  | 0x10 => .ok (.li d16 im)
  | 0x11 => .ok (.lih d16 im)
  | 0x12 => .ok (.addi d16 im)
  | 0x13 => .ok (.andi d16 im)
  | 0x14 => .ok (.ori d16 im)
  | 0x15 => .ok (.xori d16 im)
  | 0x16 => .ok (.shli d16 im)
  | 0x17 => .ok (.shri d16 im)
  | 0x18 => .ok (.srai d16 im)
  | 0x19 => .ok (.ldk d16 im)
  | 0x1A => .ok (.sget d16 im)
  | 0x1B => .ok (.sset im d16)
  | 0x1C => whenZero (bits w 1 0) (.lds (bits w 25 18) (bits w 17 10) (bits w 9 8) (bits w 7 7) (bits w 6 5) (bits w 4 2))
  | 0x1D => whenZero (bits w 7 7 + bits w 1 0) (.sts (bits w 25 18) (bits w 17 10) (bits w 9 8) (bits w 6 5) (bits w 4 2))
  | 0x1E => .ok (.satom (bits w 25 18) (bits w 17 10) (bits w 9 6) (bits w 5 4) (bits w 3 1) (bits w 0 0))
  | 0x20 => .ok (.jmp (bits w 25 0))
  | 0x21 => .ok (.call (bits w 25 0))
  | 0x22 => whenZero (bits w 25 0) .ret
  | 0x23 => whenZero im (.jr d16)
  | 0x24 => .ok (.brEq d16 im)
  | 0x25 => .ok (.brNe d16 im)
  | 0x26 => .ok (.brLt d16 im)
  | 0x27 => .ok (.brGe d16 im)
  | 0x28 => .ok (.brGt d16 im)
  | 0x29 => .ok (.brLe d16 im)
  | 0x2C => whenZero (bits w 25 20) (.fsplit (bits w 19 16) im)
  | 0x2D => .ok (.fjoin (bits w 25 22) (bits w 21 12) (bits w 11 0))
  | 0x2E => decodeFrontier w
  | 0x30 => .ok (.vrun (bits w 25 0))
  | 0x31 => whenZero (bits w 25 0) .vsync
  | 0x32 => whenZero (bits w 25 25) (.wcnt (bits w 24 20) (bits w 19 15) (bits w 14 10) (bits w 9 5) (bits w 4 0))
  | 0x33 => decodeWork 0x33 w
  | 0x34 => whenZero (bits w 19 10) (.fmtset (bits w 25 20) (bits w 9 0))
  | 0x35 => decodeWork 0x35 w
  | 0x36 => decodeBar w
  | 0x37 => decodeWork 0x37 w
  | 0x38 => decodeRegs 0x38 w
  | 0x39 => decodeRegs 0x39 w
  | 0x3A => .ok (.vcost d16 im)
  | 0x3B => whenZero (bits w 25 0) .vdone
  | _ => .error .illegalOpcode

/-- An instruction whose operands its entry allows. -/
def checked (r : Except DecodeError Instr) : Except DecodeError Instr :=
  match r with
  | .ok i => if i.wf then .ok i else .error .illegalOperand
  | .error e => .error e

/-- The instruction of a 32-bit scalar word. -/
def decodeScalar (w : Nat) : Except DecodeError Instr := checked (scalarFields w)

/-! ## Lane instructions -/

/-- The fields of classes 0, 1, 2 and 7 (R149). -/
def laneL (w : Nat) : LArgs :=
  ⟨bits w 84 77, bits w 76 69, bits w 68 61, bits w 60 53, bits w 52 49, tyOf (bits w 48 45), bits w 44 42, bits w 41 38,
   bits w 37 28, bits w 27 12, bits w 1 1 == 1, bits w 0 0 == 1⟩

/-- The fields of class 3 (R153). -/
def laneM3 (w : Nat) : MArgs :=
  ⟨bits w 84 77, bits w 76 69, bits w 68 61, bits w 60 58, 0, bits w 52 49, tyOf (bits w 48 45), bits w 44 42, bits w 41 38,
   bits w 37 34, bits w 33 32, bits w 27 12, bits w 11 9, bits w 8 7, bits w 6 5, bits w 4 4 == 1, bits w 0 0 == 1⟩

/-- The fields of class 4 (R153). -/
def laneM4 (w : Nat) : MArgs :=
  ⟨bits w 84 77, bits w 76 69, bits w 68 61, 0, bits w 60 53, bits w 52 49, tyOf (bits w 48 45), bits w 44 42, bits w 41 38,
   bits w 37 34, bits w 33 32, bits w 27 12, bits w 11 9, bits w 8 7, bits w 6 5, bits w 4 4 == 1, bits w 0 0 == 1⟩

/-- The fields of class 5 (R154). -/
def laneT (w : Nat) : TArgs :=
  ⟨bits w 84 80, bits w 79 75, bits w 74 70, bits w 69 62, bits w 61 57, bits w 52 49, tyOf (bits w 48 45), bits w 44 42,
   bits w 41 38, bits w 37 28, bits w 27 12, bits w 11 8, tyOf (bits w 7 4), bits w 0 0 == 1⟩

/-- The fields of class 6 (R155). -/
def laneA (w : Nat) : AArgs :=
  ⟨bits w 84 77, bits w 76 69, bits w 68 61, bits w 60 53, tyOf (bits w 48 45), bits w 44 42, bits w 41 38, bits w 37 28,
   bits w 11 11 == 1, bits w 10 6, bits w 0 0 == 1⟩

/-- Class 0 (R152). -/
def laneInt (op : Nat) (x : LArgs) : Option Instr :=
  match op with
  | 0 => some (.vadd x)
  | 1 => some (.vsub x)
  | 2 => some (.vmul x)
  | 3 => some (.vmulh x)
  | 4 => some (.vmad x)
  | 5 => some (.vmin x)
  | 6 => some (.vmax x)
  | 7 => some (.vand x)
  | 8 => some (.vor x)
  | 9 => some (.vxor x)
  | 10 => some (.vandn x)
  | 11 => some (.vshl x)
  | 12 => some (.vshr x)
  | 13 => some (.vsra x)
  | 14 => some (.vclz x)
  | 15 => some (.vpopc x)
  | 16 => some (.vbrev x)
  | 17 => some (.vbfe x)
  | 18 => some (.vbfi x)
  | 19 => some (.vcmp x)
  | 20 => some (.vsel x)
  | 21 => some (.vmov x)
  | _ => none

/-- Class 1. -/
def laneFlt (op : Nat) (x : LArgs) : Option Instr :=
  match op with
  | 0 => some (.vfadd x)
  | 1 => some (.vfsub x)
  | 2 => some (.vfmul x)
  | 3 => some (.vfma x)
  | 4 => some (.vfms x)
  | 5 => some (.vfnma x)
  | 6 => some (.vfmin x)
  | 7 => some (.vfmax x)
  | 8 => some (.vfdiv x)
  | 9 => some (.vfsqrt x)
  | 10 => some (.vfcmp x)
  | 11 => some (.vfcls x)
  | _ => none

/-- Class 2. -/
def laneCvt (op : Nat) (x : LArgs) : Option Instr :=
  match op with
  | 0 => some (.vcvt x)
  | 1 => some (.vexp2 x)
  | 2 => some (.vlog2 x)
  | 3 => some (.vsin x)
  | 4 => some (.vcos x)
  | 5 => some (.vrcp x)
  | 6 => some (.vrsq x)
  | 7 => some (.vbfly x)
  | 8 => some (.vtwid x)
  | 9 => some (.vcmul x)
  | 10 => some (.vdot x)
  | _ => none

/-- Class 3. -/
def laneMem (op : Nat) (x : MArgs) : Option Instr :=
  match op with
  | 0 => some (.vld x)
  | 1 => some (.vst x)
  | 2 => some (.vldg x)
  | 3 => some (.vstg x)
  | 4 => some (.vlds x)
  | 5 => some (.vsts x)
  | 6 => some (.vldd x)
  | 7 => some (.vstd x)
  | 8 => some (.vprf x)
  | _ => none

/-- Class 4. -/
def laneAtom (op : Nat) (x : MArgs) : Option Instr :=
  match op with
  | 0 => some (.vatom x)
  | 1 => some (.vatomOrd x)
  | 2 => some (.vbank x)
  | 3 => some (.fence x)
  | _ => none

/-- Class 5. -/
def laneTile (op : Nat) (x : TArgs) : Option Instr :=
  match op with
  | 0 => some (.tld x)
  | 1 => some (.tst x)
  | 2 => some (.tzero x)
  | 3 => some (.tmma x)
  | 4 => some (.tmmq x)
  | 5 => some (.tcvt x)
  | 6 => some (.tadd x)
  | 7 => some (.tmerge x)
  | 8 => some (.sigz x)
  | 9 => some (.sigx x)
  | 10 => some (.sigj x)
  | 11 => some (.siglog x)
  | _ => none

/-- Class 6. -/
def laneAsync (op : Nat) (x : AArgs) : Option Instr :=
  match op with
  | 0 => some (.cpy x)
  | 1 => some (.cpy2d x)
  | 2 => some (.coll x)
  | _ => none

/-- Class 7. -/
def laneX (op : Nat) (x : LArgs) : Option Instr :=
  match op with
  | 0 => some (.vshfl x)
  | 1 => some (.vred x)
  | 2 => some (.vscan x)
  | 3 => some (.vbcast x)
  | 4 => some (.vtos x)
  | 5 => some (.vmsk x)
  | 6 => some (.vlid x)
  | 8 => some (.ivcmp x)
  | 9 => some (.ivhull x)
  | 10 => some (.ivwid x)
  | 11 => some (.ivsum x)
  | _ => none

/-- A lane opcode found, its reserved bits checked. -/
def laneChecked (r : Nat) (o : Option Instr) : Except DecodeError Instr :=
  match o with
  | some i => whenZero r i
  | none => .error .illegalOpcode

/-- The fields of a lane instruction by its class (R149 to R155), reserved fields checked. -/
def laneFields (w : Nat) : Except DecodeError Instr :=
  let op := bits w 95 88
  match bits w 87 85 with
  | 0 => laneChecked (bits w 11 2) (laneInt op (laneL w))
  | 1 => laneChecked (bits w 11 2) (laneFlt op (laneL w))
  | 2 => laneChecked (bits w 11 2) (laneCvt op (laneL w))
  | 3 => laneChecked (bits w 57 53 + bits w 31 28 + bits w 3 1) (laneMem op (laneM3 w))
  | 4 => laneChecked (bits w 31 28 + bits w 3 1) (laneAtom op (laneM4 w))
  | 5 => laneChecked (bits w 56 53 + bits w 3 1) (laneTile op (laneT w))
  | 6 => laneChecked (bits w 52 49 + bits w 27 12 + bits w 5 1) (laneAsync op (laneA w))
  | _ => laneChecked (bits w 11 2) (laneX op (laneL w))

/-- The instruction of a 96-bit lane word. -/
def decodeLane (w : Nat) : Except DecodeError Instr := checked (laneFields w)

/-! ## Bytes -/

/-- A little-endian number (R142, R150). -/
def leNat : List Byte → Nat
  | [] => 0
  | b :: t => b.toNat + 256 * leNat t

/-- The n bytes of a number, least significant first. -/
def leBytes : Nat → Nat → List Byte
  | 0, _ => []
  | n + 1, x => BitVec.ofNat 8 x :: leBytes n (x / 256)

/-- The scalar instruction at the head of a list of bytes, and the rest. -/
def decode (bs : List Byte) : Except DecodeError (Instr × List Byte) :=
  if bs.length < 4 then .error .tooShort
  else match decodeScalar (leNat (bs.take 4)) with
    | .ok i => .ok (i, bs.drop 4)
    | .error e => .error e

/-- The lane instruction at the head of a list of bytes, and the rest: three parcels, the lowest bits first (R150). -/
def decodeLaneBytes (bs : List Byte) : Except DecodeError (Instr × List Byte) :=
  if bs.length < 12 then .error .tooShort
  else match decodeLane (leNat (bs.take 12)) with
    | .ok i => .ok (i, bs.drop 12)
    | .error e => .error e

/-- What the decoder reads from the bits of a table row: a row of at most 32 bits is a scalar word, a longer one a
lane instruction. -/
def decodeTableWord (nbits w : Nat) : Option Instr :=
  if nbits ≤ 32 then
    match decode (leBytes 4 w) with
    | .ok r => some r.1
    | .error _ => none
  else
    match decodeLaneBytes (leBytes 12 w) with
    | .ok r => some r.1
    | .error _ => none

/-! ## The encoder -/

/-- Format S3 (R142). -/
def encS3 (maj fn d a b : Nat) : Nat := maj * 2 ^ 26 + fn * 2 ^ 24 + d * 2 ^ 16 + a * 2 ^ 8 + b
/-- Format S2. -/
def encS2 (maj fn d a : Nat) : Nat := maj * 2 ^ 26 + fn * 2 ^ 20 + d * 2 ^ 10 + a
/-- Formats SI and SB. -/
def encSI (maj d im : Nat) : Nat := maj * 2 ^ 26 + d * 2 ^ 16 + im
/-- Format SJ, and a payload of 26 bits. -/
def encSJ (maj x : Nat) : Nat := maj * 2 ^ 26 + x

/-- Classes 0, 1, 2 and 7. -/
def encL (cls op : Nat) (x : LArgs) : Nat :=
  op * 2 ^ 88 + cls * 2 ^ 85 + x.vd * 2 ^ 77 + x.va * 2 ^ 69 + x.vb * 2 ^ 61 + x.vc * 2 ^ 53 + x.msk * 2 ^ 49 +
  tyCode x.ty * 2 ^ 45 + x.rm * 2 ^ 42 + x.md * 2 ^ 38 + x.ss * 2 ^ 28 + x.im * 2 ^ 12 + b2n x.sb * 2 + b2n x.e
/-- Class 3. -/
def encM3 (op : Nat) (x : MArgs) : Nat :=
  op * 2 ^ 88 + 3 * 2 ^ 85 + x.vd * 2 ^ 77 + x.va * 2 ^ 69 + x.vb * 2 ^ 61 + x.sz * 2 ^ 58 + x.msk * 2 ^ 49 +
  tyCode x.ty * 2 ^ 45 + x.rm * 2 ^ 42 + x.md * 2 ^ 38 + x.win * 2 ^ 34 + x.am * 2 ^ 32 + x.im * 2 ^ 12 +
  x.scope * 2 ^ 9 + x.ord * 2 ^ 7 + x.pfl * 2 ^ 5 + b2n x.noret * 2 ^ 4 + b2n x.e
/-- Class 4. -/
def encM4 (op : Nat) (x : MArgs) : Nat :=
  op * 2 ^ 88 + 4 * 2 ^ 85 + x.vd * 2 ^ 77 + x.va * 2 ^ 69 + x.vb * 2 ^ 61 + x.vc * 2 ^ 53 + x.msk * 2 ^ 49 +
  tyCode x.ty * 2 ^ 45 + x.rm * 2 ^ 42 + x.md * 2 ^ 38 + x.win * 2 ^ 34 + x.am * 2 ^ 32 + x.im * 2 ^ 12 +
  x.scope * 2 ^ 9 + x.ord * 2 ^ 7 + x.pfl * 2 ^ 5 + b2n x.noret * 2 ^ 4 + b2n x.e
/-- Class 5. -/
def encT (op : Nat) (x : TArgs) : Nat :=
  op * 2 ^ 88 + 5 * 2 ^ 85 + x.zd * 2 ^ 80 + x.za * 2 ^ 75 + x.zb * 2 ^ 70 + x.vx * 2 ^ 62 + x.shp * 2 ^ 57 + x.msk * 2 ^ 49 +
  tyCode x.ty * 2 ^ 45 + x.rm * 2 ^ 42 + x.md * 2 ^ 38 + x.ss * 2 ^ 28 + x.im * 2 ^ 12 + x.win * 2 ^ 8 + tyCode x.bt * 2 ^ 4 + b2n x.e
/-- Class 6. -/
def encA (op : Nat) (x : AArgs) : Nat :=
  op * 2 ^ 88 + 6 * 2 ^ 85 + x.sd * 2 ^ 77 + x.sa * 2 ^ 69 + x.sb * 2 ^ 61 + x.sc * 2 ^ 53 +
  tyCode x.ty * 2 ^ 45 + x.rm * 2 ^ 42 + x.md * 2 ^ 38 + x.ss * 2 ^ 28 + b2n x.til * 2 ^ 11 + x.zt * 2 ^ 6 + b2n x.e

/-- The word of an instruction: 32 bits for a scalar one, 96 for a lane one. Steps have no words. -/
def encode : Instr → Nat
  | .add d a b => encS3 0x04 0 d a b
  | .sub d a b => encS3 0x04 1 d a b
  | .mul d a b => encS3 0x04 2 d a b
  | .mulh d a b => encS3 0x04 3 d a b
  | .mulhn d a b => encS3 0x05 0 d a b
  | .div d a b => encS3 0x05 1 d a b
  | .divn d a b => encS3 0x05 2 d a b
  | .rem d a b => encS3 0x05 3 d a b
  | .remn d a b => encS3 0x06 0 d a b
  | .and d a b => encS3 0x06 1 d a b
  | .or d a b => encS3 0x06 2 d a b
  | .xor d a b => encS3 0x06 3 d a b
  | .andn d a b => encS3 0x07 0 d a b
  | .shl d a b => encS3 0x07 1 d a b
  | .shr d a b => encS3 0x07 2 d a b
  | .sra d a b => encS3 0x07 3 d a b
  | .min d a b => encS3 0x08 0 d a b
  | .max d a b => encS3 0x08 1 d a b
  | .minn d a b => encS3 0x08 2 d a b
  | .maxn d a b => encS3 0x08 3 d a b
  | .add2A d a => encS2 0x09 0 d a
  | .sub2A d a => encS2 0x09 1 d a
  | .mul2A d a => encS2 0x09 2 d a
  | .mulh2A d a => encS2 0x09 3 d a
  | .mulhn2A d a => encS2 0x09 4 d a
  | .div2A d a => encS2 0x09 5 d a
  | .divn2A d a => encS2 0x09 6 d a
  | .rem2A d a => encS2 0x09 7 d a
  | .remn2A d a => encS2 0x09 8 d a
  | .and2A d a => encS2 0x09 9 d a
  | .or2A d a => encS2 0x09 10 d a
  | .xor2A d a => encS2 0x09 11 d a
  | .andn2A d a => encS2 0x09 12 d a
  | .shl2A d a => encS2 0x09 13 d a
  | .shr2A d a => encS2 0x09 14 d a
  | .sra2A d a => encS2 0x09 15 d a
  | .min2A d a => encS2 0x09 16 d a
  | .max2A d a => encS2 0x09 17 d a
  | .minn2A d a => encS2 0x09 18 d a
  | .maxn2A d a => encS2 0x09 19 d a
  | .mov d a => encS2 0x0A 0 d a
  | .neg d a => encS2 0x0A 1 d a
  | .not d a => encS2 0x0A 2 d a
  | .clz d a => encS2 0x0A 3 d a
  | .ctz d a => encS2 0x0A 4 d a
  | .popc d a => encS2 0x0A 5 d a
  | .brev d a => encS2 0x0A 6 d a
  | .sxt8 d a => encS2 0x0A 8 d a
  | .sxt16 d a => encS2 0x0A 9 d a
  | .sxt32 d a => encS2 0x0A 10 d a
  | .zxt8 d a => encS2 0x0A 12 d a
  | .zxt16 d a => encS2 0x0A 13 d a
  | .zxt32 d a => encS2 0x0A 14 d a
  | .cmpEq d a b => encS3 0x0B 0 d a b
  | .cmpNe d a b => encS3 0x0B 1 d a b
  | .cmpLt d a b => encS3 0x0B 2 d a b
  | .cmpGe d a b => encS3 0x0B 3 d a b
  | .cmpLtn d a b => encS3 0x0C 0 d a b
  | .cmpGen d a b => encS3 0x0C 1 d a b
  | .sel d a b => encS3 0x0C 2 d a b
  | .lea k d a b => encS3 0x0D k d a b
  | .wset k a => encS2 0x0E 0 k a
  | .winv k => encS2 0x0E 1 k 0
  | .wlim d k => encS2 0x0E 2 d k
  | .prvaddr d a => encS2 0x0E 3 d a
  | .li d im => encSI 0x10 d im
  | .lih d im => encSI 0x11 d im
  | .addi d im => encSI 0x12 d im
  | .andi d im => encSI 0x13 d im
  | .ori d im => encSI 0x14 d im
  | .xori d im => encSI 0x15 d im
  | .shli d im => encSI 0x16 d im
  | .shri d im => encSI 0x17 d im
  | .srai d im => encSI 0x18 d im
  | .ldk d im => encSI 0x19 d im
  | .sget d r => encSI 0x1A d r
  | .sset r a => encSI 0x1B a r
  | .lds d a sz sgn ord scope => encSJ 0x1C (d * 2 ^ 18 + a * 2 ^ 10 + sz * 2 ^ 8 + sgn * 2 ^ 7 + ord * 2 ^ 5 + scope * 2 ^ 2)
  | .sts d a sz ord scope => encSJ 0x1D (d * 2 ^ 18 + a * 2 ^ 10 + sz * 2 ^ 8 + ord * 2 ^ 5 + scope * 2 ^ 2)
  | .satom d a aop ord scope w => encSJ 0x1E (d * 2 ^ 18 + a * 2 ^ 10 + aop * 2 ^ 6 + ord * 2 ^ 4 + scope * 2 + w)
  | .jmp o => encSJ 0x20 o
  | .call o => encSJ 0x21 o
  | .ret => encSJ 0x22 0
  | .jr a => encSI 0x23 a 0
  | .brEq a o => encSI 0x24 a o
  | .brNe a o => encSI 0x25 a o
  | .brLt a o => encSI 0x26 a o
  | .brGe a o => encSI 0x27 a o
  | .brGt a o => encSI 0x28 a o
  | .brLe a o => encSI 0x29 a o
  | .fsplit k o => encSI 0x2C k o
  | .fjoin k d t => encSJ 0x2D (k * 2 ^ 22 + d * 2 ^ 12 + t)
  | .fent => encSJ 0x2E 0
  | .fnext => encSJ 0x2E (1 * 2 ^ 24)
  | .fany d k => encSJ 0x2E (2 * 2 ^ 24 + d * 2 ^ 14 + k * 2 ^ 10)
  | .vrun b => encSJ 0x30 b
  | .vsync => encSJ 0x31 0
  | .wcnt l st c t k => encSJ 0x32 (l * 2 ^ 20 + st * 2 ^ 15 + c * 2 ^ 10 + t * 2 ^ 5 + k)
  | .hwait a => encS2 0x33 0 0 a
  | .htest d a => encS2 0x33 1 d a
  | .hcancel d a => encS2 0x33 2 d a
  | .fmtset f a => encS2 0x34 f 0 a
  | .dfetch d => encS2 0x35 0 d 0
  | .ddone => encS2 0x35 1 0 0
  | .dpush d a => encS2 0x35 2 d a
  | .dpushQ d k => encS2 0x35 3 d k
  | .dpushE d k => encS2 0x35 4 d k
  | .launch d a => encS2 0x35 5 d a
  | .join a => encS2 0x35 6 0 a
  | .barBlk n => encSJ 0x36 (n * 2 ^ 20)
  | .barClu n => encSJ 0x36 (1 * 2 ^ 24 + n * 2 ^ 20)
  | .wwait d a => encS2 0x37 0 d a
  | .tkt d a => encS2 0x37 1 d a
  | .stkflush => encS2 0x37 2 0 0
  | .vgrow n => encSJ 0x38 n
  | .vshrink n => encSJ 0x38 (1 * 2 ^ 25 + n)
  | .rgnEnter id => encSJ 0x39 id
  | .rgnLeave => encSJ 0x39 (1 * 2 ^ 25)
  | .vcost d o => encSI 0x3A d o
  | .vdone => encSJ 0x3B 0
  | .nop => encSJ 0 0
  | .endPath => encSJ 0 (1 * 2 ^ 22)
  | .trap n => encSJ 0 (2 * 2 ^ 22 + n)
  | .tret k => encSJ 0 (3 * 2 ^ 22 + k * 2 ^ 18)
  | .brk n => encSJ 0 (4 * 2 ^ 22 + n)
  | .vadd x => encL 0 0 x
  | .vsub x => encL 0 1 x
  | .vmul x => encL 0 2 x
  | .vmulh x => encL 0 3 x
  | .vmad x => encL 0 4 x
  | .vmin x => encL 0 5 x
  | .vmax x => encL 0 6 x
  | .vand x => encL 0 7 x
  | .vor x => encL 0 8 x
  | .vxor x => encL 0 9 x
  | .vandn x => encL 0 10 x
  | .vshl x => encL 0 11 x
  | .vshr x => encL 0 12 x
  | .vsra x => encL 0 13 x
  | .vclz x => encL 0 14 x
  | .vpopc x => encL 0 15 x
  | .vbrev x => encL 0 16 x
  | .vbfe x => encL 0 17 x
  | .vbfi x => encL 0 18 x
  | .vcmp x => encL 0 19 x
  | .vsel x => encL 0 20 x
  | .vmov x => encL 0 21 x
  | .vfadd x => encL 1 0 x
  | .vfsub x => encL 1 1 x
  | .vfmul x => encL 1 2 x
  | .vfma x => encL 1 3 x
  | .vfms x => encL 1 4 x
  | .vfnma x => encL 1 5 x
  | .vfmin x => encL 1 6 x
  | .vfmax x => encL 1 7 x
  | .vfdiv x => encL 1 8 x
  | .vfsqrt x => encL 1 9 x
  | .vfcmp x => encL 1 10 x
  | .vfcls x => encL 1 11 x
  | .vcvt x => encL 2 0 x
  | .vexp2 x => encL 2 1 x
  | .vlog2 x => encL 2 2 x
  | .vsin x => encL 2 3 x
  | .vcos x => encL 2 4 x
  | .vrcp x => encL 2 5 x
  | .vrsq x => encL 2 6 x
  | .vbfly x => encL 2 7 x
  | .vtwid x => encL 2 8 x
  | .vcmul x => encL 2 9 x
  | .vdot x => encL 2 10 x
  | .vld x => encM3 0 x
  | .vst x => encM3 1 x
  | .vldg x => encM3 2 x
  | .vstg x => encM3 3 x
  | .vlds x => encM3 4 x
  | .vsts x => encM3 5 x
  | .vldd x => encM3 6 x
  | .vstd x => encM3 7 x
  | .vprf x => encM3 8 x
  | .vatom x => encM4 0 x
  | .vatomOrd x => encM4 1 x
  | .vbank x => encM4 2 x
  | .fence x => encM4 3 x
  | .tld x => encT 0 x
  | .tst x => encT 1 x
  | .tzero x => encT 2 x
  | .tmma x => encT 3 x
  | .tmmq x => encT 4 x
  | .tcvt x => encT 5 x
  | .tadd x => encT 6 x
  | .tmerge x => encT 7 x
  | .sigz x => encT 8 x
  | .sigx x => encT 9 x
  | .sigj x => encT 10 x
  | .siglog x => encT 11 x
  | .cpy x => encA 0 x
  | .cpy2d x => encA 1 x
  | .coll x => encA 2 x
  | .vshfl x => encL 7 0 x
  | .vred x => encL 7 1 x
  | .vscan x => encL 7 2 x
  | .vbcast x => encL 7 3 x
  | .vtos x => encL 7 4 x
  | .vmsk x => encL 7 5 x
  | .vlid x => encL 7 6 x
  | .ivcmp x => encL 7 8 x
  | .ivhull x => encL 7 9 x
  | .ivwid x => encL 7 10 x
  | .ivsum x => encL 7 11 x
  | .joinWaitTimeout .. => 0
  | .laneIssue .. => 0
  | .laneInstrComplete .. => 0
  | .uncorrectableConsume .. => 0
  | .tileOpStart .. => 0
  | .tileOpComplete .. => 0
  | .tmergeResume .. => 0
  | .spanInstanceStart .. => 0
  | .parkedOpRecheck .. => 0
  | .copyByteTransfer .. => 0
  | .copyOverlapStallEnd .. => 0
  | .copySuspend .. => 0
  | .copyResume .. => 0
  | .copyComplete .. => 0
  | .copyFail .. => 0
  | .collInstanceStart .. => 0
  | .chunkDepart .. => 0
  | .chunkArrive .. => 0
  | .chunkCombine .. => 0
  | .slotReleaseNotice .. => 0
  | .failNotice .. => 0
  | .collComplete .. => 0
  | .collFail .. => 0
  | .dfetchWake .. => 0
  | .barrierRelease .. => 0
  | .wwaitWake .. => 0
  | .tktReread .. => 0
  | .joinWake .. => 0
  | .vgrowGrant .. => 0
  | .vgrowDeadlockSave .. => 0
  | .groupRestore .. => 0
  | .joinedGroupSave .. => 0
  | .stackWriteback .. => 0
  | .stackWritebackRetry .. => 0
  | .launchBind .. => 0
  | .launchPlace .. => 0
  | .childPlace .. => 0
  | .launchComplete .. => 0
  | .applyOrderedAtomics .. => 0
  | .vacate .. => 0
  | .resume .. => 0
  | .disable .. => 0
  | .handlerWindowClose .. => 0
  | .vacateDrainDone .. => 0
  | .spillDone .. => 0
  | .fillDone .. => 0
  | .resumeExchange .. => 0
  | .ctxctlWrite .. => 0
  | .partWrite .. => 0
  | .vbreqWrite .. => 0
  | .boundApply .. => 0
  | .floorWrite .. => 0
  | .floorApply .. => 0
  | .evtClear .. => 0
  | .quotaWrite .. => 0
  | .registerWrite .. => 0
  | .boundExcursion .. => 0
  | .tokenDebit .. => 0
  | .tokenRefill .. => 0
  | .slotRequest .. => 0
  | .tailSnoop .. => 0
  | .launchPacket .. => 0
  | .signalPacket .. => 0
  | .waitPacket .. => 0
  | .waitSatisfied .. => 0
  | .graphOpen .. => 0
  | .graphCancel .. => 0
  | .copyPacket .. => 0
  | .shootdown .. => 0
  | .shootdownDone .. => 0
  | .pfdone .. => 0
  | .locketFault .. => 0
  | .move .. => 0
  | .swap .. => 0
  | .evacuate .. => 0
  | .abort .. => 0
  | .lineCopy .. => 0
  | .sourceHomeRequest .. => 0
  | .moveComplete .. => 0
  | .moveRetire .. => 0
  | .moveAbort .. => 0
  | .hotnessReport .. => 0
  | .thrashPinExpire .. => 0
  | .correctedThreshold .. => 0
  | .retirementDone .. => 0
  | .relaunch .. => 0
  | .flitReceive .. => 0
  | .linkReplay .. => 0
  | .linkRetrain .. => 0
  | .portDown .. => 0
  | .pctlWrite .. => 0
  | .fabricRequest .. => 0
  | .pauseNotice .. => 0
  | .resumeNotice .. => 0
  | .debugStop .. => 0
  | .debugResume .. => 0
  | .debugStep .. => 0
  | .debugStopSave .. => 0
  | .watchHit .. => 0
  | .watchpointWrite .. => 0
  | .targetWrite .. => 0
  | .speriodWrite .. => 0
  | .sampleTag .. => 0
  | .sampleRecord .. => 0
  | .replayDiverged .. => 0
  | .powerGood .. => 0
  | .clockStepStart .. => 0
  | .clockRestart .. => 0
  | .thermalStepDown .. => 0
  | .thermalStepUp .. => 0
  | .selfRefreshEnter .. => 0
  | .selfRefreshExit .. => 0
  | .dieThermalStop .. => 0
  | .telemetry .. => 0
  | .step .. => 0
  | .ceiling .. => 0
  | .trim .. => 0
  | .logread .. => 0
  | .fwupdate .. => 0
  | .retire .. => 0
  | .hostlink .. => 0
  | .reset .. => 0
  | .scalarAccessComplete .. => 0
  | .linkTrainDone .. => 0
  | .illegalScalarWord .. => 0
  | .scalarFetchFault .. => 0

/-- What an instruction is: a scalar word, a lane instruction, or a step of an engine, which has no encoding. -/
inductive InstrKind where
  | scalar | lane | step
  deriving DecidableEq, Repr

/-- The kind of an instruction. -/
def Instr.kind : Instr → InstrKind
  | .add .. => .scalar
  | .sub .. => .scalar
  | .mul .. => .scalar
  | .mulh .. => .scalar
  | .mulhn .. => .scalar
  | .div .. => .scalar
  | .divn .. => .scalar
  | .rem .. => .scalar
  | .remn .. => .scalar
  | .and .. => .scalar
  | .or .. => .scalar
  | .xor .. => .scalar
  | .andn .. => .scalar
  | .shl .. => .scalar
  | .shr .. => .scalar
  | .sra .. => .scalar
  | .min .. => .scalar
  | .max .. => .scalar
  | .minn .. => .scalar
  | .maxn .. => .scalar
  | .add2A .. => .scalar
  | .sub2A .. => .scalar
  | .mul2A .. => .scalar
  | .mulh2A .. => .scalar
  | .mulhn2A .. => .scalar
  | .div2A .. => .scalar
  | .divn2A .. => .scalar
  | .rem2A .. => .scalar
  | .remn2A .. => .scalar
  | .and2A .. => .scalar
  | .or2A .. => .scalar
  | .xor2A .. => .scalar
  | .andn2A .. => .scalar
  | .shl2A .. => .scalar
  | .shr2A .. => .scalar
  | .sra2A .. => .scalar
  | .min2A .. => .scalar
  | .max2A .. => .scalar
  | .minn2A .. => .scalar
  | .maxn2A .. => .scalar
  | .mov .. => .scalar
  | .neg .. => .scalar
  | .not .. => .scalar
  | .clz .. => .scalar
  | .ctz .. => .scalar
  | .popc .. => .scalar
  | .brev .. => .scalar
  | .sxt8 .. => .scalar
  | .sxt16 .. => .scalar
  | .sxt32 .. => .scalar
  | .zxt8 .. => .scalar
  | .zxt16 .. => .scalar
  | .zxt32 .. => .scalar
  | .cmpEq .. => .scalar
  | .cmpNe .. => .scalar
  | .cmpLt .. => .scalar
  | .cmpGe .. => .scalar
  | .cmpLtn .. => .scalar
  | .cmpGen .. => .scalar
  | .sel .. => .scalar
  | .lea .. => .scalar
  | .wset .. => .scalar
  | .winv .. => .scalar
  | .wlim .. => .scalar
  | .prvaddr .. => .scalar
  | .li .. => .scalar
  | .lih .. => .scalar
  | .addi .. => .scalar
  | .andi .. => .scalar
  | .ori .. => .scalar
  | .xori .. => .scalar
  | .shli .. => .scalar
  | .shri .. => .scalar
  | .srai .. => .scalar
  | .ldk .. => .scalar
  | .sget .. => .scalar
  | .sset .. => .scalar
  | .lds .. => .scalar
  | .sts .. => .scalar
  | .satom .. => .scalar
  | .jmp .. => .scalar
  | .call .. => .scalar
  | .ret .. => .scalar
  | .jr .. => .scalar
  | .brEq .. => .scalar
  | .brNe .. => .scalar
  | .brLt .. => .scalar
  | .brGe .. => .scalar
  | .brGt .. => .scalar
  | .brLe .. => .scalar
  | .fsplit .. => .scalar
  | .fjoin .. => .scalar
  | .fent .. => .scalar
  | .fnext .. => .scalar
  | .fany .. => .scalar
  | .vrun .. => .scalar
  | .vsync .. => .scalar
  | .wcnt .. => .scalar
  | .hwait .. => .scalar
  | .htest .. => .scalar
  | .hcancel .. => .scalar
  | .fmtset .. => .scalar
  | .dfetch .. => .scalar
  | .ddone .. => .scalar
  | .dpush .. => .scalar
  | .dpushQ .. => .scalar
  | .dpushE .. => .scalar
  | .launch .. => .scalar
  | .join .. => .scalar
  | .barBlk .. => .scalar
  | .barClu .. => .scalar
  | .wwait .. => .scalar
  | .tkt .. => .scalar
  | .stkflush .. => .scalar
  | .vgrow .. => .scalar
  | .vshrink .. => .scalar
  | .rgnEnter .. => .scalar
  | .rgnLeave .. => .scalar
  | .vcost .. => .scalar
  | .vdone .. => .scalar
  | .nop .. => .scalar
  | .endPath .. => .scalar
  | .trap .. => .scalar
  | .tret .. => .scalar
  | .brk .. => .scalar
  | .vadd .. => .lane
  | .vsub .. => .lane
  | .vmul .. => .lane
  | .vmulh .. => .lane
  | .vmad .. => .lane
  | .vmin .. => .lane
  | .vmax .. => .lane
  | .vand .. => .lane
  | .vor .. => .lane
  | .vxor .. => .lane
  | .vandn .. => .lane
  | .vshl .. => .lane
  | .vshr .. => .lane
  | .vsra .. => .lane
  | .vclz .. => .lane
  | .vpopc .. => .lane
  | .vbrev .. => .lane
  | .vbfe .. => .lane
  | .vbfi .. => .lane
  | .vcmp .. => .lane
  | .vsel .. => .lane
  | .vmov .. => .lane
  | .vfadd .. => .lane
  | .vfsub .. => .lane
  | .vfmul .. => .lane
  | .vfma .. => .lane
  | .vfms .. => .lane
  | .vfnma .. => .lane
  | .vfmin .. => .lane
  | .vfmax .. => .lane
  | .vfdiv .. => .lane
  | .vfsqrt .. => .lane
  | .vfcmp .. => .lane
  | .vfcls .. => .lane
  | .vcvt .. => .lane
  | .vexp2 .. => .lane
  | .vlog2 .. => .lane
  | .vsin .. => .lane
  | .vcos .. => .lane
  | .vrcp .. => .lane
  | .vrsq .. => .lane
  | .vbfly .. => .lane
  | .vtwid .. => .lane
  | .vcmul .. => .lane
  | .vdot .. => .lane
  | .vld .. => .lane
  | .vst .. => .lane
  | .vldg .. => .lane
  | .vstg .. => .lane
  | .vlds .. => .lane
  | .vsts .. => .lane
  | .vldd .. => .lane
  | .vstd .. => .lane
  | .vprf .. => .lane
  | .vatom .. => .lane
  | .vatomOrd .. => .lane
  | .vbank .. => .lane
  | .fence .. => .lane
  | .tld .. => .lane
  | .tst .. => .lane
  | .tzero .. => .lane
  | .tmma .. => .lane
  | .tmmq .. => .lane
  | .tcvt .. => .lane
  | .tadd .. => .lane
  | .tmerge .. => .lane
  | .sigz .. => .lane
  | .sigx .. => .lane
  | .sigj .. => .lane
  | .siglog .. => .lane
  | .cpy .. => .lane
  | .cpy2d .. => .lane
  | .coll .. => .lane
  | .vshfl .. => .lane
  | .vred .. => .lane
  | .vscan .. => .lane
  | .vbcast .. => .lane
  | .vtos .. => .lane
  | .vmsk .. => .lane
  | .vlid .. => .lane
  | .ivcmp .. => .lane
  | .ivhull .. => .lane
  | .ivwid .. => .lane
  | .ivsum .. => .lane
  | .joinWaitTimeout .. => .step
  | .laneIssue .. => .step
  | .laneInstrComplete .. => .step
  | .uncorrectableConsume .. => .step
  | .tileOpStart .. => .step
  | .tileOpComplete .. => .step
  | .tmergeResume .. => .step
  | .spanInstanceStart .. => .step
  | .parkedOpRecheck .. => .step
  | .copyByteTransfer .. => .step
  | .copyOverlapStallEnd .. => .step
  | .copySuspend .. => .step
  | .copyResume .. => .step
  | .copyComplete .. => .step
  | .copyFail .. => .step
  | .collInstanceStart .. => .step
  | .chunkDepart .. => .step
  | .chunkArrive .. => .step
  | .chunkCombine .. => .step
  | .slotReleaseNotice .. => .step
  | .failNotice .. => .step
  | .collComplete .. => .step
  | .collFail .. => .step
  | .dfetchWake .. => .step
  | .barrierRelease .. => .step
  | .wwaitWake .. => .step
  | .tktReread .. => .step
  | .joinWake .. => .step
  | .vgrowGrant .. => .step
  | .vgrowDeadlockSave .. => .step
  | .groupRestore .. => .step
  | .joinedGroupSave .. => .step
  | .stackWriteback .. => .step
  | .stackWritebackRetry .. => .step
  | .launchBind .. => .step
  | .launchPlace .. => .step
  | .childPlace .. => .step
  | .launchComplete .. => .step
  | .applyOrderedAtomics .. => .step
  | .vacate .. => .step
  | .resume .. => .step
  | .disable .. => .step
  | .handlerWindowClose .. => .step
  | .vacateDrainDone .. => .step
  | .spillDone .. => .step
  | .fillDone .. => .step
  | .resumeExchange .. => .step
  | .ctxctlWrite .. => .step
  | .partWrite .. => .step
  | .vbreqWrite .. => .step
  | .boundApply .. => .step
  | .floorWrite .. => .step
  | .floorApply .. => .step
  | .evtClear .. => .step
  | .quotaWrite .. => .step
  | .registerWrite .. => .step
  | .boundExcursion .. => .step
  | .tokenDebit .. => .step
  | .tokenRefill .. => .step
  | .slotRequest .. => .step
  | .tailSnoop .. => .step
  | .launchPacket .. => .step
  | .signalPacket .. => .step
  | .waitPacket .. => .step
  | .waitSatisfied .. => .step
  | .graphOpen .. => .step
  | .graphCancel .. => .step
  | .copyPacket .. => .step
  | .shootdown .. => .step
  | .shootdownDone .. => .step
  | .pfdone .. => .step
  | .locketFault .. => .step
  | .move .. => .step
  | .swap .. => .step
  | .evacuate .. => .step
  | .abort .. => .step
  | .lineCopy .. => .step
  | .sourceHomeRequest .. => .step
  | .moveComplete .. => .step
  | .moveRetire .. => .step
  | .moveAbort .. => .step
  | .hotnessReport .. => .step
  | .thrashPinExpire .. => .step
  | .correctedThreshold .. => .step
  | .retirementDone .. => .step
  | .relaunch .. => .step
  | .flitReceive .. => .step
  | .linkReplay .. => .step
  | .linkRetrain .. => .step
  | .portDown .. => .step
  | .pctlWrite .. => .step
  | .fabricRequest .. => .step
  | .pauseNotice .. => .step
  | .resumeNotice .. => .step
  | .debugStop .. => .step
  | .debugResume .. => .step
  | .debugStep .. => .step
  | .debugStopSave .. => .step
  | .watchHit .. => .step
  | .watchpointWrite .. => .step
  | .targetWrite .. => .step
  | .speriodWrite .. => .step
  | .sampleTag .. => .step
  | .sampleRecord .. => .step
  | .replayDiverged .. => .step
  | .powerGood .. => .step
  | .clockStepStart .. => .step
  | .clockRestart .. => .step
  | .thermalStepDown .. => .step
  | .thermalStepUp .. => .step
  | .selfRefreshEnter .. => .step
  | .selfRefreshExit .. => .step
  | .dieThermalStop .. => .step
  | .telemetry .. => .step
  | .step .. => .step
  | .ceiling .. => .step
  | .trim .. => .step
  | .logread .. => .step
  | .fwupdate .. => .step
  | .retire .. => .step
  | .hostlink .. => .step
  | .reset .. => .step
  | .scalarAccessComplete .. => .step
  | .linkTrainDone .. => .step
  | .illegalScalarWord .. => .step
  | .scalarFetchFault .. => .step

end Sys2Proof
end

