-- ==== Sys2Proof/Machine/Map.lean ====
section
/-!
DEFINITION. Finite maps from natural numbers, held as plain data: a list of (key, value) pairs in
strictly rising key order. Used for memory bytes, registers, tiles, scratch and the tables of
launches, groups and operations. `get` answers a default where the key is not listed.
-/
namespace Sys2Proof.Machine

/-- A finite map held as a list of pairs, keys rising. -/
abbrev Map (α : Type) := List (Nat × α)

/-- The value at a key, or the default. -/
def Map.get {α : Type} (d : α) : Map α → Nat → α
  | [], _ => d
  | (k, v) :: t, j => if j = k then v else Map.get d t j

/-- The value at a key, if the key is listed. -/
def Map.find {α : Type} : Map α → Nat → Option α
  | [], _ => none
  | (k, v) :: t, j => if j = k then some v else Map.find t j

/-- Puts a value at a key: in order, replacing what stood there. -/
def Map.put {α : Type} : Map α → Nat → α → Map α
  | [], j, x => [(j, x)]
  | (k, v) :: t, j, x =>
    if j < k then (j, x) :: (k, v) :: t
    else if j = k then (j, x) :: t
    else (k, v) :: Map.put t j x

/-- Takes a key out of the map. -/
def Map.del {α : Type} : Map α → Nat → Map α
  | [], _ => []
  | (k, v) :: t, j => if j = k then Map.del t j else (k, v) :: Map.del t j

/-- Writes a value, keeping the canonical form: the default is never listed. -/
def Map.set {α : Type} [DecidableEq α] (d : α) (m : Map α) (j : Nat) (x : α) : Map α :=
  if x = d then m.del j else m.put j x

/-- Keys rise strictly from above a bound. -/
def Map.sortedFrom {α : Type} : Nat → Map α → Bool
  | _, [] => true
  | b, (k, _) :: t => decide (b ≤ k) && Map.sortedFrom (k + 1) t

/-- The canonical form: strictly rising keys, and no entry equal to the default. -/
def Map.wf {α : Type} [DecidableEq α] (d : α) (m : Map α) : Bool :=
  Map.sortedFrom 0 m && m.all (fun kv => decide (kv.2 ≠ d))

/-- The entries with keys in [lo, hi), their keys moved down by lo. -/
def Map.slice {α : Type} (m : Map α) (lo hi : Nat) : Map α :=
  (m.filter (fun kv => decide (lo ≤ kv.1) && decide (kv.1 < hi))).map (fun kv => (kv.1 - lo, kv.2))

/-- The map without its entries in [lo, hi). -/
def Map.clearRange {α : Type} (m : Map α) (lo hi : Nat) : Map α :=
  m.filter (fun kv => !(decide (lo ≤ kv.1) && decide (kv.1 < hi)))

/-- Puts every entry of a second map, its keys moved up by an offset. -/
def Map.putAll {α : Type} (m : Map α) (off : Nat) : Map α → Map α
  | [] => m
  | (k, v) :: t => Map.putAll (m.put (off + k) v) off t

/-- Every value changed. -/
def Map.each {α : Type} (m : Map α) (f : α → α) : Map α := m.map (fun kv => (kv.1, f kv.2))

/-- The entries that belong to slots, the keys counted in units of a slot. -/
def ofSlots {α : Type} (m : Map α) (n : Nat) (is : List Nat) : Map α := m.filter (fun kv => is.contains (kv.1 / n))

/-- The entries that do not. -/
def notSlots {α : Type} (m : Map α) (n : Nat) (is : List Nat) : Map α := m.filter (fun kv => !(is.contains (kv.1 / n)))

/-- The largest listed key plus one: a key not in use. -/
def Map.fresh {α : Type} : Map α → Nat
  | [] => 0
  | (k, _) :: t => Nat.max (k + 1) (Map.fresh t)

end Sys2Proof.Machine
end

