-- ==== Sys2Proof/Machine/State.lean ====
section
/-!
DEFINITION. The state of a Stalos K9 device, as plain data, and the device at reset. Each structure cites the rules
that name its contents. Default values are the values at reset or at the start of the item's life.
-/
namespace Sys2Proof.Machine

/-! ## The group (02 R14 to R18) -/

/-- A window register (R65). The widths are VBASE 57, FRAME 52, LIM 22, TAG 16, TYPE 3. -/
structure Window where
  vbase : Nat := 0
  frame : Nat := 0
  lim : Nat := 0
  tag : Nat := 0
  typ : Nat := 0
  prd : Bool := false
  pwr : Bool := false
  pat : Bool := false
  v : Bool := false
  st : Bool := false
  deriving DecidableEq, Repr

/-- What a frontier entry is (R43, R44). -/
inductive FKind where
  | free | ordinary | joinWait
  deriving DecidableEq, Repr

/-- A frontier entry (R44). ADDR is in 4-byte units. -/
structure FEntry where
  kind : FKind := .free
  mask : W32 := 0#32
  jset : W32 := 0#32
  fmt : W32 := 0#32
  addr : Nat := 0
  hnd : Bool := false
  sd : Nat := 0
  tleft : Nat := 0
  /-- The tick in which TLEFT reached 0 has ended (R55). -/
  lapsed : Bool := false
  deriving DecidableEq, Repr

/-- A lane block in the lane queue or in a held queue (R15, R56, R57, R317): its start in units of 12 bytes from the
lane base, the position of its next instruction, what its `vrun` captured, the `pc` of that `vrun`, and, for an instruction
that runs again for some lanes only, those lanes. -/
structure LaneBlock where
  start : Nat := 0
  pos : Nat := 0
  mask : W32 := 0#32
  fmt : W32 := 0#32
  sigdim : Nat := 1
  sigdepth : Nat := 1
  vpc : Nat := 0
  redo : Option W32 := none
  ordq : Option Nat := none
  /-- `%stklim` as it stood at the `vrun` (R198). -/
  stklim : Nat := 0
  /-- Lanes in which the instruction at `pos` has uncorrectable sources, while its other lanes complete it (R57, R395). -/
  bad : W32 := 0#32
  deriving DecidableEq, Repr

/-- Which handler a live trap record belongs to (R57, R137). -/
inductive HandlerKind where
  | trap | vacate
  deriving DecidableEq, Repr

/-- A trap record (R57): the interrupted path, F, the held queue, I (the block whose `pos` is that of I), whether the
cause concerns the whole group, and the word of `%tcause`. -/
structure TrapRec where
  pc : W64 := 0#64
  m0 : W32 := 0#32
  fmt : W32 := 0#32
  f : W32 := 0#32
  held : List LaneBlock := []
  i : Option LaneBlock := none
  whole : Bool := false
  tcause : W32 := 0#32
  handler : HandlerKind := .trap
  /-- It was live at the start of the vacate in progress, or that vacate formed it (R458). -/
  atT0 : Bool := false
  deriving DecidableEq, Repr

/-- A unit a group holds (R28, R304): the dispenser's number of the unit, its word, its level. -/
structure UnitRef where
  node : Nat := 0
  word : W64 := 0#64
  level : Nat := 0
  deriving DecidableEq, Repr

/-- An entry of the lane unit table (R304). -/
structure LaneUnit where
  unit : Option UnitRef := none
  done : Bool := false
  nan : Bool := false
  deriving DecidableEq, Repr

/-- The five counter classes (R98). -/
inductive OpClass where
  | l | s | c | t | k
  deriving DecidableEq, Repr

/-- An operation in a counter, in issue order within its class (R98): its number, and whether it is complete. -/
structure OpEntry where
  id : Nat := 0
  cls : OpClass := .l
  done : Bool := false
  deriving DecidableEq, Repr

/-- The kinds of handle (R196) and what a handle of the group stands for. -/
structure Handle where
  kind : Nat := 0
  obj : Nat := 0
  status : Nat := 0
  deriving DecidableEq, Repr

/-- Where one lane's, or the scalar pipe's, access goes once its address is formed (R64, R66, R79). -/
inductive Place where
  /-- A physical address of the device's own memory, with the page, the memory type and the generation it was
  translated through. -/
  | phys (pa page typ gen : Nat)
  /-- A byte offset of the core's scratchpad (R70). -/
  | scratch (core off : Nat)
  /-- A lane's private memory through the stack cache (R77): the private offset. -/
  | stack (off : Nat)
  /-- A fabric address of a peer (R416). -/
  | peer (fa : Nat)
  deriving DecidableEq, Repr

/-- One access of an instruction: the lane (0 for the scalar pipe), the virtual address, the place, the bytes, the
operand and compare values, the stochastic state that travels with it (R252), whether it has been performed, and the
old or loaded value once it has. -/
structure Part where
  lane : Nat := 0
  va : Nat := 0
  place : Place := .phys 0 0 0 0
  size : Nat := 0
  x : Nat := 0
  c : Nat := 0
  draw : W32 := 0#32
  done : Bool := false
  val : Nat := 0
  bad : Bool := false
  /-- Served through a window: it does not visit the TLB (R66). -/
  win : Bool := false
  deriving DecidableEq, Repr

/-- What an access does to its bytes. -/
inductive AccessKind where
  | load | store
  /-- An atomic by its AOP code, type and rounding code (R251). -/
  | atomic (aop : Nat) (ty : Ty) (rm : Nat)
  /-- A bank update by its BOP code (R258). -/
  | bank (bop : Nat) (ty : Ty) (rm : Nat)
  /-- A buffered deferred atomic (R254). -/
  | ordered (aop : Nat) (ty : Ty) (rm q : Nat)
  /-- A fence: `.sc` or not (R260). -/
  | fence (sc : Bool)
  deriving DecidableEq, Repr

/-- Where a load writes its value. -/
inductive Dest where
  | none
  /-- A scalar register, with sign extension from the access size where `sgn` holds (R188). -/
  | sreg (d : Nat) (sgn : Bool)
  /-- Vector registers, by the class-3 size code (R245). -/
  | vreg (d sz : Nat)
  /-- The old value of an atomic in a vector register, or a pair (R251). -/
  | vold (d : Nat) (wide : Bool)
  /-- An interval pair: both words alike, or the two loaded words (R312). -/
  | vivl (d : Nat)
  deriving DecidableEq, Repr

/-- A watch hit whose record is still to be posted (R439, R440). -/
structure Hit where
  launch : Option Nat := none
  src : Nat := 0
  wp : Nat := 0
  lid : Nat := 0xFFFF
  gid : Nat := 0xFFFF
  pc : Nat := 0xFFFFFFFF
  lpos : Nat := 0xFFFF
  arg : Nat := 0
  addr : Nat := 0
  size : Nat := 0
  mask : W32 := 0#32
  rgn : W64 := 0#64
  /-- The group a STOP stops, for its own scalar and lane accesses. -/
  stops : Option Nat := none
  deriving DecidableEq, Repr

/-- A memory instruction that has issued and is not complete (R98, R130, R246). -/
structure Pend where
  id : Nat := 0
  lane : Bool := false
  cls : Option OpClass := none
  kind : AccessKind := .load
  dest : Dest := .none
  parts : List Part := []
  acq : Bool := false
  rel : Bool := false
  scope : Nat := 0
  seq : Nat := 0
  lpos : Nat := 0
  fmt : W32 := 0#32
  pc : Nat := 0
  mask : W32 := 0#32
  rgn : W64 := 0#64
  /-- The watch hits found at issue (R439). -/
  watch : List Hit := []
  /-- The number of a load among those of its group (R395). -/
  no : Nat := 0
  deriving DecidableEq, Repr

/-- What a group waits for at its current instruction (R35, R36, R30, R202, R204, R206). -/
inductive Wait where
  | none
  /-- `dfetch` waits at the dispenser. -/
  | dfetch
  /-- A barrier: the kind (0 block, 1 cluster) and number it has arrived at. -/
  | bar (kind n : Nat)
  /-- `wwait` on a word: the address and the value seen. -/
  | wwait (va old : Nat)
  /-- `tkt` on a turn word. -/
  | tkt (va : Nat)
  /-- `join` on a child. -/
  | join (launch : Nat)
  /-- `vgrow` of n units, with the order number of the request. -/
  | vgrow (n at_ : Nat)
  /-- No path runs: every frontier entry waits for its join set (R50). -/
  | frontier
  deriving DecidableEq, Repr

/-- Where a group is (R26, R40, R353, R396, R435). -/
inductive Residence where
  /-- On its slot. -/
  | resident
  /-- Saved to its locket frame; the number is the CAUSE of R353. -/
  | saved (cause : Nat)
  /-- In its context's vacate image (R348). -/
  | image
  | ended
  deriving DecidableEq, Repr

/-- A cause that a tile operation found while it ran (R271): its code and how many tile operations had issued. -/
structure Deferred where
  code : Nat := 0
  opNo : Nat := 0
  deriving DecidableEq, Repr

/-- The state of a group (R17, R18, R353). -/
structure Group where
  ctx : Nat := 0
  launch : Nat := 0
  block : Nat := 0
  /-- `%gid`. -/
  gid : Nat := 0
  /-- `%core`. -/
  core : Nat := 0
  /-- 0 for slot A, 1 for slot B. -/
  slot : Nat := 0
  /-- Slot index (R367). -/
  sidx : Nat := 0
  residence : Residence := .resident
  /-- Scalar registers allocated, in units of 64. -/
  salloc : Nat := 1
  /-- Vector registers allocated, in units of 8 per lane. -/
  valloc : Nat := 1
  /-- `s1` to `s1023`; unlisted registers hold 0. -/
  sreg : Map W64 := []
  /-- Lane l of `v`k at key 32 k + l; unlisted entries hold 0. -/
  vreg : Map W32 := []
  /-- The active mask `m0`. -/
  m0 : W32 := 0xFFFFFFFF#32
  /-- `m1` to `m15`; unlisted masks hold 0. -/
  masks : Map W32 := []
  /-- `w0` to `w15`; unlisted windows are unset. -/
  wins : Map Window := []
  /-- The 16 frontier entries. -/
  front : List FEntry := List.replicate 16 {}
  pc : W64 := 0#64
  /-- `%fmt` of the running path. -/
  fmt : W32 := 0x08840000#32
  /-- The lane queue, at most 8 blocks. -/
  queue : List LaneBlock := []
  /-- The region stack, bottom entry first, at most 16. -/
  rstack : List Nat := []
  /-- `%fflags`. -/
  fflags : W32 := 0#32
  /-- `%vmode`. -/
  vmode : W32 := 0#32
  /-- `%stklim`. -/
  stklim : Nat := 0
  /-- `%sigdim`. -/
  sigdim : Nat := 1
  /-- `%sigdepth`. -/
  sigdepth : Nat := 1
  /-- `%blevel`. -/
  blevel : Nat := 0
  /-- `%blimit`. -/
  blimit : Nat := 8
  /-- The counters L, S, C, T, K as the operations in them. -/
  ops : List OpEntry := []
  /-- Memory instructions in flight. -/
  pend : List Pend := []
  /-- The next operation number and the order number of the next access. -/
  seq : Nat := 0
  /-- Tile operations issued so far (R271), and operations of class L (R395). -/
  tileNo : Nat := 0
  loadNo : Nat := 0
  /-- The next handle SEQ (R196). -/
  hseq : Nat := 1
  handles : Map Handle := []
  /-- The stochastic-rounding states of the 32 lanes (R115). -/
  lfsr : List W32 := List.replicate 32 1#32
  /-- Retired lanes (R51). -/
  retired : W32 := 0#32
  /-- The live trap record. -/
  trap : Option TrapRec := none
  /-- The replay record of R60: the block and position of I; its `redo` holds F. -/
  replay : Option LaneBlock := none
  /-- The unit held in element mode. -/
  unit : Option UnitRef := none
  /-- The lane unit table; unlisted lanes hold no unit. -/
  lut : Map LaneUnit := []
  /-- Interval mode (R303). -/
  interval : Bool := false
  /-- `vatom.ord` instructions issued since the unit was obtained (R255). -/
  ordq : Nat := 0
  wait : Wait := .none
  /-- The tick of the first issued instruction (R38), once there is one. -/
  age : Option Nat := none
  /-- Ordinal of the last lane issue, for the choice of R367, and the control cycle of the last scalar one. -/
  lastIssue : Nat := 0
  lastScalar : Nat := 0
  /-- Deferred tile causes not yet taken. -/
  deferred : List Deferred := []
  /-- Vector register entries whose error bit is set (R395, R406), by key. -/
  verr : List Nat := []
  /-- The load that set the error bit of a vector register entry, by key (R395). -/
  verrOf : Map Nat := []
  /-- Scalar registers whose error bit is set. -/
  serr : List Nat := []
  /-- Pages the group waits for, each with the access code of R402 (R397). -/
  pfWait : List (Nat × Nat) := []
  /-- The tick and tick-count bookkeeping of `wwait` and restores (R11): no issue before this `%gtime`. -/
  notBefore : Nat := 0
  /-- A debug-stopped group has been told to resume (R436). -/
  dbgGo : Bool := false
  /-- A debug stop waits for the next region edge: the KIND of its record (R434). -/
  dbgStop : Option Nat := none
  /-- The group stands at a region edge. -/
  atEdge : Bool := false
  /-- The `n` of the `brk` that stopped it. -/
  brkArg : Nat := 0
  /-- The group is in a window (R458): its own vacate handler is open, or a resumed window runs. -/
  window : Bool := false
  /-- The group has executed `vdone` in the present vacate. -/
  vdone : Bool := false
  /-- Locket frame number. -/
  locket : Nat := 0
  /-- `end` has stopped the group under R396. -/
  stopped : Bool := false
  /-- It waits for an entry of its context's copy table (R287). -/
  stalled : Bool := false
  /-- The order number of the last save of R39. -/
  savedAt : Nat := 0
  /-- `%gtime` and the die of the last save to the locket (R11). -/
  savedGt : Nat := 0
  savedDie : Nat := 0
  /-- Its page fault was declined while it was saved: it takes page-not-resident when it is back (R398). -/
  declined : Bool := false
  /-- `coll` instructions issued, by the scratch offset of the barrier object they name (R294). -/
  collN : Map Nat := []
  deriving DecidableEq, Repr

/-! ## Blocks, launches, dispensers (02 R19 to R36, 10 R172, 23 R359) -/

/-- A block (R19 to R26, R456). -/
structure Block where
  launch : Nat := 0
  ctx : Nat := 0
  /-- `%bid`. -/
  bid : Nat := 0
  core0 : Nat := 0
  span : Nat := 1
  slot : Nat := 0
  wide : Bool := false
  /-- The offset of the block's scratch on each core of its span. -/
  bases : List Nat := []
  deriving DecidableEq, Repr

/-- A kernel descriptor as read from memory (R172). -/
structure KDesc where
  rgn : Nat := 16
  g : Nat := 1
  spanCode : Nat := 0
  wide : Bool := false
  res : Bool := false
  prio : Bool := false
  vh : Bool := false
  iv : Bool := false
  fmtv : Bool := false
  scr : Nat := 0
  vmax : Nat := 1
  vmin : Nat := 1
  smax : Nat := 1
  smin : Nat := 1
  entry : Nat := 0
  trapv : Nat := 0xFFFFFFFF
  vhand : Nat := 0
  ivent : Nat := 0
  fmtw : Nat := 0
  priv : Nat := 0
  pushb : Nat := 0
  sigs : Nat := 0
  sbase : Nat := 0
  lbase : Nat := 0
  cbase : Nat := 0
  ssize : Nat := 0
  lsize : Nat := 0
  csize : Nat := 0
  name : Nat := 0
  reservedZero : Bool := true
  deriving DecidableEq, Repr

/-- A launch record (R359). -/
structure LRec where
  hdr : Nat := 1
  kdesc : Nat := 0
  d0 : Nat := 1
  d1 : Nat := 1
  d2 : Nat := 1
  d3 : Nat := 1
  bitmap : Nat := 0
  uorder : Nat := 0
  seed : Nat := 0
  graph : Nat := 0xFFFF
  dlog : Nat := 0
  dlsz : Nat := 0
  status : Nat := 0
  sig : Nat := 0
  sigv : Nat := 0
  privb : Nat := 0
  privsz : Nat := 0
  reservedZero : Bool := true
  deriving DecidableEq, Repr

/-- A unit known to a dispenser (R28 to R32): its word, level, parent, grid index (for a grid unit), the path of R255
below the grid unit, how many units it has pushed, whether it has been finished, and whether a descendant was
discarded (R34). -/
structure UnitNode where
  word : W64 := 0#64
  level : Nat := 0
  parent : Option Nat := none
  root : Nat := 0
  path : List Nat := []
  pushes : Nat := 0
  finished : Bool := false
  complete : Bool := false
  spoiled : Bool := false
  deriving DecidableEq, Repr

/-- Where a launch stands on its way (R26, R364). -/
inductive LPhase where
  /-- A packet taken, or a child in the pool, not bound. -/
  | unbound
  /-- Bound to a partition, not placed. -/
  | bound
  | running
  /-- Its status word has been written. -/
  | finished
  deriving DecidableEq, Repr

/-- A relocation site of a copy of an image (R170, R175): the address patched and the bytes there. -/
structure Patch where
  addr : Nat := 0
  bytes : List Byte := []
  deriving DecidableEq, Repr

/-- A relocation of a linked image that the loader applies at each binding (R170): its type 1, 2 or 7, its parameter, the
address it patches, and S + A, both as the linked image has them. -/
structure Reloc where
  typ : Nat := 7
  param : Nat := 0
  addr : Nat := 0
  value : Nat := 0
  deriving DecidableEq, Repr

/-- A page of dome data of a copy (R73, R174): its virtual address, where its leaf lies, the leaf's permissions and generation, and
the frame that the loader has set aside in the dome of each die. -/
structure DomePage where
  va : Nat := 0
  leafAt : Nat := 0
  leaf : W64 := 0#64
  frames : List Nat := []
  deriving DecidableEq, Repr

/-- A place that the loader has for a copy of an image (R175): how far beyond the linked image its addresses lie, and its dome
pages. -/
structure CopyPlace where
  delta : Nat := 0
  dome : List DomePage := []
  deriving DecidableEq, Repr

/-- A linked image as the loader knows it (R168 to R170): the address and the size of each part in the context's memory, its
relocations, the places for copies of it. -/
structure LinkedImage where
  parts : List (Nat × Nat) := []
  relocs : List Reloc := []
  places : List CopyPlace := []
  deriving DecidableEq, Repr

/-- One buffered deferred atomic (R254 to R256). -/
structure OrdEntry where
  root : Nat := 0
  path : List Nat := []
  q : Nat := 0
  lane : Nat := 0
  va : Nat := 0
  pa : Nat := 0
  x : Nat := 0
  aop : Nat := 0
  ty : Ty := .f32
  rm : Nat := 0
  fmt : W32 := 0#32
  /-- Index in the deferred log, where the bank was full. -/
  logAt : Option Nat := none
  gid : Nat := 0
  pc : Nat := 0
  lpos : Nat := 0
  rgn : W64 := 0#64
  deriving DecidableEq, Repr

/-- A launch (R24 to R36). -/
structure Launch where
  ctx : Nat := 0
  /-- `%lid`. -/
  lid : Nat := 0
  /-- The `%lid` of the run before a relaunch, until the launch is bound again (R409). -/
  oldLid : Option Nat := none
  phase : LPhase := .unbound
  lr : LRec := {}
  kd : KDesc := {}
  /-- The queue and ring index of its packet, or none for a child. -/
  queue : Option (Nat × Nat) := none
  /-- The issuing group and the handle SEQ of a child. -/
  parent : Option (Nat × Nat) := none
  depth : Nat := 0
  /-- When the record was taken: the order of the pending pool. -/
  order : Nat := 0
  b : Nat := 0
  /-- `%ncores`. -/
  ncores : Nat := 0
  pb : Nat := 0
  /-- Its copy of the image: how far beyond the linked image that lies (R175). -/
  copyAt : Option Nat := none
  /-- The constant table as it stood at binding (R190). -/
  ctab : List W64 := []
  /-- The partition's slots at binding, as (first core, slot) of each block. -/
  places : List (Nat × Nat) := []
  units : Map UnitNode := []
  /-- Pushed units not yet fetched, most recent first: the dispenser queue, or the element queue of an interval kernel. -/
  pushed : List Nat := []
  /-- Pushed units of the interval queue. -/
  ivQueue : List Nat := []
  /-- How many grid units have been handed out in dispenser order. -/
  gridNext : Nat := 0
  /-- Grid units skipped at a relaunch (R409). -/
  skip : List Nat := []
  budget : Nat := 0
  cancelled : Bool := false
  /-- Failure cause of R360, 0 for none. -/
  fail : Nat := 0
  /-- The communicators in which it has joined an instance (R299). -/
  collComms : List Nat := []
  ords : List OrdEntry := []
  /-- Entries written to the deferred log. -/
  logUsed : Nat := 0
  ordsApplied : Bool := false
  /-- Debug target bound at placement (R432). -/
  target : Option Nat := none
  /-- Unit log entries written. -/
  ulog : Nat := 0
  logFull : Bool := false
  /-- Replay: entries already served, per (bid, gid). -/
  replayAt : List ((Nat × Nat) × Nat) := []
  /-- Spanned operations issued per participant (R281), by 2 core + slot. -/
  spans : List (Nat × Nat) := []
  deriving DecidableEq, Repr

/-! ## Engines (14, 15, 26) -/

/-- A resource of the vacate contract (R128). -/
inductive Resource where
  | half (core h : Nat)
  | channel (die n : Nat)
  | tier (die t : Nat)
  | dome (die : Nat)
  | fabric (port vc : Nat)
  deriving DecidableEq, Repr

/-- An outstanding charge (R129): whose operation, on what, how much is left, the floor epoch it was costed in (R346),
the floor used and the bytes, for the releases of moving operations. -/
structure Charge where
  key : Nat := 0
  res : Resource := .dome 0
  amt : Nat := 0
  epoch : Nat := 0
  floor : Nat := 0
  deriving DecidableEq, Repr

/-- A copy (R285 to R292), of a group or of a copy packet. -/
structure Copy where
  ctx : Nat := 0
  launch : Option Nat := none
  group : Option Nat := none
  gid : Nat := 0xFFFF
  opId : Nat := 0
  handle : Nat := 0
  /-- The packet's queue, ring index, SIG, SIGV and STATUS, for a copy packet. -/
  packet : Option (Nat × Nat × Nat × Nat × Nat) := none
  src : Nat := 0
  dst : Nat := 0
  n : Nat := 0
  rows : Nat := 1
  sstride : W64 := 0#64
  dstride : W64 := 0#64
  /-- Bytes moved so far, in the order of R288, and how many had been when its present charge was made (R129). -/
  moved : Nat := 0
  costedAt : Nat := 0
  /-- It has read a byte: it is no longer withdrawn (R292). -/
  begun : Bool := false
  /-- Bytes after `moved` that stand written already, with the atomic piece that holds them (R288). -/
  ahead : Nat := 0
  /-- The last destination byte that was not written, for the bad data it depends on (R291). -/
  lastBad : Option Nat := none
  status : Nat := 0
  suspended : Bool := false
  charge : Nat := 0
  die : Nat := 0
  core : Nat := 0
  scrBase : Nat := 0
  pc : Nat := 0
  rgn : W64 := 0#64
  seq : Nat := 0
  pfPage : Option Nat := none
  /-- Source lines found uncorrectable, and the destination of the first byte not written for them (R291). -/
  skipLines : List Nat := []
  firstBad : Option Nat := none
  watch : List Hit := []
  deriving DecidableEq, Repr

/-- The class-5 operations by opcode (R152). -/
inductive TileKind where
  | tld | tst | tzero | tmma | tmmq | tcvt | tadd | tmerge | sigz | sigx | sigj | siglog
  deriving DecidableEq, Repr

/-- Where a tile operation stands (R263, R269). -/
inductive TilePhase where
  | queued | running | parked
  /-- Resumed, and waiting at its engine until it fits (R269). -/
  | waiting | done
  deriving DecidableEq, Repr

/-- A tile operation (R263): its kind and fields, and what it captured at issue. -/
structure TileOp where
  kind : TileKind := .tzero
  args : TArgs := ⟨0, 0, 0, 0, 0, 0, .i32, 0, 0, 0, 0, 0, .i32, true⟩
  group : Nat := 0
  launch : Nat := 0
  ctx : Nat := 0
  opId : Nat := 0
  opNo : Nat := 0
  phase : TilePhase := .queued
  core : Nat := 0
  slot : Nat := 0
  wide : Bool := false
  fmt : W32 := 0#32
  sval : W64 := 0#64
  /-- The index vector or the increment, as 32-bit words. -/
  vec : List W32 := []
  sigdim : Nat := 1
  sigdepth : Nat := 1
  scrBase : Nat := 0
  scrSize : Nat := 0
  /-- Row places in memory, each resolved at issue. -/
  rows : List Part := []
  charge : Nat := 0
  pc : Nat := 0
  lpos : Nat := 0
  rgn : W64 := 0#64
  seq : Nat := 0
  /-- The spanned instance it belongs to (R281). -/
  span : Option Nat := none
  /-- A spanned operation of a participant that does not lead: B and its fields come from the leader (R282). -/
  follower : Bool := false
  /-- A `tmerge` that found its ticket below TURN when it read it (R279). -/
  stale : Bool := false
  /-- Elements whose computation mismatched twice (R405). -/
  mism : List Nat := []
  watch : List Hit := []
  deriving DecidableEq, Repr

/-- A communicator record as read (R420): ranks, own rank, root, the parent of each rank, priority, and where the slot
area and the peer table lie. -/
structure Comm where
  r : Nat := 1
  rank : Nat := 0
  root : Nat := 0
  parents : List Nat := []
  prio : Nat := 0
  kdesc : Nat := 0
  bid : Nat := 0
  slotBase : Nat := 0
  peerTab : Nat := 0
  /-- The number of the record: communicator k travels on channel 8 + k. -/
  idx : Nat := 0
  deriving DecidableEq, Repr

/-- One group's join of an instance (R294): its operation, handle and order, and what its instruction and its `vrun`
gave. -/
structure CollJoin where
  group : Nat := 0
  gid : Nat := 0
  opId : Nat := 0
  hseq : Nat := 0
  seq : Nat := 0
  args : AArgs := ⟨0, 0, 0, 0, .i32, 0, 0, 0, false, 0, true⟩
  comm : Nat := 0
  rec_ : Comm := {}
  buf : Nat := 0
  count : Nat := 0
  fmt : W32 := 0#32
  sigdim : Nat := 1
  sigdepth : Nat := 1
  core : Nat := 0
  slot : Nat := 0
  pc : Nat := 0
  rgn : W64 := 0#64
  watch : List Hit := []
  deriving DecidableEq, Repr

/-- A chunk that an instance has sent: its name (`Chunk` fields packed), the destination of the hop, and whether it has
arrived there (R298). -/
structure SentChunk where
  key : Nat := 0
  dst : Nat := 0
  charge : Nat := 0
  arrived : Bool := false
  deriving DecidableEq, Repr

/-- A collective instance on this rank (R294 to R299). -/
structure Coll where
  ctx : Nat := 0
  launch : Nat := 0
  block : Nat := 0
  /-- The aperture offset of the barrier object. -/
  obj : Nat := 0
  inst : Nat := 0
  /-- The object on each core of the block: the core, the place in its scratch, and its 16 bytes as the engine last saw
  or left them (R295). -/
  places : List (Nat × Nat × Nat) := []
  joined : List CollJoin := []
  started : Bool := false
  /-- The leader's join, which governs the instance. -/
  lead : CollJoin := {}
  wide : Bool := false
  scrBase : Nat := 0
  /-- Its order among the instances of its communicator here. -/
  seqNo : Nat := 0
  /-- The tile operand as read at the start. -/
  own : List Byte := []
  /-- The accumulated value of each segment, and how many children it holds (R297). -/
  red : Map (List Byte) := []
  got : Map Nat := []
  /-- Segments received to be forwarded or kept, by chunk name. -/
  have_ : Map (List Byte) := []
  /-- Tile bytes to be written at completion, by byte offset. -/
  out : Map (List Byte) := []
  /-- Buffer segments written, with the bytes that stood there, by buffer offset (R299). -/
  old : Map (List Byte) := []
  sent : List SentChunk := []
  /-- Segments whose last child's slot is held at the root until what is sent from it has arrived: name and rank. -/
  held : List (Nat × Nat) := []
  /-- The cause of a failure found, R394 code or 1 for none of them. -/
  failed : Option Nat := none
  deriving DecidableEq, Repr

/-- A chunk in a slot, waiting for its turn, or a fail notice in its place in the order (R421 to R423). -/
structure SlotChunk where
  ctx : Nat := 0
  comm : Nat := 0
  src : Nat := 0
  msg : Chunk := ⟨0, false, 0, 0, 0, [], []⟩
  deriving DecidableEq, Repr

/-- A fail notice of a rank that still waits for its instance to start or to be ended here (R423). -/
structure FailNote where
  ctx : Nat := 0
  comm : Nat := 0
  src : Nat := 0
  inst : Nat := 0
  deriving DecidableEq, Repr

/-! ## Contexts (22, 23, 24, 25, 28) -/

/-- The states of a context, in the order of their codes (R339). -/
inductive CtxState where
  | free | ready | running | vacating | spilling | vacated | resuming
  deriving DecidableEq, Repr

/-- A vacate in progress (R137). -/
structure Vacate where
  t0 : Nat := 0
  d : Nat := 0
  /-- The handler window is open. -/
  open_ : Bool := true
  /-- A launch was resident, parked or pending at its start (R339). -/
  keep : Bool := true
  /-- The context that receives the freed slots (R371). -/
  for_ : Option Nat := none
  deriving DecidableEq, Repr

/-- A vacate image (R348): the slots it was taken from, in ascending order, the groups, tiles and scratch in it. -/
structure Image where
  slots : List Nat := []
  groups : List Nat := []
  tiles : Map W32 := []
  scratch : Map Byte := []
  /-- Tile elements and scratch words of it whose error bit is set (R406). -/
  tileErr : List Nat := []
  scrErr : List Nat := []
  /-- A launch was resident, parked or pending at the vacate (R339). -/
  keep : Bool := true
  /-- A slot of it was retired: it cannot resume (R408). -/
  dead : Bool := false
  deriving DecidableEq, Repr

/-- A packet taken from a queue and not complete (R357). -/
structure Packet where
  index : Nat := 0
  kind : Nat := 0
  /-- The object it became: a launch or a copy. -/
  obj : Option Nat := none
  started : Bool := false
  done : Bool := false
  /-- The entry's bytes, as read when it was taken. -/
  data : List Byte := []
  /-- A copy packet that met a full overlap table: the microsecond of its next try (R361). -/
  retry : Option Nat := none
  deriving DecidableEq, Repr

/-- A host queue as the turret keeps it (R355 to R357, R366). -/
structure Queue where
  tail : Nat := 0
  head : Nat := 0
  inert : Bool := false
  taken : List Packet := []
  /-- Holds an arbitration slot. -/
  slot : Bool := false
  waitSince : Nat := 0
  /-- When it was last served, for the round robin of its PRIO. -/
  served : Nat := 0
  /-- The wait packet's page is missing. -/
  pfPage : Option Nat := none
  deriving DecidableEq, Repr

/-- A phase or a job from its first graph to its completion (R361): how many of its graphs, or phases, are not complete, whether the
last of them has been opened, and the number of the job's entry of a phase. -/
structure Stage where
  n : Nat := 0
  last : Bool := false
  up : Nat := 0
  deriving DecidableEq, Repr

/-- A graph (R33, R361). -/
structure Graph where
  phase : Nat := 0
  job : Nat := 0
  lastP : Bool := false
  lastJ : Bool := false
  /-- The entry of the phase that it counts toward. -/
  stage : Nat := 0
  nl : Nat := 0
  named : Nat := 0
  ended : Nat := 0
  cancelled : Bool := false
  open_ : Bool := false
  deriving DecidableEq, Repr

/-- A debug target (R432). -/
structure Target where
  tkdesc : W64 := 0#64
  tqbase : W64 := 0#64
  tqctl : W64 := 0#64
  tqhead : Nat := 0
  ulbase : W64 := 0#64
  ulsize : W64 := 0#64
  deriving DecidableEq, Repr

/-- A shootdown in progress (R378). -/
structure Shoot where
  va : Nat := 0
  pages : Nat := 0
  /-- The accesses it waits for: (group, operation). -/
  waits : List (Nat × Nat) := []
  /-- It belongs to a migration record. -/
  move : Option Nat := none
  deriving DecidableEq, Repr

/-- A page of the thrash bound (R389). -/
structure PageHist where
  va : Nat := 0
  starts : List Nat := []
  pinEnd : Nat := 0
  deriving DecidableEq, Repr

/-- A ring of records (R400, R431): base, size, head, lost. -/
structure Ring where
  base : W64 := 0#64
  size : W64 := 0#64
  head : Nat := 0
  lost : Nat := 0
  deriving DecidableEq, Repr

/-- A context (R339 to R354, R372, R378, R400, R420, R431). -/
structure Ctx where
  /-- CTXCTL. -/
  en : Bool := false
  nomig : Bool := false
  novh : Bool := false
  /-- CTXSTAT. -/
  st : CtxState := .free
  err : Nat := 0
  ptroot : W64 := 0#64
  vbreq : W64 := 1000000#64
  vbcur : W64 := 1000000#64
  bpend : Bool := false
  lkbase : W64 := 0#64
  lkcount : W64 := 0#64
  vibase : W64 := 0#64
  excur : Nat := 0
  evt : W64 := 0#64
  /-- FLOOR by 5 die + tier, FFAB by port. -/
  floors : Map W64 := []
  ffab : Map W64 := []
  /-- Lowered floors whose old charges are outstanding (FPEND): resource and epoch (R346). -/
  fpend : List (Resource × Nat) := []
  epoch : Nat := 0
  /-- PART: bit 2 n + s. -/
  part : BitVec 1440 := 0#1440
  ledger : List Charge := []
  vac : Option Vacate := none
  image : Option Image := none
  /-- Scheduler block. -/
  quota : W64 := 0#64
  bal : Int := 0
  prio : W64 := 0#64
  minrun : W64 := 100#64
  qtbase : W64 := 0#64
  qcount : W64 := 0#64
  cntbase : W64 := 0#64
  poolmax : W64 := 64#64
  debt : Map Nat := []
  /-- `%gtime` at which it last became RUNNING. -/
  runSince : Nat := 0
  slotWant : Bool := false
  /-- Translation block. -/
  sdaddr : W64 := 0#64
  sdlen : W64 := 0#64
  sdbusy : Bool := false
  sddone : Bool := false
  shoots : List Shoot := []
  htbase : W64 := 0#64
  htsize : W64 := 0#64
  hthead : Nat := 0
  htmin : W64 := 1#64
  migpol : W64 := 0#64
  htovf : Nat := 0
  pages : List PageHist := []
  /-- Fault block. -/
  fq : Ring := {}
  eq : Ring := {}
  ivec : W64 := 0#64
  /-- Pages with an unresolved record, with the access code. -/
  pfRecs : List Nat := []
  /-- PFDONE writes held while the context is off the machine (R399). -/
  pfHeld : List W64 := []
  /-- A locket frame's page is missing: issue is stopped (R399). -/
  lkFault : Option Nat := none
  /-- Interrupts raised: the rings advanced since the last reading (R401). -/
  irq : Nat := 0
  /-- COMMBASE. -/
  commbase : W64 := 0#64
  /-- Instances started, and the order number of the last chunk sent, by communicator. -/
  commSeq : Map Nat := []
  commLast : Map Nat := []
  /-- FREED as last notified by each peer, by 256 communicator + rank (R421). -/
  notified : Map Nat := []
  /-- Debug block. -/
  dbgctl : W64 := 0#64
  dq : Ring := {}
  sq : Ring := {}
  speriod : W64 := 0x14000#64
  wpa : Map W64 := []
  wpl : Map W64 := []
  targets : Map Target := []
  hits : List Hit := []
  /-- The turret. -/
  queues : Map Queue := []
  graphs : Map Graph := []
  /-- Phases that are open, by phase + 256 job + 2^14 n, and jobs, by job + 64 n: a graph opened after the last one of a phase starts
  the phase anew. -/
  phaseEnds : Map Stage := []
  jobEnds : Map Stage := []
  nextLid : Nat := 1
  deriving DecidableEq, Repr

/-! ## Memory system (04, 24, 25) -/

/-- A TLB (R377): the L1 TLB of a core, or the L2 TLB of a die. -/
inductive TlbUnit where
  | core (n : Nat)
  | die (n : Nat)
  deriving DecidableEq, Repr

/-- A TLB entry (R377): the TLB that holds it, the context, the virtual base, whether the page is large, and the leaf. -/
structure TlbEntry where
  unit : TlbUnit := .core 0
  ctx : Nat := 0
  va : Nat := 0
  large : Bool := false
  leaf : W64 := 0#64
  deriving DecidableEq, Repr

/-- A line of a stack cache (R77): one private word of the 32 lanes of a group. -/
structure StackLine where
  core : Nat := 0
  ctx : Nat := 0
  group : Nat := 0
  off : Nat := 0
  backing : Nat := 0
  data : List W32 := []
  dirty : W32 := 0#32
  used : Nat := 0
  /-- A write-back of it failed: its page is missing or cannot be written. -/
  stuck : Bool := false
  /-- A PFDONE or a shootdown has come since: the write-back is tried again (R77). -/
  again : Bool := false
  /-- Lanes whose word was filled from a line with uncorrectable data and not written since (R395, R406). -/
  bad : W32 := 0#32
  deriving DecidableEq, Repr

/-- A line of the L1 data cache of a core (R9, R350): a context's copy of 128 bytes of memory, by address / 128. -/
structure L1Line where
  core : Nat := 0
  ctx : Nat := 0
  line : Nat := 0
  data : List Byte := []
  deriving DecidableEq, Repr

/-- A line that the L2 cache of a die holds (R9, R94): the L2 is the home of HBM4 and LPDDR lines, so its data are those
of memory. -/
structure L2Line where
  die : Nat := 0
  line : Nat := 0
  deriving DecidableEq, Repr

/-- Something done in the present arithmetic tick that the order of R30, R134, R351, R362 and R367 within a tick looks at. -/
inductive Mark where
  /-- A context has been charged by the issuer with this place in the order of R134. -/
  | charged (c key : Nat)
  /-- The dispenser of a launch has served the requester with this place in the order of R30. -/
  | served (l key : Nat)
  /-- A scalar pipe of a quadrant has issued an instruction (R367). -/
  | scalar (core quad : Nat)
  /-- A wait packet has been satisfied by what its word, at this address, held (R362). -/
  | waited (pa : Nat)
  /-- A write of VBREQ has raised VBCUR of a context; what it was before (R351). -/
  | vbcur (c old : Nat)
  /-- A VACATE of a context has been accepted (R351). -/
  | vacated (c : Nat)
  deriving DecidableEq, Repr

/-- A range of physical addresses and the memory behind it: memory type (R79), die, stack or channel (R13). -/
structure Region where
  base : Nat := 0
  size : Nat := 0
  typ : Nat := 0
  die : Nat := 0
  unit : Nat := 0
  deriving DecidableEq, Repr

/-- One page of a move (R381, R385): its virtual base, source and destination frames, the leaf read at the start, the
leaf to write. -/
structure MovePage where
  va : Nat := 0
  src : Nat := 0
  dst : Nat := 0
  leaf : W64 := 0#64
  leafAt : Nat := 0
  newLeaf : W64 := 0#64
  deriving DecidableEq, Repr

/-- Where a move record stands (R381, R384, R390). -/
inductive MovePhase where
  | copying
  /-- Copying back after an abort, with the CAUSE of R386. -/
  | copyBack (cause : Nat)
  /-- Leaves written; waiting for the shootdown. -/
  | forwarding
  deriving DecidableEq, Repr

/-- A move record (R381): one page, or the two of a swap pair; the lines of each; how many are done, in ascending
order; whether the line lock of the next is held. -/
structure Move where
  ctx : Nat := 0
  pgs : List MovePage := []
  lines : Nat := 512
  done : Nat := 0
  locked : Bool := false
  phase : MovePhase := .copying
  /-- The command's ring index, or none for an automatic choice; an EVACUATE's index where `evac` holds. -/
  cmd : Option Nat := none
  evac : Bool := false
  /-- An abort asked for, with its CAUSE. -/
  abort : Option Nat := none
  /-- The ABORT commands that wait for the copy-back. -/
  abortCmds : List Nat := []
  shootsLeft : Nat := 0
  deriving DecidableEq, Repr

/-- An evacuation in progress (R392). -/
structure Evac where
  cmd : Nat := 0
  stack : Nat := 0
  frames : List Nat := []
  deriving DecidableEq, Repr

/-- A shadow's state (R347). -/
inductive Shadow where
  | empty
  | spilling (ctx : Nat)
  | filling (ctx : Nat)
  | loaded (ctx : Nat)
  deriving DecidableEq, Repr

/-! ## Fabric (26) -/

/-- A request that has arrived and waits on a virtual channel (R412, R418, R419). -/
structure FReq where
  op : Nat := 0
  src : Nat := 0
  e2e : Nat := 0
  addr : Nat := 0
  arg : Nat := 0
  data : List Byte := []
  deriving DecidableEq, Repr

/-- A fabric port (R411 to R415, R419). -/
structure Port where
  up : Bool := false
  en : Bool := false
  /-- Next SEQ to send, next SEQ expected. -/
  txSeq : Nat := 0
  rxSeq : Nat := 0
  /-- Flits not acknowledged, oldest first: the first 1,024 have been sent and lie in the replay buffer, the rest wait for room
  (R413). -/
  replay : List (List Byte) := []
  resends : Nat := 0
  retraining : Bool := false
  /-- Bytes of packets that have arrived and are not whole yet, by VC. -/
  partial_ : Map (List Byte) := []
  /-- Arrived requests by VC, in arrival order. -/
  rx : Map (List FReq) := []
  /-- VCs paused here, each with the page and context awaited. -/
  paused : Map (Nat × Nat) := []
  /-- Sending resources paused by the far end (R141, R419), with the time of the notice. -/
  txPaused : Map Nat := []
  /-- NAK owed to the far end. -/
  nak : Bool := false
  /-- The far end has asked for the flits after its last good one (R413). -/
  resend : Bool := false
  deriving DecidableEq, Repr

/-- A request sent end to end and not acknowledged (R414). -/
structure Sent where
  dst : Nat := 0
  vc : Nat := 0
  e2e : Nat := 0
  port : Nat := 0
  req : FReq := {}
  /-- The instance and the chunk it carries, for a chunk write. -/
  coll : Option (Nat × Nat × Nat) := none
  deriving DecidableEq, Repr

/-! ## Clocks, management, debugging (28, 29) -/

/-- The clock of a die (R447, R448): the frequency, the two step registers, the relock in progress and the requests. -/
structure DieClock where
  cfreq : Nat := 1200
  cstepG : Nat := 0
  cstepC : Nat := 0
  /-- The `%gtime` at which a relock stopped the clock, and the frequency to come. -/
  relock : Option (Nat × Nat) := none
  /-- The end of the last relock. -/
  lastEnd : Option Nat := none
  /-- The requested frequency that waits. -/
  want : Option Nat := none
  ceiling : Nat := 1800
  stopped : Bool := false
  deriving DecidableEq, Repr

/-- A tagged instruction (R441, R442): what its record says of it, and the range of operation numbers it created. -/
structure SampleTag where
  ctx : Nat := 0
  group : Nat := 0
  lid : Nat := 0
  gid : Nat := 0
  lane : Bool := false
  trapped : Bool := false
  time : Nat := 0
  pc : Nat := 0
  lpos : Nat := 0
  word : Nat := 0
  mask : W32 := 0#32
  rgn : W64 := 0#64
  lo : Nat := 0
  hi : Nat := 0
  deriving DecidableEq, Repr

/-- A sampler of a quadrant scheduler (R441): its LFSR, the tick at which its countdown reaches 0, the context it last
tagged, whether it tags the next instruction, the live tag. -/
structure Sampler where
  lfsr : W32 := 0#32
  due : Nat := 0
  ctx : Option Nat := none
  armed : Bool := false
  tag : Option SampleTag := none
  deriving DecidableEq, Repr

/-- The corrections of a die and location code (R404): all of them, those of the present 1,000,000 ns, when that interval
began, whether its record has been posted. -/
structure Corrections where
  total : Nat := 0
  start : Nat := 0
  n : Nat := 0
  posted : Bool := false
  deriving DecidableEq, Repr

/-- A response of the sideband port (R452): the status and the words answered. -/
structure Reply where
  status : Nat := 0
  words : List Nat := []
  deriving DecidableEq, Repr

/-- What the model does next: the agent of the next step. Not part of the device: it stands for the order and the
timing in which the device's agents happen to move, which the spec leaves open. -/
inductive Turn where
  /-- The scalar thread of a group executes one instruction. -/
  | scalar (g : Nat)
  /-- One step of an engine, of firmware, of a controller or of the outside. -/
  | event (i : Instr)
  /-- Time passes: this many arithmetic ticks. -/
  | elapse (n : Nat)
  /-- One part of an access in flight is performed before the rest. -/
  | part (g id k : Nat)
  /-- A TLB drops an entry by its own choice (R377). -/
  | tlbDrop (k : Nat)
  /-- A group that sleeps on a word is saved to its locket (R35). -/
  | park (g : Nat)
  /-- The L1 cache of a core takes a copy of a line of memory for a context (R9). -/
  | cacheFill (core c pa : Nat)
  /-- The L1 cache of a core drops a context's copy of a line. -/
  | cacheDrop (core c line : Nat)
  /-- One part of a load in flight is served from the L1 cache of its core. -/
  | cacheHit (g id k : Nat)
  /-- The loader, outside the device, has linked an image at a descriptor of a context, with places for its copies (R168 to
  R175). -/
  | load (c kdesc : Nat) (im : LinkedImage)
  /-- Another device that shares a pooled page asks for a move of it; the page's home controller keeps the count (R389). -/
  | otherStart (c va : Nat)
  /-- An agent outside the core's groups writes bytes to memory: the host, a device behind the host link (R82). -/
  | hostWrite (pa : Nat) (bs : List Byte)
  /-- An error appears in a line of memory (R406). -/
  | lineError (pa : Nat)
  /-- An error is corrected at a die and location code (R404). -/
  | corrected (die loc : Nat)
  /-- A second mod-3 mismatch in an instruction's result: the group's register entry (R405). -/
  | laneError (g key : Nat)
  /-- A second mod-3 mismatch in a tile operation that runs: the element (R405). -/
  | tileError (k e : Nat)
  /-- An uncorrectable error appears in an SRAM entry (R406), by its location code: a scratch word (5), a scalar register of
  group g (6), a tile element (7). -/
  | sramError (loc g key : Nat)
  /-- A fabric peer's memory changes by its own action. -/
  | peerWrite (fa : Nat) (bs : List Byte)
  /-- Step 4 of bring-up finds an item faulty, or trains it in part only: a core, a die, a stack or an LPDDR channel by its kind
  0 to 3 (R446). -/
  | faulty (kind n : Nat)
  /-- The step of bring-up that is under way fails (R446). -/
  | bootFails
  deriving DecidableEq, Repr

/-- The state of the device. -/
structure State where
  /-- `%atick`. -/
  atick : Nat := 0
  /-- Time since reset in units of 1/(17 * 10^9) ns; `%gtime` is its whole nanoseconds (R11, R450). -/
  gunits : Nat := 0
  /-- Rate trim of `%gtime` in parts per billion. -/
  trim : Int := 0
  /-- The nine dies' control clocks; unlisted dies are as at reset. -/
  clocks : Map DieClock := []
  /-- Bytes of memory by physical address; an unlisted byte reads 0. -/
  mem : List Host.Cell := []
  /-- The physical map. -/
  regions : List Region := []
  tlb : List TlbEntry := []
  /-- The L1 data caches of the cores and the L2 caches of the dies (R9). -/
  l1 : List L1Line := []
  l2 : List L2Line := []
  /-- What has been done in the present arithmetic tick. -/
  marks : List Mark := []
  /-- The tick from which a quadrant may issue its next lane instruction (R217, R367), by 4 core + quadrant. -/
  quadFree : Map Nat := []
  /-- The loader's linked images, by 2^57 context + descriptor address (R168 to R170). -/
  images : Map LinkedImage := []
  /-- Scratchpad bytes by 524,288 core + 8,192 bank + 4 row + byte (R70); unlisted bytes are 0. -/
  scratch : Map Byte := []
  /-- Scratch words (by key / 4) whose error bit is set. -/
  scrErr : List Nat := []
  /-- The context whose values stand in the scratch of a slot (R18), by 2 core + slot. -/
  scrOwner : Map Nat := []
  /-- Tile elements by 65,536 (2 core + slot) + 4,096 z + element; in wide mode z16 to z31 are slot 1's z0 to z15. -/
  tiles : Map W32 := []
  /-- Tile elements whose error bit is set. -/
  tileErr : List Nat := []
  stack : List StackLine := []
  /-- Error tables: lines and frames recorded as uncorrectable (R391, R406), by address / 128 and / 65,536. -/
  errLines : List Nat := []
  errFrames : List Nat := []
  /-- Controllers in the contained state, as (memory type, die). -/
  contained : List (Nat × Nat) := []
  /-- Corrections counted, by 8 die + location code (R404). -/
  corrected : Map Corrections := []
  /-- Memory of fabric peers by fabric address; pages (fa / 65,536) that answer with an error. -/
  peerMem : List Host.Cell := []
  peerErr : List Nat := []
  ctxs : Map Ctx := []
  launches : Map Launch := []
  blocks : Map Block := []
  groups : Map Group := []
  copies : Map Copy := []
  tileOps : Map TileOp := []
  /-- The queues of the array halves, by 2 core + half: operation numbers, oldest first. -/
  halves : Map (List Nat) := []
  colls : Map Coll := []
  slotChunks : List SlotChunk := []
  failNotes : List FailNote := []
  shadows : Map Shadow := []
  /-- Retired cores, dies and stacks; LPDDR channels retired at training. -/
  retCores : List Nat := []
  retDies : List Nat := []
  retStacks : List Nat := []
  retChans : List Nat := []
  /-- The step of bring-up that has failed, as Bervos reports it (R446). -/
  bootFail : Option Nat := none
  /-- Retirements accepted and not done: (kind, number). -/
  retiring : List (Nat × Nat) := []
  /-- Migration engine. -/
  mqbase : W64 := 0#64
  mqsize : W64 := 0#64
  mqtail : W64 := 0#64
  mqhead : Nat := 0
  moves : Map Move := []
  evacs : List Evac := []
  /-- Hotness counters by frame (address / 65,536). -/
  hot : Map Nat := []
  /-- Stacks in thermal self-refresh, with the start (R407). -/
  refresh : Map Nat := []
  /-- Device fabric block. -/
  devid : W64 := 0#64
  expbase : W64 := 0#64
  expsize : W64 := 0#64
  rtbase : W64 := 0#64
  ports : Map Port := []
  sent : List Sent := []
  e2eNext : Map Nat := []
  /-- Last request sequence number delivered, by 16 source + VC (R414). -/
  e2eSeen : Map Nat := []
  /-- Excursions over and not yet counted: the context, the start, the end (R141, R354). -/
  excursions : List (Nat × Nat × Nat) := []
  /-- The contexts that an interval now running touches (R141): its resource, its stack (0 for a channel), the context. -/
  touched : List (Resource × Nat × Nat) := []
  /-- The belfry's device queue (R400). -/
  devq : Ring := {}
  devIvec : W64 := 0#64
  devIrq : Nat := 0
  samplers : Map Sampler := []
  /-- Bring-up: the step of R446 reached; 6 is up. -/
  boot : Nat := 0
  /-- The host link now, and at the next reset (R426, R452). -/
  hostlink : Option Nat := none
  hostNext : Option Nat := none
  /-- Bervos flash: retired items, firmware banks; its log of records and its last reply. -/
  flash : List (Nat × Nat) := []
  fwActive : List Byte := []
  fwNext : List Byte := []
  bervosLog : List (List Byte) := []
  reply : Reply := {}
  /-- Measured power and temperature of the dies, in the units of the telemetry, by die. -/
  telem : Map Nat := []
  /-- The next `%gtime` at which tokens are debited, refilled and hotness is reported, in microseconds. -/
  nextDebit : Nat := 1
  nextRefill : Nat := 100
  nextHot : Nat := 1000
  /-- The order in which work was created, for choices by age. -/
  clock : Nat := 0
  /-- The model's own: what moves next, the group the step is about, the counter of free values, and the lane
  instruction being executed. -/
  agenda : List Turn := []
  /-- Turns taken without an agenda. -/
  turnNo : Nat := 0
  cur : Nat := 0
  freeCtr : Nat := 0
  deriving DecidableEq, Repr

/-- Why the machine stops with a fault. -/
inductive Fault where
  /-- A step names a group, launch or engine operation that does not exist: raised by a meaning when the agenda names an
  agent the machine does not have. Safe: the machine has no such step. -/
  | noSuchAgent
  deriving DecidableEq, Repr

/-- Why the model gives no next state. -/
inductive Refusal where
  /-- The instruction has no meaning yet: raised by an arm of exec alone. Safe: nothing can be proved of it. -/
  | notModelled (mnemonic : String)
  deriving DecidableEq, Repr

/-- The die of each HBM4 stack (R13). -/
def stackDies : List Nat := [0, 0, 1, 2, 2, 3, 5, 6, 6, 7, 8, 8]

/-- The die of each group of three LPDDR channels (R13). -/
def lpddrDies : List Nat := [0, 1, 2, 3, 5, 6, 7, 8]

/-- The physical map of the model. The spec's programs place one HBM4 page at 0x0100_6000_0000 (20) and die 0's dome page
at 0x0300_0000_0000 (21); everything else is a DESIGN CHOICE that agrees with them (log entry 14). Stack k at 2^40 + 2^36 k,
the dome of die k at 3 * 2^40 + 2^27 k, LPDDR channel k at 2^42 + 2^36 k, CXL memory from 2^43 and host
memory from 2^45 on. -/
def resetRegions : List Region :=
  (List.range 12).map (fun k => ⟨2 ^ 40 + 2 ^ 36 * k, 2 ^ 36, 0, stackDies.getD k 0, k⟩) ++
  (List.range 24).map (fun k => ⟨2 ^ 42 + 2 ^ 36 * k, 2 ^ 36, 1, lpddrDies.getD (k / 3) 0, k⟩) ++
  [⟨2 ^ 43, 2 ^ 44, 2, 4, 0⟩, ⟨2 ^ 45, 2 ^ 45, 3, 4, 0⟩] ++
  (List.range 9).map (fun k => ⟨3 * 2 ^ 40 + 2 ^ 27 * k, 2 ^ 27, 5, k, k⟩)

/-- The device right after reset (29 R446): nothing is up, every context is FREE, every register holds its reset
value, no memory is listed. -/
def State.reset : State := { regions := resetRegions }

end Sys2Proof.Machine
end

