-- ==== Sys2Proof/Machine/Mem.lean ====
section
/-!
DEFINITION. Memory as bytes, the physical map, page tables, the TLB, pages in motion, error tables (00 R1, 24 R373 to
R385, 25 R406).
-/
namespace Sys2Proof.Machine

/-! ## Bytes -/

/-- What an unlisted byte of memory reads as. DESIGN CHOICE. -/
def memDefault : Byte := 0#8

/-- The canonical form of a memory: addresses strictly rising, no entry equal to what an unlisted byte reads as. -/
def Memory.wf (m : List Host.Cell) : Bool := Map.wf memDefault m

/-- One byte of memory. -/
def getByte (m : List Host.Cell) (a : Nat) : Byte := Map.get memDefault m a

/-- One byte written. -/
def setByte (m : List Host.Cell) (a : Nat) (b : Byte) : List Host.Cell := Map.set memDefault m a b

/-- The n bytes from an address up. -/
def getBytes (m : List Host.Cell) (a : Nat) : Nat → List Byte
  | 0 => []
  | n + 1 => getByte m a :: getBytes m (a + 1) n

/-- Bytes written from an address up. -/
def setBytes (m : List Host.Cell) (a : Nat) : List Byte → List Host.Cell
  | [] => m
  | b :: t => setBytes (setByte m a b) (a + 1) t

/-- A little-endian number of n bytes (R1). -/
def getLE (m : List Host.Cell) (a n : Nat) : Nat := leNat (getBytes m a n)

/-- A number written as n little-endian bytes. -/
def setLE (m : List Host.Cell) (a n x : Nat) : List Host.Cell := setBytes m a (leBytes n x)

/-- Time in whole nanoseconds: `%gtime` (R11). -/
def State.gtime (s : State) : Nat := s.gunits / 17000000000

/-! ## The physical map -/

/-- The region of a physical address. -/
def State.region (s : State) (pa : Nat) : Option Region :=
  s.regions.find? (fun r => decide (r.base ≤ pa) && decide (pa < r.base + r.size))

/-- The die whose controller or port serves an address of a memory type (R128): CXL and host pages are served at
die 4. -/
def State.dieOf (s : State) (typ pa : Nat) : Nat :=
  if typ = 2 ∨ typ = 3 then 4
  else match s.region pa with
    | some r => r.die
    | none => 0

/-- The memory type of the tier an address lies in. -/
def State.typOf (s : State) (pa : Nat) : Nat :=
  match s.region pa with
  | some r => r.typ
  | none => 3

/-- The HBM4 stack of an address, if it lies in one. -/
def State.stackOf (s : State) (pa : Nat) : Option Nat :=
  match s.region pa with
  | some r => if r.typ = 0 then some r.unit else none
  | none => none

/-! ## Page tables (R373 to R375) -/

/-- A leaf found by a walk (R374): the entry, where it lies, the size of the page. -/
structure Leaf where
  bits : W64
  at_ : Nat
  large : Bool
  deriving DecidableEq, Repr

/-- TYPE of a leaf. -/
def leafType (w : W64) : Nat := bits w.toNat 61 59
/-- PRD of a leaf. -/
def leafRd (w : W64) : Bool := w.getLsbD 58
/-- PWR of a leaf. -/
def leafWr (w : W64) : Bool := w.getLsbD 57
/-- PAT of a leaf. -/
def leafAt (w : W64) : Bool := w.getLsbD 56
/-- PIN of a leaf. -/
def leafPin (w : W64) : Bool := w.getLsbD 55
/-- GEN of a leaf. -/
def leafGen (w : W64) : Nat := bits w.toNat 15 0
/-- The frame of a leaf. -/
def leafFrame (w : W64) : Nat := bits w.toNat 51 16 * 65536
/-- The size of a page. -/
def pageSize (large : Bool) : Nat := if large then 2 ^ 21 else 2 ^ 16
/-- The base of the page of an address. -/
def pageBase (large : Bool) (va : Nat) : Nat := va / pageSize large * pageSize large

/-- What a walk finds (R375). -/
inductive Walk where
  | leaf (l : Leaf)
  | absent
  | malformed
  deriving DecidableEq, Repr

/-- A leaf has no reserved pattern: reserved bits, reserved TYPE, GEN 0 (R374, R375). -/
def leafOk (w : W64) (large : Bool) : Bool :=
  bits w.toNat 54 52 == 0 && decide (leafType w < 6) && leafGen w != 0 && (!large || bits w.toNat 20 16 == 0)

/-- A non-leaf entry has no reserved pattern, and the next table is aligned: 256 bytes for level 0, else 4 KiB. -/
def tableOk (w : W64) (nextLevel : Nat) : Bool :=
  bits w.toNat 62 52 == 0 && bits w.toNat 7 0 == 0 && (nextLevel == 0 || bits w.toNat 11 8 == 0)

/-- The walk from a table of a level down (R373). -/
def walkFrom (m : List Host.Cell) (va : Nat) : Nat → Nat → Walk
  | 0, table =>
    let a := table + 8 * bits va 20 16
    let w := BitVec.ofNat 64 (getLE m a 8)
    if w.getLsbD 63 = false then .absent
    else if w.getLsbD 62 && leafOk w false then .leaf ⟨w, a, false⟩ else .malformed
  | level + 1, table =>
    let a := table + 8 * (va / 2 ^ (21 + 9 * level) % 512)
    let w := BitVec.ofNat 64 (getLE m a 8)
    if w.getLsbD 63 = false then .absent
    else if w.getLsbD 62 then
      if level = 0 ∧ leafOk w true = true then .leaf ⟨w, a, true⟩ else .malformed
    else if tableOk w level then walkFrom m va level (bits w.toNat 51 8 * 256)
    else .malformed

/-- A context's registers. -/
def State.ctx (s : State) (c : Nat) : Ctx := Map.get {} s.ctxs c

/-- A walk of a context's page table (R373). -/
def State.walk (s : State) (c va : Nat) : Walk :=
  if 0x1FE ≤ va / 2 ^ 48 then .absent else walkFrom s.mem va 4 (s.ctx c).ptroot.toNat

/-- The TLB entry of a TLB that covers an address (R377). -/
def State.tlbFind (s : State) (u : TlbUnit) (c va : Nat) : Option TlbEntry :=
  s.tlb.find? (fun e => e.unit == u && e.ctx == c && pageBase e.large va == e.va)

/-- The TLB behind a TLB: the L2 TLB of a core's die (R377, R7). -/
def TlbUnit.behind : TlbUnit → TlbUnit
  | .core n => .die (n / 80)
  | .die n => .die n

/-- The translation of an address at a TLB: an entry of it or of the TLB behind it where one is held, else a walk (R377). -/
def State.xlate (s : State) (u : TlbUnit) (c va : Nat) : Walk :=
  match s.tlbFind u c va, s.tlbFind u.behind c va with
  | some e, _ => .leaf ⟨e.leaf, 0, e.large⟩
  | none, some e => .leaf ⟨e.leaf, 0, e.large⟩
  | none, none => s.walk c va

/-- The TLBs after a translation: the device holds what it has walked, until a shootdown or its own choice (R377). -/
def State.tlbFill (s : State) (u : TlbUnit) (c va : Nat) : State :=
  match s.xlate u c va with
  | .leaf l =>
    let add (t : State) (v : TlbUnit) : State :=
      match t.tlbFind v c va with
      | some _ => t
      | none => { t with tlb := t.tlb ++ [⟨v, c, pageBase l.large va, l.large, l.bits⟩] }
    add (add s u.behind) u
  | _ => s

/-- The physical address an entry gives. -/
def leafPa (l : Leaf) (va : Nat) : Nat := leafFrame l.bits + va % pageSize l.large

/-! ## Pages in motion (R381 to R385) -/

/-- A virtual address lies in the page of a record. -/
def Move.covers (mv : Move) (p : MovePage) (va : Nat) : Bool := decide (p.va ≤ va) && decide (va < p.va + 128 * mv.lines)

/-- The page of a record that a request names: a page of it, a physical address in its source frame, and not the generation
of its new leaf (R382, R385). -/
def Move.pageFor (mv : Move) (c page gen pa : Nat) : Option MovePage :=
  if mv.ctx = c then
    mv.pgs.find? (fun p => mv.covers p page && decide (p.src ≤ pa) && decide (pa < p.src + 128 * mv.lines) && leafGen p.newLeaf != gen)
  else none

/-- The current home of a location: the address itself, or its place in the destination frame once its line has been
copied; from there a later record of the same page takes it on (R382). -/
def homeOf (c page gen pa : Nat) : Map Move → Nat
  | [] => pa
  | (_, mv) :: t =>
    match mv.pageFor c page gen pa with
    | some p => if (pa - p.src) / 128 < mv.done then homeOf c page (leafGen p.newLeaf) (p.dst + (pa - p.src)) t else pa
    | none => homeOf c page gen pa t

/-- The lock of the line of a location is held, at the home that it has now (R381, R382). -/
def lockedLine (c page gen pa : Nat) : Map Move → Bool
  | [] => false
  | (_, mv) :: t =>
    match mv.pageFor c page gen pa with
    | some p =>
      let n := (pa - p.src) / 128
      (mv.locked && n == (match mv.phase with | .copyBack _ => mv.done - 1 | _ => mv.done)) ||
        (decide (n < mv.done) && lockedLine c page (leafGen p.newLeaf) (p.dst + (pa - p.src)) t)
    | none => lockedLine c page gen pa t

/-- The location as the page's present leaf names it: in the new frame once a move has written its leaf (R384). -/
def leafNow (c page gen pa : Nat) : Map Move → Nat
  | [] => pa
  | (_, mv) :: t =>
    match mv.pageFor c page gen pa with
    | some p => if mv.phase = .forwarding then leafNow c page (leafGen p.newLeaf) (p.dst + (pa - p.src)) t else pa
    | none => leafNow c page gen pa t

/-- The page of a context is in motion: a record that is copying or copying back names it. -/
def State.inMotion (s : State) (c page : Nat) : Bool :=
  s.moves.any (fun kv => kv.2.ctx == c && kv.2.phase != .forwarding && kv.2.pgs.any (fun p => kv.2.covers p page))

/-! ## Error tables (R391, R406) -/

/-- A read of this line raises uncorrectable-data. -/
def State.lineBad (s : State) (pa : Nat) : Bool :=
  s.errLines.contains (pa / 128) || s.errFrames.contains (pa / 65536) ||
  s.contained.contains (s.typOf pa, s.dieOf (s.typOf pa) pa)

/-- Records a line in the table of its controller: 1,024 lines, then 256 frames, then the contained state (R406). -/
def State.recordLine (s : State) (pa : Nat) : State :=
  let ctl (a : Nat) : Nat × Nat := (s.typOf a, s.dieOf (s.typOf a) a)
  if s.lineBad pa then s
  else if (s.errLines.filter (fun l => ctl (l * 128) == ctl pa)).length < 1024 then { s with errLines := pa / 128 :: s.errLines }
  else if (s.errFrames.filter (fun f => ctl (f * 65536) == ctl pa)).length < 256 then { s with errFrames := pa / 65536 :: s.errFrames }
  else { s with contained := ctl pa :: s.contained }

/-- A write that covers a whole line, or a whole frame, clears its record (R406). -/
def State.clearLines (s : State) (pa n : Nat) : State :=
  { s with
    errLines := s.errLines.filter (fun l => !(decide (pa ≤ l * 128) && decide (l * 128 + 128 ≤ pa + n)))
    errFrames := s.errFrames.filter (fun f => !(decide (pa ≤ f * 65536) && decide (f * 65536 + 65536 ≤ pa + n))) }

/-- Bytes of physical memory written, with the clearing of error records. -/
def State.writeMem (s : State) (pa : Nat) (bs : List Byte) : State :=
  { s with mem := setBytes s.mem pa bs }.clearLines pa bs.length

/-- Bytes of physical memory read. -/
def State.readMem (s : State) (pa n : Nat) : List Byte := getBytes s.mem pa n

/-- A number in physical memory. -/
def State.readLE (s : State) (pa n : Nat) : Nat := getLE s.mem pa n

/-! ## Device structures at virtual addresses -/

/-- The physical address of a device structure of a context, at its current home (DEDUCED: the rings, tables and
words that registers and packets name lie in the context's address space). -/
def State.ctxPa (s : State) (c va : Nat) : Option Nat :=
  match s.walk c (va % 2 ^ 57) with
  | .leaf l =>
    let pa := leafPa l (va % 2 ^ 57)
    some (homeOf c (pageBase l.large (va % 2 ^ 57)) (leafGen l.bits) pa s.moves)
  | _ => none

/-- The fabric address of a byte whose page is a peer's (R79, R416). -/
def State.ctxPeer (s : State) (c va : Nat) : Option Nat :=
  match s.walk c (va % 2 ^ 57) with
  | .leaf l => if leafType l.bits = 4 then some (leafPa l (va % 2 ^ 57)) else none
  | _ => none

/-- The physical address of a byte on a page that a leaf maps, at its current home. -/
def State.leafHome (s : State) (c va : Nat) (l : Leaf) : Nat := homeOf c (pageBase l.large va) (leafGen l.bits) (leafPa l va) s.moves

/-- One byte of a context's memory, in the device or at a peer; a byte of a missing page reads 0. -/
def State.vByte (s : State) (c va : Nat) : Byte :=
  match s.walk c (va % 2 ^ 57) with
  | .leaf l => if leafType l.bits = 4 then getByte s.peerMem (leafPa l (va % 2 ^ 57)) else getByte s.mem (s.leafHome c (va % 2 ^ 57) l)
  | _ => 0#8

/-- Reads a little-endian number of a context's memory, byte by byte. -/
def State.vRead (s : State) (c va : Nat) : Nat → Nat
  | 0 => 0
  | n + 1 => (s.vByte c va).toNat + 256 * s.vRead c (va + 1) n

/-- One byte of a context's memory written; a byte of a missing page is not. -/
def State.vPut (s : State) (c va : Nat) (b : Byte) : State :=
  match s.walk c (va % 2 ^ 57) with
  | .leaf l =>
    if leafType l.bits = 4 then { s with peerMem := setByte s.peerMem (leafPa l (va % 2 ^ 57)) b }
    else s.writeMem (s.leafHome c (va % 2 ^ 57) l) [b]
  | _ => s

/-- Bytes of a context's memory written one by one. -/
def State.vPutBytes (s : State) (c va : Nat) : List Byte → State
  | [] => s
  | b :: t => (s.vPut c va b).vPutBytes c (va + 1) t

/-- The records of the lines that a write of n bytes has covered whole are cleared (R391, R406), and those of whole frames. -/
def State.clearCovered (s : State) (c va n : Nat) : State :=
  if s.errLines.isEmpty && s.errFrames.isEmpty then s
  else
    let unit (z : Nat) (t : State) : State := (List.range (n / z)).foldl (fun t i =>
      let a := (va + z - 1) / z * z + z * i
      if a + z ≤ va + n then
        match t.ctxPa c a with
        | some pa => t.clearLines pa z
        | none => t
      else t) t
    unit 65536 (unit 128 s)

/-- Writes bytes of a context's memory; a byte of a missing page is not written. -/
def State.vWriteBytes (s : State) (c va : Nat) (bs : List Byte) : State :=
  (s.vPutBytes c va bs).clearCovered c va bs.length

/-- A byte of a range of a context's memory lies in a line recorded as uncorrectable (R406). -/
def State.vBad (s : State) (c va n : Nat) : Bool :=
  !(s.errLines.isEmpty && s.errFrames.isEmpty && s.contained.isEmpty) &&
  (List.range ((va % 128 + n + 127) / 128)).any (fun i =>
    if (s.ctxPeer c (va / 128 * 128 + 128 * i)).isSome then false
    else match s.ctxPa c (va / 128 * 128 + 128 * i) with
    | some pa => s.lineBad pa
    | none => false)

/-- Writes a number of n bytes in a context's memory. -/
def State.vWrite (s : State) (c va n x : Nat) : State := s.vWriteBytes c va (leBytes n x)

/-- Every byte of a range of a context's memory is mapped. -/
def State.vMapped (s : State) (c va : Nat) : Nat → Bool
  | 0 => true
  | n + 1 => (s.ctxPa c va).isSome && s.vMapped c (va + 1) n

end Sys2Proof.Machine
end

