-- ==== Sys2Proof/Machine/Ops.lean ====
section
/-!
DEFINITION. The shared operations of the machine: groups and their registers, records to system software (25 R400 to
R402), the end and the cancel of launches (02 R33, R34, 23 R360, R363), taking a trap and returning from one (03 R57 to
R59, 25 R393 to R396), the frontier table (03 R43 to R55), the operation counters (05 R98), charges and the issue check
(08 R128 to R135).
-/
namespace Sys2Proof.Machine

/-- What a meaning answers. -/
abbrev Out := Host.Outcome State Fault Refusal

/-! ## The items of the state by number -/

/-- A group. -/
def State.grp (s : State) (g : Nat) : Group := Map.get {} s.groups g
/-- Puts a group. -/
def State.setGrp (s : State) (g : Nat) (x : Group) : State := { s with groups := s.groups.put g x }
/-- A launch. -/
def State.lau (s : State) (l : Nat) : Launch := Map.get {} s.launches l
/-- Puts a launch. -/
def State.setLau (s : State) (l : Nat) (x : Launch) : State := { s with launches := s.launches.put l x }
/-- A block. -/
def State.blk (s : State) (b : Nat) : Block := Map.get {} s.blocks b
/-- Puts a context's registers. -/
def State.setCtx (s : State) (c : Nat) (x : Ctx) : State := { s with ctxs := s.ctxs.put c x }
/-- A die's clock. -/
def State.clk (s : State) (d : Nat) : DieClock := Map.get {} s.clocks d
/-- The kernel descriptor of a group's launch (R172). -/
def State.kd (s : State) (x : Group) : KDesc := (s.lau x.launch).kd
/-- Groups per block N := g * span (R22, R76). -/
def KDesc.perBlock (k : KDesc) : Nat := k.g * 2 ^ k.spanCode
/-- The die of a core (R7). -/
def dieOfCore (core : Nat) : Nat := core / 80
/-- The next order number. -/
def State.tickClock (s : State) : State := { s with clock := s.clock + 1 }
/-- Takes a fresh free value: a value that nothing in the model fixes (00 R5). -/
def State.nextFree (s : State) : State := { s with freeCtr := s.freeCtr + 1 }

/-! ## Registers (R18, R143) -/

/-- Reads a scalar register; `s0` reads zero. -/
def Group.sr (x : Group) (r : Nat) : W64 := if r = 0 then 0#64 else Map.get 0#64 x.sreg r
/-- Writes a scalar register; a write to `s0` is discarded (R143). A write clears the error bit (R406). -/
def Group.setSr (x : Group) (r : Nat) (v : W64) : Group :=
  if r = 0 then x else { x with sreg := Map.set 0#64 x.sreg r v, serr := x.serr.filter (fun k => k != r) }
/-- Reads lane l of vector register k. -/
def Group.vr (x : Group) (k l : Nat) : W32 := Map.get 0#32 x.vreg (32 * k + l)
/-- Writes lane l of vector register k. A write clears the error bit (R406). -/
def Group.setVr (x : Group) (k l : Nat) (v : W32) : Group :=
  { x with vreg := Map.set 0#32 x.vreg (32 * k + l) v, verr := x.verr.filter (fun j => j != 32 * k + l) }
/-- Reads a mask; `m0` is the active mask. -/
def Group.mask (x : Group) (k : Nat) : W32 := if k = 0 then x.m0 else Map.get 0#32 x.masks k
/-- Writes a mask; `m0` is read-only (R17). -/
def Group.setMask (x : Group) (k : Nat) (v : W32) : Group := if k = 0 then x else { x with masks := Map.set 0#32 x.masks k v }
/-- Reads a window. -/
def Group.win (x : Group) (k : Nat) : Window := Map.get {} x.wins k
/-- Writes a window. -/
def Group.setWin (x : Group) (k : Nat) (w : Window) : Group := { x with wins := Map.set {} x.wins k w }
/-- The scalar registers are within the allocation (R143). -/
def Group.sOk (x : Group) (rs : List Nat) : Bool := rs.all (fun r => decide (r < 64 * x.salloc))
/-- The vector registers are within the allocation (R143). -/
def Group.vOk (x : Group) (rs : List Nat) : Bool := rs.all (fun r => decide (r < 8 * x.valloc))
/-- The lanes that `end` has not retired (R51). -/
def Group.unretired (x : Group) : W32 := ~~~ x.retired
/-- Passes to the next scalar instruction. -/
def Group.adv (x : Group) : Group := { x with pc := x.pc + 4#64 }
/-- The number of set bits of a mask. -/
def popMask (m : W32) : Nat := (List.range 32).countP (fun l => m.getLsbD l)
/-- The lanes of a mask, ascending. -/
def lanesOf (m : W32) : List Nat := (List.range 32).filter (fun l => m.getLsbD l)
/-- The mask of the lanes that satisfy a test. -/
def maskOf (p : Nat → Bool) : W32 :=
  BitVec.ofNat 32 ((List.range 32).foldl (fun a l => a + (if p l then 2 ^ l else 0)) 0)

/-- The block at the head of the queue; where there is none, a block that captures the running path. -/
def Group.head (x : Group) : LaneBlock :=
  match x.queue with
  | b :: _ => b
  | [] => { mask := x.m0, fmt := x.fmt, sigdim := x.sigdim, sigdepth := x.sigdepth, vpc := x.pc.toNat, stklim := x.stklim }

/-! ## Operation counters (R98) -/

/-- Operations in a counter. -/
def Group.count (x : Group) (cl : OpClass) : Nat := (x.ops.filter (fun e => e.cls == cl)).length

/-- Operations leave a counter in issue order within their class. -/
def leaveOps (blocked : List OpClass) : List OpEntry → List OpEntry
  | [] => []
  | e :: t =>
    if e.done && !blocked.contains e.cls then leaveOps blocked t
    else e :: leaveOps (e.cls :: blocked) t

/-- An operation enters its counter. -/
def Group.enter (x : Group) (cl : OpClass) (id : Nat) : Group := { x with ops := x.ops ++ [⟨id, cl, false⟩] }

/-- An operation is complete; it leaves once the older ones of its class have left. -/
def Group.finishOp (x : Group) (id : Nat) : Group :=
  { x with ops := leaveOps [] (x.ops.map (fun e => if e.id = id then { e with done := true } else e)) }

/-! ## Records to system software (R400 to R402) -/

/-- The 32 bytes of a record. -/
def record32 (kind code ctx lid gid time a0 a1 : Nat) : List Byte :=
  leBytes 2 kind ++ leBytes 1 code ++ leBytes 1 ctx ++ leBytes 2 lid ++ leBytes 2 gid ++ leBytes 8 time ++
    leBytes 8 a0 ++ leBytes 8 a1

/-- The ring after a record: HEAD advances; with SIZE = 0, and at every wrap, LOST counts (R387, R400). -/
def Ring.after (r : Ring) : Ring :=
  if r.size = 0#64 then { r with lost := r.lost + 1 }
  else { r with head := r.head + 1, lost := if r.size.toNat ≤ r.head then r.lost + 1 else r.lost }

/-- The address of the next record of a ring of n-byte records. -/
def Ring.slot (r : Ring) (n : Nat) : Nat := r.base.toNat + n * (r.head % r.size.toNat)

/-- The rings of a context. -/
inductive RingId where
  | fault | event | debug | sample
  deriving DecidableEq, Repr

/-- A ring of a context. -/
def Ctx.ring (x : Ctx) : RingId → Ring
  | .fault => x.fq | .event => x.eq | .debug => x.dq | .sample => x.sq

/-- Puts a ring of a context. -/
def Ctx.setRing (x : Ctx) : RingId → Ring → Ctx
  | .fault, r => { x with fq := r } | .event, r => { x with eq := r }
  | .debug, r => { x with dq := r } | .sample, r => { x with sq := r }

/-- The interrupt that an advance of a ring raises (R401, R431): bit k of the pending set. -/
def RingId.bit : RingId → Nat
  | .fault => 1 | .event => 2 | .debug => 4 | .sample => 8

/-- A record written to a ring of a context. -/
def State.postRing (s : State) (c : Nat) (q : RingId) (bs : List Byte) : State :=
  let x := s.ctx c
  let r := x.ring q
  let s1 := if r.size = 0#64 then s else s.vWriteBytes c (r.slot bs.length) bs
  let y := (s1.ctx c).setRing q r.after
  s1.setCtx c (if x.ivec.getLsbD 63 && r.size != 0#64 then { y with irq := y.irq ||| q.bit } else y)

/-- Bervos keeps the last 4,096 records (R452). -/
def State.logRecord (s : State) (bs : List Byte) : State :=
  { s with bervosLog := (s.bervosLog ++ [bs]).drop (s.bervosLog.length - 4095) }

/-- A record of the fault or the event queue. -/
def State.post (s : State) (c : Nat) (q : RingId) (kind code lid gid a0 a1 : Nat) : State :=
  let bs := record32 kind code c lid gid s.gtime a0 a1
  (s.postRing c q bs).logRecord bs

/-- A record of the device queue, whose ring lies at a physical address. -/
def State.postDev (s : State) (kind ctx a0 a1 : Nat) : State :=
  let r := s.devq
  let bs := record32 kind 0 ctx 0xFFFF 0xFFFF s.gtime a0 a1
  let s1 := if r.size = 0#64 then s else s.writeMem (r.slot 32) bs
  { s1 with devq := r.after, devIrq := if s.devIvec.getLsbD 63 && r.size != 0#64 then s1.devIrq ||| 1 else s1.devIrq }.logRecord bs

/-- A record that names a group. -/
def State.postGrp (s : State) (g : Nat) (q : RingId) (kind code a0 a1 : Nat) : State :=
  s.post (s.grp g).ctx q kind code (s.lau (s.grp g).launch).lid (s.grp g).gid a0 a1

/-! ## The end of a launch (R33, R360, R363) -/

/-- An atomic add to an `n64` of a context's memory. -/
def State.vAdd (s : State) (c va x : Nat) : State := s.vWrite c va 8 ((s.vRead c va 8 + x) % 2 ^ 64)

/-- A counter of the counter block incremented (R363). -/
def State.bump (s : State) (c off : Nat) : State := s.vAdd c ((s.ctx c).cntbase.toNat + off) 1

/-- A phase of a job's entry has completed (R361). -/
def State.jobStep (s : State) (c k : Nat) : State :=
  let x := s.ctx c
  let e := Map.get {} x.jobEnds k
  if e.n ≤ 1 ∧ e.last = true then (s.setCtx c { x with jobEnds := x.jobEnds.del k }).bump c (0x3800 + 8 * (k % 64))
  else s.setCtx c { x with jobEnds := x.jobEnds.put k { e with n := e.n - 1 } }

/-- A graph of a phase's entry has completed (R361). -/
def State.phaseStep (s : State) (c k : Nat) : State :=
  let x := s.ctx c
  let e := Map.get {} x.phaseEnds k
  if e.n ≤ 1 ∧ e.last = true then ((s.setCtx c { x with phaseEnds := x.phaseEnds.del k }).bump c (0x3000 + 8 * (k % 256))).jobStep c e.up
  else s.setCtx c { x with phaseEnds := x.phaseEnds.put k { e with n := e.n - 1 } }

/-- A launch of a graph has completed or been discarded (R361). -/
def State.graphStep (s : State) (c g : Nat) : State :=
  match Map.find (s.ctx c).graphs g with
  | some gr =>
    if gr.open_ then
      let gr1 := { gr with ended := gr.ended + 1 }
      let x := s.ctx c
      if gr1.ended < gr1.nl then s.setCtx c { x with graphs := x.graphs.put g gr1 }
      else ((s.setCtx c { x with graphs := x.graphs.put g { gr1 with open_ := false } }).bump c (0x1000 + 8 * g)).phaseStep c gr.stage
    else s
  | none => s

/-- The packet that became this object is complete (R357). -/
def Queue.finish (q : Queue) (index : Nat) : Queue :=
  { q with taken := q.taken.map (fun p => if p.index = index then { p with done := true } else p) }

/-- Marks a packet of a queue complete. -/
def State.finishPacket (s : State) (c q index : Nat) : State :=
  let x := s.ctx c
  s.setCtx c { x with queues := x.queues.put q ((Map.get {} x.queues q).finish index) }

/-- The status of a handle of a group. -/
def State.setHandle (s : State) (g seq status : Nat) : State :=
  match Map.find s.groups g with
  | some x =>
    match Map.find x.handles seq with
    | some h => s.setGrp g { x with handles := x.handles.put seq { h with status := status } }
    | none => s
  | none => s

/-- The end of a launch: its status word is written, its signal added, the counters advance, and its packet or the
handle that names it learns the status (R360, R363, R300). One that failed before it was placed counts toward its graph too:
DEDUCED (log 172), as R33 names the launches that have completed or been discarded, and R360 gives a failed one a completion. -/
def State.finishLaunch (s : State) (l word hstat : Nat) : State :=
  let x := s.lau l
  let s1 := s.vWrite x.ctx x.lr.status 8 word
  let s2 := if x.lr.sig = 0 then s1 else s1.vAdd x.ctx x.lr.sig x.lr.sigv
  let s3 := s2.bump x.ctx 0
  let s4 := if x.lr.graph = 0xFFFF then s3 else s3.graphStep x.ctx x.lr.graph
  let s5 := match x.queue with
    | some (q, i) => s4.finishPacket x.ctx q i
    | none => s4
  let s6 := match x.parent with
    | some (g, seq) => s5.setHandle g seq hstat
    | none => s5
  s6.setLau l { s6.lau l with phase := .finished }

/-- A launch fails before any block is placed (R360): FAILED and the cause alone. -/
def State.failLaunch (s : State) (l cause : Nat) : State :=
  (s.setLau l { s.lau l with fail := cause }).finishLaunch l (4 + 256 * cause) 3

/-- A launch discarded before any block is placed: DONE and CANCELLED (R360). -/
def State.discardLaunch (s : State) (l : Nat) : State := s.finishLaunch l 3 2

/-- The launch waits unplaced. -/
def Launch.unplaced (x : Launch) : Bool := x.phase == .unbound || x.phase == .bound

/-- The cancel of a launch (R33, R34): it takes effect at the dispenser; pending children are discarded; an unplaced
launch is discarded. -/
def State.cancelLaunch (s : State) (l : Nat) : State :=
  let s0 := s.setLau l { s.lau l with cancelled := true }
  let kids := s0.launches.filter (fun kv =>
    match kv.2.parent with
    | some (g, _) => kv.2.unplaced && (match Map.find s0.groups g with | some x => x.launch == l | none => false)
    | none => false)
  let s1 := kids.foldl (fun t kv => t.discardLaunch kv.1) s0
  if (s0.lau l).unplaced then s1.discardLaunch l else s1

/-! ## Taking a trap and returning from it (R57 to R59, R393 to R396) -/

/-- The cause codes of R394. -/
def cIllegal : Nat := 0x01
/-- register-range. -/
def cRange : Nat := 0x02
/-- illegal-convergence. -/
def cConv : Nat := 0x03
/-- malformed-operand. -/
def cMalf : Nat := 0x04
/-- format-invalid. -/
def cFmt : Nat := 0x05
/-- register-limit. -/
def cLimit : Nat := 0x06
/-- region-stack. -/
def cRegion : Nat := 0x07
/-- handle-invalid. -/
def cHandle : Nat := 0x08
/-- frontier-overflow. -/
def cFrontier : Nat := 0x09
/-- address-noncanonical. -/
def cNoncan : Nat := 0x10
/-- window-unset. -/
def cUnset : Nat := 0x11
/-- misaligned-access. -/
def cMisal : Nat := 0x12
/-- scratch-bound. -/
def cScr : Nat := 0x13
/-- stack-overflow. -/
def cStk : Nat := 0x14
/-- protection. -/
def cProt : Nat := 0x15
/-- page-not-resident. -/
def cPage : Nat := 0x16
/-- translation-malformed. -/
def cTrans : Nat := 0x17
/-- instruction-fetch. -/
def cFetch : Nat := 0x18
/-- copy-overlap. -/
def cOverlap : Nat := 0x19
/-- ordered-log-full. -/
def cLog : Nat := 0x1A
/-- uncorrectable-data. -/
def cData : Nat := 0x20
/-- vacate-bound. -/
def cVbound : Nat := 0x30
/-- vacate-toolarge. -/
def cVlarge : Nat := 0x31
/-- vacate-request. -/
def cVreq : Nat := 0x32
/-- user-trap. -/
def cUser : Nat := 0x40
/-- breakpoint. -/
def cBrk : Nat := 0x41
/-- double-fault. -/
def cDouble : Nat := 0x50

/-- The rank of a cause among those of one instruction. -/
def causeRank (c : Nat) : Nat :=
  if c = cNoncan then 1 else if c = cUnset then 2 else if c = cMisal then 3 else if c = cScr ∨ c = cStk then 4
  else if c = cTrans then 5 else if c = cProt then 6 else if c = cMalf then 7 else if c = cLog then 8 else 9

/-- The cause that ranks first. -/
def firstCause (cs : List Nat) : Nat :=
  match cs with
  | [] => 0
  | c :: t => t.foldl (fun b d => if causeRank d < causeRank b then d else b) c

/-- A group is stopped (R396): it issues nothing more and counts as ended; a group-stopped record is posted and the
launch is cancelled, to fail with CAUSE 4. -/
def State.stopGroup (s : State) (g code : Nat) (f : W32) : State :=
  let x := s.grp g
  let s1 := s.postGrp g .fault 2 code x.pc.toNat f.toNat
  let s2 := s1.setGrp g { x with residence := .ended, stopped := true, queue := [], wait := .none, unit := none, lut := [] }
  (s2.setLau x.launch { s2.lau x.launch with fail := if (s2.lau x.launch).fail = 0 then 4 else (s2.lau x.launch).fail }).cancelLaunch x.launch

/-- The word of `%tcause` (R393). -/
def tcauseWord (code arg : Nat) : W32 := BitVec.ofNat 32 (arg * 65536 + code)

/-- What a trap takes: its cause, the lanes F, the block whose `pos` is that of the faulting lane instruction I (none
for a cause of a scalar instruction), whether it concerns the whole group, and the queue that becomes held. -/
structure TrapArgs where
  code : Nat
  arg : Nat := 0
  f : W32
  i : Option LaneBlock := none
  whole : Bool := false
  held : List LaneBlock := []
  deriving DecidableEq, Repr

/-- The group on the handler path (R57, steps 4 to 6): the record holds the interrupted path; the handler starts with
`m0` = F, `%fmt` unchanged and an empty lane queue. -/
def Group.enterHandler (x : Group) (t : TrapArgs) (k : HandlerKind) (vector : Nat) : Group :=
  { x with
    trap := some { pc := x.pc, m0 := x.m0, fmt := x.fmt, f := t.f, held := t.held, i := t.i, whole := t.whole,
                   tcause := tcauseWord t.code t.arg, handler := k }
    pc := BitVec.ofNat 64 vector, m0 := t.f, queue := [], replay := none, wait := .none }

/-- TAKING A TRAP (R57, R58, R396): inside a live handler the group stops with double-fault; with no trap vector it is
stopped with the cause; otherwise the record is formed and the handler path starts. -/
def State.takeTrap (s : State) (g : Nat) (t : TrapArgs) : State :=
  let x := s.grp g
  if x.trap.isSome then s.stopGroup g cDouble t.f
  else if (s.kd x).trapv = 0xFFFFFFFF then s.stopGroup g t.code t.f
  else s.setGrp g (x.enterHandler t .trap (s.kd x).trapv)

/-- A cause of a scalar instruction: F = `m0`, I = none; every queued lane instruction is held (R57). -/
def State.trapGroup (s : State) (g code : Nat) (arg : Nat := 0) : State :=
  s.takeTrap g { code := code, arg := arg, f := (s.grp g).m0, whole := true, held := (s.grp g).queue }

/-- A cause of the lane instruction at the head of the queue, for the lanes f (R57). -/
def State.trapLanes (s : State) (g code : Nat) (f : W32) (whole : Bool := false) : State :=
  let x := s.grp g
  match x.queue with
  | b :: rest => s.takeTrap g { code := code, f := f, i := some b, whole := whole, held := rest }
  | [] => s.trapGroup g code

/-! ## The frontier table (R43 to R55) -/

/-- May this entry be chosen (R43, R58)? -/
def Group.eligible (x : Group) (e : FEntry) : Bool := e.kind == .ordinary && (x.trap.isNone || e.hnd)

/-- The index of the entry with the lowest ADDR among those that satisfy a test. -/
def lowestEntry (p : FEntry → Bool) (fs : List FEntry) : Option Nat :=
  let go := (List.range fs.length).foldl (fun (best : Option (Nat × Nat)) i =>
    let e := fs.getD i {}
    if p e then
      match best with
      | some (_, a) => if e.addr < a then some (i, e.addr) else best
      | none => some (i, e.addr)
    else best) none
  go.map (fun b => b.1)

/-- `frontier_push(addr, mask)` (R45), the address in bytes; none where a free entry is needed and missing. -/
def Group.push (x : Group) (addr : Nat) (m : W32) : Option Group :=
  let a := addr / 4
  match lowestEntry (fun e => e.kind == .ordinary && e.addr == a) x.front with
  | some i =>
    let e := x.front.getD i {}
    some { x with front := x.front.set i { e with mask := e.mask ||| m } }
  | none =>
    match lowestEntry (fun e => e.kind == .free) x.front with
    | some i =>
      let e : FEntry := { kind := .ordinary, mask := m, fmt := x.fmt, addr := a, hnd := x.trap.isSome }
      some { x with front := x.front.set i e }
    | none => none

/-- Taking an entry (R50). -/
def Group.take (x : Group) (i : Nat) : Group :=
  let e := x.front.getD i {}
  { x with m0 := e.mask, fmt := e.fmt, pc := BitVec.ofNat 64 (4 * e.addr), front := x.front.set i {}, wait := .none }

/-- The group continues at the lowest eligible entry; where there is none it issues nothing until a wait resolves
(R50). -/
def Group.continueLowest (x : Group) : Group :=
  match lowestEntry x.eligible x.front with
  | some i => x.take i
  | none => { x with m0 := 0#32, wait := .frontier }

/-- An entry's wait resolves as a path of its own (R51, R54): `s[SD]` := bit, and the entry becomes ordinary at
ADDR + 4, or merges into the ordinary entry there. -/
def Group.resolveEntry (x : Group) (i : Nat) (bit : W64) : Group :=
  let e := x.front.getD i {}
  let y := x.setSr e.sd bit
  match lowestEntry (fun f => f.kind == .ordinary && f.addr == e.addr + 1) y.front with
  | some j =>
    let f := y.front.getD j {}
    { y with front := (y.front.set j { f with mask := f.mask ||| e.mask }).set i {} }
  | none =>
    let f : FEntry := { kind := .ordinary, mask := e.mask, fmt := e.fmt, addr := e.addr + 1, hnd := e.hnd }
    { y with front := y.front.set i f }

/-- Every join-wait entry that lacks no lane resolves with bit 1, in ascending ADDR (R51). -/
def Group.resolveArrived (x : Group) : Nat → Group
  | 0 => x
  | n + 1 =>
    match lowestEntry (fun e => e.kind == .joinWait && (e.jset &&& ~~~ (e.mask ||| x.retired)) == 0#32) x.front with
    | some i => (x.resolveEntry i 1#64).resolveArrived n
    | none => x

/-- The waits whose TLEFT has passed resolve with bit 0, in ascending ADDR: the running path is pushed and the waiting
lanes run (R55). Not while a handler is live (R58). -/
def Group.resolveExpired (x : Group) : Nat → Group
  | 0 => x
  | n + 1 =>
    match lowestEntry (fun e => e.kind == .joinWait && e.lapsed) x.front with
    | some i =>
      let e := x.front.getD i {}
      let y := { x with front := x.front.set i {} }
      let z := if x.wait = Wait.frontier then y else
        match y.push x.pc.toNat x.m0 with
        | some w => w
        | none => y
      let w := z.setSr e.sd 0#64
      { w with m0 := e.mask, fmt := e.fmt, pc := BitVec.ofNat 64 (4 * e.addr + 4), wait := .none }.resolveExpired n
    | none => x

/-! ## The return from a trap (R59, R212) -/

/-- The block that runs, or passes over, the faulting lane instruction again: `redo` gives the lanes, none those of the captured
mask; with no lane it is passed over. -/
def TrapRec.again (r : TrapRec) (retry : W32) : List LaneBlock :=
  match r.i with
  | none => []
  | some b =>
    let m := r.f &&& retry
    if r.whole then [{ b with redo := if m = 0#32 then some 0#32 else b.redo }]
    else [{ b with redo := some m, bad := 0#32 }]

/-- The group back on the interrupted path: the held queue returns to the lane queue behind what the handler enqueued,
with I before it; a scalar instruction is executed again, or passed over (R59, R212). -/
def Group.leaveHandler (x : Group) (r : TrapRec) (retry : W32) : Group :=
  let skip := r.i.isNone && (r.f &&& retry) == 0#32
  { x with
    trap := none
    pc := if skip then r.pc + 4#64 else r.pc, m0 := r.m0, fmt := r.fmt
    queue := x.queue ++ r.again retry ++ r.held
    wait := if r.m0 = 0#32 then .frontier else .none }

/-- Back on the interrupted path: waits whose deadline passed during the handler resolve (R58), and where no path ran, one
that has become eligible runs (R50). -/
def Group.returned (x : Group) (r : TrapRec) (retry : W32) : Group :=
  let y := (x.leaveHandler r retry).resolveExpired 16
  if y.wait = .frontier then y.continueLowest else y

/-- An entry created by a handler is pending. -/
def Group.handlerEntries (x : Group) : Bool := x.front.any (fun e => e.kind != .free && e.hnd)

/-- THE RETURN FROM A TRAP: `tret` with the lanes of a mask to retry (R59, R212). -/
def State.trapReturn (s : State) (g : Nat) (retry : W32) : State :=
  let x := s.grp g
  match x.trap with
  | none => s.trapGroup g cIllegal
  | some r =>
    if r.handler = .vacate then s.trapGroup g cIllegal
    else if x.m0 ≠ r.f ∨ x.handlerEntries = true then s.stopGroup g cDouble r.f
    else s.setGrp g (x.returned r retry)

/-! ## Charges and the issue check (R128 to R135) -/

/-- What an operation would charge on one resource: the cost, and, for an operation that moves bytes, the floor its
releases use (R129). -/
structure Cost where
  res : Resource
  amt : Nat
  floor : Nat := 0
  deriving DecidableEq, Repr

/-- What an operation would charge: each resource once. -/
abbrev Costs := List Cost

/-- The cost of an operation on a resource whose floor is 0 (R130). -/
def noService : Nat := 2 ^ 64 - 1

/-- L + ceil(b / F), or no service (R130). -/
def costOf (lat bytes floor : Nat) : Nat := if floor = 0 then noService else lat + ceilDiv bytes floor

/-- The latency bound of a memory type (R79). -/
def tierLat : Nat → Nat
  | 0 => 1600 | 1 => 2400 | 2 => 6000 | 3 => 8000 | 4 => 1200 | _ => 400

/-- The floor of a die and a tier; dome is tier 4 (R340). -/
def Ctx.floor (x : Ctx) (die tier : Nat) : Nat := (Map.get 0#64 x.floors (5 * die + tier)).toNat

/-- C_r (R129). -/
def Ctx.chargeOn (x : Ctx) (r : Resource) : Nat :=
  (x.ledger.filter (fun k => k.res == r)).foldl (fun a k => a + k.amt) 0

/-- The largest C_r of a context. -/
def Ctx.maxCharge (x : Ctx) : Nat := x.ledger.foldl (fun a k => Nat.max a (x.chargeOn k.res)) 0

/-- VE (R132). -/
def Ctx.estimate (x : Ctx) : Nat := 700 + x.maxCharge

/-- The bound that both tests of R134 use (R343). -/
def Ctx.checkBound (x : Ctx) : Nat := if x.bpend then x.vbreq.toNat else x.vbcur.toNat

/-- LIMIT (R134): tightened in an open handler window. -/
def Ctx.limit (x : Ctx) (now : Nat) : Nat :=
  match x.vac with
  | some v => if v.open_ then x.checkBound - 700 - (now - v.t0) else x.checkBound - 700
  | none => x.checkBound - 700

/-- What the issue check answers. -/
inductive Check where
  | ok | tooLarge | bound | stall
  deriving DecidableEq, Repr

/-- The largest cost of a list. -/
def Costs.top (cs : Costs) : Nat := cs.foldl (fun a p => Nat.max a p.amt) 0

/-- The issue check (R134). A group in a window stalls (R458). -/
def State.issueCheck (s : State) (c : Nat) (strict inWindow : Bool) (cs : Costs) : Check :=
  let x := s.ctx c
  if x.checkBound - 700 < cs.top then .tooLarge
  else if cs.any (fun p => decide (x.limit s.gtime < x.chargeOn p.res + p.amt)) then
    if strict && !inWindow then .bound else .stall
  else .ok

/-- The intervals now running that suspend the guarantee (R141): self-refreshes of stacks, and paused channels. -/
def State.suspensions (s : State) : List (Resource × Nat) :=
  s.refresh.map (fun kv => (.tier (stackDies.getD kv.1 0) 0, kv.1)) ++
  s.ports.flatMap (fun kv => kv.2.txPaused.map (fun v => (.fabric kv.1 v.1, 0)))

/-- A context is touched by an interval. -/
def State.touch (s : State) (k : Resource × Nat) (c : Nat) : State :=
  if s.touched.contains (k.1, k.2, c) then s else { s with touched := s.touched ++ [(k.1, k.2, c)] }

/-- Charges an operation (R129). A context that issues to a resource in an interval of R141 is touched by it. -/
def State.addCharges (s : State) (c key : Nat) (cs : Costs) : State :=
  let x := s.ctx c
  (s.suspensions.filter (fun k => cs.any (fun p => p.res == k.1))).foldl (fun t k => t.touch k c)
    (s.setCtx c { x with ledger := x.ledger ++ (cs.filter (fun p => p.amt != 0)).map (fun p => ⟨key, p.res, p.amt, x.epoch, p.floor⟩) })

/-- Charges an operation that is complete within the tick in which it issues: its charge is released when the tick ends (R129). -/
def State.chargeNow (s : State) (c : Nat) (cs : Costs) : State := s.addCharges c 0 cs

/-- The charges of operations that were complete within the tick that ends are released. -/
def State.releaseNow (s : State) : State :=
  { s with ctxs := s.ctxs.each (fun x => if x.ledger.any (fun k => k.key == 0) then { x with ledger := x.ledger.filter (fun k => k.key != 0) } else x) }

/-- An interval of R141 starts: it touches every context charged on the resource. -/
def State.startInterval (s : State) (k : Resource × Nat) : State :=
  ((List.range 16).filter (fun c => (s.ctx c).ledger.any (fun e => e.res == k.1))).foldl (fun t c => t.touch k c) s

/-- An interval ends: one excursion for each context it touched (R141, R354). -/
def State.endInterval (s : State) (k : Resource × Nat) (start : Nat) : State :=
  { s with
    excursions := s.excursions ++ (s.touched.filter (fun t => t.1 == k.1 && t.2.1 == k.2)).map (fun t => (t.2.2, start, s.gtime))
    touched := s.touched.filter (fun t => !(t.1 == k.1 && t.2.1 == k.2)) }

/-- Releases what is left of an operation's charge (R129); those of key 0 wait for the end of the tick. -/
def State.release (s : State) (c key : Nat) : State :=
  let x := s.ctx c
  if key = 0 then s else s.setCtx c { x with ledger := x.ledger.filter (fun k => k.key != key) }

/-- Releases of an operation that moves bytes: floor(d / F) in all once d bytes are complete on a resource, F the floor it was
costed at (R129). -/
def State.releaseBy (s : State) (c key : Nat) (before after : Resource → Nat) : State :=
  let x := s.ctx c
  s.setCtx c { x with ledger := x.ledger.map (fun k =>
    if k.key = key ∧ k.floor ≠ 0 then { k with amt := k.amt - (after k.res / k.floor - before k.res / k.floor) } else k) }

/-- The same of an operation all of whose resources carry the same bytes. -/
def State.releaseMoved (s : State) (c key before after : Nat) : State :=
  s.releaseBy c key (fun _ => before) (fun _ => after)

/-- The STRICT bit of a group. -/
def Group.strict (x : Group) : Bool := x.vmode.getLsbD 0

/-- The group runs its vacate handler path, or a trap handler path whose record was live at t0, while the context's handler window
is open (R458). -/
def State.inOpenWindow (s : State) (x : Group) : Bool :=
  match (s.ctx x.ctx).vac, x.trap with
  | some v, some r => v.open_ && r.atT0
  | _, _ => false

/-- Is the group in a window (R458)? -/
def State.inWindow (s : State) (x : Group) : Bool := x.window || s.inOpenWindow x

/-- Adds a cost to a list, summing on one resource. -/
def Costs.add (cs : Costs) (k : Cost) : Costs :=
  if cs.any (fun p => p.res == k.res) then cs.map (fun p => if p.res = k.res then { p with amt := p.amt + k.amt } else p)
  else cs ++ [k]

/-! ## Who issues -/

/-- A group may issue: it is on its slot, its launch runs, its context is RUNNING or in a handler window that t0 + D has not passed
(R137), its die's control clock runs (R447), and nothing has stopped it. -/
def State.issuing (s : State) (x : Group) : Bool :=
  let c := s.ctx x.ctx
  let k := s.clk (dieOfCore x.core)
  x.residence == .resident && !x.stopped && (s.lau x.launch).phase == .running &&
  (c.st == .running || (match c.vac with | some v => v.open_ && decide (s.gtime ≤ v.t0 + v.d) | none => false)) && !x.vdone && c.lkFault.isNone && x.pfWait.isEmpty &&
  k.relock.isNone && !k.stopped && decide (x.notBefore ≤ s.gtime)

/-- The place of a group in the order of R30: its core, its slot, its `%gid`. -/
def Group.place (x : Group) : Nat := (2 * x.core + x.slot) * 65536 + x.gid

/-- The place of an operation of a group in the order of R134: the scalar pipe before the lane pipe. -/
def Group.issueKey (x : Group) (lane : Bool) : Nat := 2 * x.place + b2n lane

/-- An operation of a context that comes later in the order of R134 has been charged in this tick. -/
def State.chargedAfter (s : State) (c key : Nat) : Bool :=
  s.marks.any (fun m => match m with | .charged d k => d == c && decide (key < k) | _ => false)

/-- A group's scalar thread may execute an instruction: it waits for nothing, and does not stand stopped at a region edge
(R434). -/
def State.canScalar (s : State) (x : Group) : Bool :=
  s.issuing x && x.wait == .none && !x.stalled && !(x.atEdge && x.dbgStop.isSome)

end Sys2Proof.Machine
end

