-- ==== Sys2Proof/Machine/Flags.lean ====
section
/-!
DEFINITION. The format word and the floating-point flags of a group (07 R117 to R120, 11 R199).
-/
namespace Sys2Proof.Machine

/-- `%fflags` is sticky: an instruction's flags of its active lanes are ORed into it (R117). -/
def Group.raise (x : Group) (fl : W32) : Group := { x with fflags := x.fflags ||| fl }

/-- The mask of `fmtset` (R199). -/
def fmtMask (fn : Nat) : W32 :=
  (if bitOf fn 5 then 0x0F000000#32 else 0#32) ||| (if bitOf fn 4 then 0x00F00000#32 else 0#32) |||
  (if bitOf fn 3 then 0x000F0000#32 else 0#32) ||| (if bitOf fn 2 then 0x0000C000#32 else 0#32) |||
  (if bitOf fn 1 then 0x00003800#32 else 0#32) ||| (if bitOf fn 0 then 0x00000600#32 else 0#32)

/-- The format word with selected fields replaced (R199). -/
def fmtMerge (old : W32) (fn : Nat) (v : W32) : W32 := (old &&& ~~~ (fmtMask fn)) ||| (v &&& fmtMask fn)

end Sys2Proof.Machine
end

