-- ==== Sys2Proof/Config.lean ====
section
/-!
DEFINITION. What the spec leaves open and the model does not fix: free values. They have no body, so nothing can be
proved of what they are; each is applied to the model's counter of free values, `State.freeCtr`.
-/
namespace Sys2Proof

/-- A free choice between two outcomes that the spec calls unspecified (00 R5). -/
opaque Config.freeChoice : Nat → Bool

/-- A byte that the spec does not give. -/
opaque Config.freeByte : Nat → Byte

end Sys2Proof
end

