-- ==== Sys2Proof/Machine/Access.lean ====
section
/-!
DEFINITION. Memory accesses of groups: the spaces and their checks (04 R63 to R79, 24 R375, 13 R249), windows (R65 to R68,
11 R185), the stack cache (R77), costs (08 R130, 13 R259), the orders that hold between accesses of one group (05 R82 to
R95), and their performance at the home of each byte (R94, 24 R382).
-/
namespace Sys2Proof.Machine

/-! ## Places -/

/-- What an access asks of a page (R375). -/
inductive Want where
  | rd | wr | at_
  deriving DecidableEq, Repr

/-- Where an address leads: a place, a page that is not resident, or a cause. -/
inductive Res where
  | ok (p : Place)
  | missing (page : Nat)
  | cause (code : Nat)
  deriving DecidableEq, Repr

/-- Bits [56:48] of an address in the scratch aperture (R64). -/
def inScratch (va : Nat) : Bool := bits va 56 48 == 0x1FF
/-- Bits [56:48] of an address in the private aperture (R64). -/
def inPrivate (va : Nat) : Bool := bits va 56 48 == 0x1FE
/-- The offset in an aperture. -/
def apOff (va : Nat) : Nat := va % 2 ^ 48

/-- The permission an access needs (R66, R375). -/
def leafAllows (w : W64) : Want → Bool
  | .rd => leafRd w | .wr => leafWr w | .at_ => leafAt w

/-- A place of a mapped page (R79): peer pages hold a fabric address (R416). -/
def leafPlace (l : Leaf) (va : Nat) : Place :=
  if leafType l.bits = 4 then .peer (leafPa l va)
  else .phys (leafPa l va) (pageBase l.large va) (leafType l.bits) (leafGen l.bits)

/-- The virtual channel of a fabric address: the XOR of the 3-bit fields of ADDR[51:7] (R416). -/
def fabricVc (fa : Nat) : Nat := (List.range 15).foldl (fun v i => v ^^^ (fa / 2 ^ (7 + 3 * i) % 8)) 0

/-- The port a route entry selects: the lowest-numbered route whose port is up; none where the destination is
unreachable (R417). With it HMAX. -/
def State.routeOf (s : State) (dev : Nat) : Option (Nat × Nat) :=
  let e := s.readLE (s.rtbase.toNat + 8 * dev) 8
  let hmax := bits e 35 32
  let rts := (List.range 4).map (fun n => (e / 2 ^ (8 * n) % 16, e / 2 ^ (8 * n + 4) % 16))
  let have_ := rts.filter (fun r => r.1 != 15)
  if bitOf e 63 = false ∨ have_.any (fun r => decide (hmax < r.2)) = true then none
  else
    match have_.find? (fun r => (Map.get {} s.ports r.1).up) with
    | some r => some (r.1, hmax)
    | none => none

/-- The route of a destination and a channel (R414): all of its traffic follows one at a time, that of the requests which are not
acknowledged yet while their port is up. -/
def State.routeOn (s : State) (dev vc : Nat) : Option (Nat × Nat) :=
  (s.routeOf dev).map (fun r =>
    match s.sent.find? (fun e => e.dst == dev && e.vc == vc && (Map.get {} s.ports e.port).up) with
    | some e => (e.port, r.2)
    | none => r)

/-- A peer page answers with an error: unreachable, or its export refuses (R417, R418). -/
def State.peerBad (s : State) (fa : Nat) : Bool :=
  (s.routeOf (fa / 2 ^ 40)).isNone || s.peerErr.contains (fa / 65536)

/-- A global address through a TLB and the page table (R375, R377). -/
def State.resolveGlobal (s : State) (u : TlbUnit) (c va : Nat) (w : Want) : Res :=
  match s.xlate u c va with
  | .absent => .missing (va / 65536 * 65536)
  | .malformed => .cause cTrans
  | .leaf l =>
    if leafAllows l.bits w then
      match leafPlace l va with
      | .peer fa => if s.peerBad fa then .cause cProt else .ok (.peer fa)
      | p => .ok p
    else .cause cProt

/-- The block of a group. -/
def State.blockOf (s : State) (x : Group) : Block := s.blk x.block

/-- The scratch size S of a group's block in bytes (R69). -/
def State.scrSize (s : State) (x : Group) : Nat := (s.kd x).scr * 1024

/-- The offset of a scratch place within its core: the slot (or the wide core, at 0) in bits [63:20], and the block's
base plus the aperture offset below (R70, R456). -/
def State.scrOff (s : State) (x : Group) (o : Nat) : Nat :=
  let b := s.blockOf x
  (if b.wide then 0 else 2 ^ 20 * (b.slot + 1)) + b.bases.getD (x.core - b.core0) 0 + o

/-- The bank, row and byte of a scratch offset, as the key of the scratch map (R70). -/
def scrKey (core off : Nat) : Nat :=
  let o := off % 2 ^ 20
  let w := o / 4
  let (bank, row) := if off / 2 ^ 20 = 0 then (w % 64, w / 64) else (32 * (off / 2 ^ 20 - 1) + w % 32, w / 32)
  524288 * core + 8192 * bank + 4 * row + o % 4

/-- A scratch access at an aperture offset (R69). -/
def State.resolveScratch (s : State) (x : Group) (o : Int) : Res :=
  if o < 0 ∨ (s.scrSize x : Int) ≤ o then .cause cScr else .ok (.scratch x.core (s.scrOff x o.toNat))

/-- The backing address of lane 0 of a private word (R76). -/
def State.backing (s : State) (x : Group) (o : Nat) : Nat :=
  let k := s.kd x
  (s.lau x.launch).pb + (((s.blockOf x).bid * k.perBlock + x.gid) * k.priv + o / 4 * 4) * 32 + o % 4

/-- The line of the stack cache of a group's private word. -/
def State.stackFind (s : State) (core c g o4 : Nat) : Option StackLine :=
  s.stack.find? (fun n => n.core == core && n.ctx == c && n.group == g && n.off == o4)

/-- The private words an access of n bytes at an offset touches. -/
def privWords (o n : Nat) : List Nat := (List.range ((o % 4 + n + 3) / 4)).map (fun i => o / 4 * 4 + 4 * i)

/-- What the walk of the backing of the missing words of a private access finds (R77). -/
def State.privWalk (s : State) (g : Nat) (x : Group) (w : Want) : List Nat → Option Res
  | [] => none
  | o :: t =>
    match s.stackFind x.core x.ctx g o with
    | some _ => s.privWalk g x w t
    | none =>
      match s.resolveGlobal (.core x.core) x.ctx (s.backing x o) w with
      | .ok _ => s.privWalk g x w t
      | r => some r

/-- A private access of a lane at an aperture offset (R75, R77), under the `%stklim` of its `vrun` (R198). Atomics raise protection (R250). The miss of a load and of a
store alike reads the line, so its walk asks for the read permission. DEDUCED (log 166). -/
def State.resolvePrivate (s : State) (g : Nat) (x : Group) (o : Int) (size : Nat) (w : Want) : Res :=
  if o < 0 ∨ (x.head.stklim : Int) ≤ o then .cause cStk
  else if w = .at_ then .cause cProt
  else
    match s.privWalk g x .rd (privWords o.toNat size) with
    | some r => r
    | none => .ok (.stack o.toNat)

/-- A generic address (R63, R64, R67); the scalar thread has no private memory (R188). -/
def State.resolve (s : State) (g : Nat) (x : Group) (scalar : Bool) (va size : Nat) (w : Want) : Res :=
  if 2 ^ 57 ≤ va then .cause cNoncan
  else if va % size ≠ 0 then .cause cMisal
  else if inScratch va then s.resolveScratch x (apOff va)
  else if inPrivate va then
    if scalar then .cause cProt else s.resolvePrivate g x (apOff va) size w
  else s.resolveGlobal (.core x.core) x.ctx va w

/-! ## Windows (R65 to R68, R185)

A queued lane access reads its windows when it issues, as they then stand: no rule makes a `wset` wait for it. DESIGN CHOICE
(log 168). -/

/-- The bytes of the run of following pages that map physically contiguous with the same TYPE and permissions. -/
def State.runBytes (s : State) (u : TlbUnit) (c : Nat) (key pa va : Nat) : Nat → Nat
  | 0 => 0
  | n + 1 =>
    match s.xlate u c va with
    | .leaf l =>
      if bits l.bits.toNat 61 56 = key ∧ leafPa l va = pa then
        let k := pageSize l.large - va % pageSize l.large
        k + s.runBytes u c key (pa + k) (va + k) n
      else 0
    | _ => 0

/-- A window filled from a base (R185). -/
def State.fillWindow (s : State) (u : TlbUnit) (c a : Nat) : Window :=
  if inScratch a || inPrivate a then
    { vbase := a, frame := apOff a, lim := 0x200000, typ := if inScratch a then 6 else 7, prd := true, pwr := true, pat := true, v := true }
  else
    match s.xlate u c a with
    | .leaf l =>
      { vbase := a, frame := leafPa l a, tag := leafGen l.bits, typ := leafType l.bits
        prd := leafRd l.bits, pwr := leafWr l.bits, pat := leafAt l.bits, v := true
        lim := Nat.min (s.runBytes u c (bits l.bits.toNat 61 56) (leafPa l a) a 34) (0x200000 - a % 65536) }
    | _ => { vbase := a, v := true }

/-- A stale window is translated again before it is used (R68). -/
def State.refill (s : State) (x : Group) (k : Nat) : Group :=
  let w := x.win k
  if w.v && w.st then x.setWin k (s.fillWindow (.core x.core) x.ctx w.vbase) else x

/-- An access at a signed offset is served by the window itself, with no visit to the TLB (R66). -/
def Window.serves (n : Window) (o : Int) : Bool := n.v && decide (n.typ < 6) && decide (0 ≤ o) && decide (o < (n.lim : Int))

/-- A lane access through a window at a signed offset (R66); `dome` for the forms that reach only dome pages (R244). -/
def State.resolveWin (s : State) (g : Nat) (x : Group) (k : Nat) (o : Int) (size : Nat) (w : Want) (dome : Bool) : Res :=
  let n := x.win k
  let va := wrap 64 ((n.vbase : Int) + o)
  if 2 ^ 57 ≤ va then .cause cNoncan
  else if n.v = false then .cause cUnset
  else if va % size ≠ 0 then .cause cMisal
  else if n.typ = 6 then
    match s.resolveScratch x ((n.frame : Int) + o) with
    | .ok p => if dome then .cause cProt else .ok p
    | r => r
  else if n.typ = 7 then
    if dome then (if (n.frame : Int) + o < 0 ∨ (x.head.stklim : Int) ≤ (n.frame : Int) + o then .cause cStk else .cause cProt)
    else s.resolvePrivate g x ((n.frame : Int) + o) size w
  else if 0 ≤ o ∧ o < (n.lim : Int) then
    if (match w with | .rd => n.prd | .wr => n.pwr | .at_ => n.pat) && (!dome || n.typ == 5) then
      let pa := n.frame + o.toNat
      if n.typ = 4 then (if s.peerBad pa then .cause cProt else .ok (.peer pa))
      else .ok (.phys pa (va / 65536 * 65536) n.typ (if va / 65536 = n.vbase / 65536 then n.tag else 0))
    else .cause cProt
  else
    match s.resolve g x false va size w with
    | .ok (.phys pa pg t gen) => if dome && t != 5 then .cause cProt else .ok (.phys pa pg t gen)
    | .ok p => if dome then .cause cProt else .ok p
    | r => r

/-! ## Costs (R80, R81, R130, R259) -/

/-- One request as it is priced: its resource, the latency bound and floor there, what makes it distinct, its bytes, and
whether the bank arithmetic unit performs it at a fixed cost. -/
structure Item where
  res : Resource
  lat : Nat
  floor : Nat
  key : Nat
  bytes : Nat := 32
  fixed : Bool := false
  deriving DecidableEq, Repr

/-- The resource of a physical address of a memory type (R128). -/
def State.resOf (s : State) (typ pa : Nat) : Resource :=
  if typ = 5 then .dome (s.dieOf 5 pa) else .tier (s.dieOf typ pa) typ

/-- The floor of a context on the resource of a physical address. -/
def State.floorOf (s : State) (c typ pa : Nat) : Nat := (s.ctx c).floor (s.dieOf typ pa) (if typ = 5 then 4 else typ)

/-- A request to a physical address. -/
def State.physItem (s : State) (c typ pa key : Nat) (fixed : Bool) (bytes : Nat := 32) : Item :=
  ⟨s.resOf typ pa, tierLat typ, s.floorOf c typ pa, key, bytes, fixed && typ == 5⟩

/-- A request to a fabric address. -/
def State.peerItem (s : State) (c fa key : Nat) : Item :=
  match s.routeOf (fa / 2 ^ 40) with
  | some (port, hops) => ⟨.fabric port (fabricVc fa), 1200 * hops, (Map.get 0#64 (s.ctx c).ffab port).toNat, key, 32, false⟩
  | none => ⟨.fabric 15 0, 1200, 0, key, 32, false⟩

/-- The requests of one lane's access: sectors, or, for atomics, addresses (`lane` apart where lanes are not combined); a
private miss is a request of its own, whatever sectors the instruction asks for besides (R259). -/
def State.partItems (s : State) (g : Nat) (x : Group) (atomic apart : Bool) (p : Part) : List Item :=
  let key (a : Nat) : Nat := 2 * (if apart then 32 * a + p.lane else if atomic then a else a / 32)
  match p.place with
  | .phys pa _ typ _ => [s.physItem x.ctx typ pa (key pa) atomic]
  | .scratch _ _ => []
  | .peer fa => [s.peerItem x.ctx fa (key fa)]
  | .stack o =>
    ((privWords o p.size).filter (fun w => (s.stackFind x.core x.ctx g w).isNone)).map (fun w =>
      let k := 2 * s.backing x w + 1
      match s.resolveGlobal (.core x.core) x.ctx (s.backing x w) .rd with
      | .ok (.phys pa _ typ _) => s.physItem x.ctx typ pa k false 128
      | .ok (.peer fa) => { s.peerItem x.ctx fa k with bytes := 128 }
      | _ => s.physItem x.ctx 3 (2 ^ 45) k false 128)

/-- Requests that are not the same request. -/
def dedupItems : List Item → List Item
  | [] => []
  | i :: t => if t.any (fun j => j.res == i.res && j.key == i.key) then dedupItems t else i :: dedupItems t

/-- The costs of a list of requests (R130): L + ceil(b / F) on each resource, or 4 per request of a bank unit. -/
def costsOf (items : List Item) : Costs :=
  let ds := dedupItems items
  ds.foldl (fun (cs : Costs) i =>
    if cs.any (fun k => k.res == i.res) then cs
    else
      let mine := ds.filter (fun j => j.res == i.res)
      let b := mine.foldl (fun a j => a + j.bytes) 0
      let amt := if i.floor = 0 then noService
        else if mine.all (fun j => j.fixed) then 4 * mine.length
        else i.lat + ceilDiv b i.floor
      cs ++ [⟨i.res, amt, if i.fixed || b ≤ 32 then 0 else i.floor⟩]) []

/-- What an access kind is, for costs: an atomic at its home. -/
def AccessKind.isAtomic : AccessKind → Bool
  | .atomic _ _ _ => true
  | .bank _ _ _ => true
  | .ordered _ _ _ _ => true
  | _ => false

/-- Lanes that are not combined: `vbank` and `vatom.ord` (R258, R254). -/
def AccessKind.apart : AccessKind → Bool
  | .bank _ _ _ => true
  | .ordered _ _ _ _ => true
  | _ => false

/-- The costs of an instruction's accesses. -/
def State.accessCosts (s : State) (g : Nat) (x : Group) (k : AccessKind) (ps : List Part) : Costs :=
  costsOf (ps.flatMap (s.partItems g x k.isAtomic k.apart))

/-! ## Watchpoints (R437 to R439) -/

/-- The kinds of access that watchpoints tell apart: reads, writes, atomics. -/
def AccessKind.watchBit : AccessKind → Nat
  | .load => 62
  | .store => 61
  | _ => 60

/-- The hits of a set of byte ranges on the context's watchpoints, ascending; the lanes of each range go into MASK. -/
def Ctx.hitsOf (x : Ctx) (bit : Nat) (base : Hit) (rs : List (Nat × Nat × Nat)) : List Hit :=
  (List.range 8).flatMap (fun n =>
    let a := (Map.get 0#64 x.wpa n).toNat
    let lo := bits a 56 0
    let hi := lo + (Map.get 0#64 x.wpl n).toNat % 2 ^ 33
    let m := rs.filter (fun r => !(inScratch r.2.1) && !(inPrivate r.2.1) && decide (r.2.1 < hi) && decide (lo < r.2.1 + r.2.2))
    if bitOf a 63 && bitOf a bit && !m.isEmpty then
      let low := m.foldl (fun v r => Nat.min v (Nat.max lo r.2.1)) (2 ^ 57)
      [{ base with wp := n, addr := low, size := m.foldl (fun v r => Nat.max v r.2.2) 0
                   mask := maskOf (fun l => m.any (fun r => r.1 == l))
                   stops := if bitOf a 59 then base.stops else none }]
    else [])

/-- The top four region identifiers (R207, R433). -/
def Group.rgnWord (x : Group) : W64 :=
  let r := x.rstack.reverse
  BitVec.ofNat 64 (r.getD 0 0 + 65536 * r.getD 1 0 + 2 ^ 32 * r.getD 2 0 + 2 ^ 48 * r.getD 3 0)

/-- What the record of a hit says of the group and the instruction (R433, R440). -/
def State.hitBase (s : State) (g : Nat) (x : Group) (src pc lpos : Nat) (own : Bool) : Hit :=
  { launch := some x.launch, src := src, lid := (s.lau x.launch).lid, gid := x.gid, pc := pc, lpos := lpos
    rgn := x.rgnWord, stops := if own then some g else none }

/-! ## What a place can serve -/

/-- The place can be served now: no line lock is held (R382), its stack is not in self-refresh (R100), the channel to its
peer is not paused (R141, R419). -/
def State.served (s : State) (c : Nat) (p : Part) : Bool :=
  match p.place with
  | .phys pa page _ gen =>
    !(lockedLine c page gen pa s.moves) &&
    (match s.stackOf (homeOf c page gen pa s.moves) with
     | some k => (Map.find s.refresh k).isNone
     | none => true)
  | .peer fa =>
    (match s.routeOf (fa / 2 ^ 40) with
     | some (port, _) => (Map.find (Map.get {} s.ports port).txPaused (fabricVc fa)).isNone
     | none => true)
  | _ => true

/-! ## The stack cache (R77) -/

/-- The memory of a page that a write-back reaches: resident and writable. -/
def State.backOk (s : State) (ln : StackLine) : Res := s.resolveGlobal (.core ln.core) ln.ctx ln.backing .wr

/-- The backing of a line can be read and written now: no line lock is held and its stack is not in self-refresh (R382,
R407). -/
def State.backServed (s : State) (c backing : Nat) : Bool :=
  match s.walk c (backing % 2 ^ 57) with
  | .leaf l => s.served c { place := leafPlace l (backing % 2 ^ 57) }
  | _ => true

/-- Writes back the words of a line that its dirty lanes have written; where its page cannot be written the line stays, dirty,
and a missing page is reported with access 1. DEDUCED (log 167): R77 says that the line is written back, and the words of other
lanes are not written, so that what reached their backing by other means stays. -/
def State.writeBack (s : State) (ln : StackLine) : State × Bool :=
  match s.backOk ln with
  | .ok _ =>
    let t := (lanesOf ln.dirty).foldl (fun t l => t.vWrite ln.ctx (ln.backing + 4 * l) 4 (ln.data.getD l 0#32).toNat) s
    (if ln.dirty = 0xFFFFFFFF#32 then t.clearCovered ln.ctx ln.backing 128 else t, true)
  | .missing pg =>
    if (s.ctx ln.ctx).pfRecs.contains pg then (s, false)
    else
      let s1 := s.post ln.ctx .fault 1 0 0xFFFF 0xFFFF pg 1
      let x := s1.ctx ln.ctx
      (if x.fq.size = 0#64 then s1 else s1.setCtx ln.ctx { x with pfRecs := pg :: x.pfRecs }, false)
  | .cause _ => (s, false)

/-- The same line of the stack cache. -/
def StackLine.same (a b : StackLine) : Bool := a.core == b.core && a.ctx == b.ctx && a.group == b.group && a.off == b.off

/-- Writes back a line and drops it; a line that cannot be written stays. -/
def State.dropLine (s : State) (ln : StackLine) : State :=
  let (s1, ok) := if ln.dirty = 0#32 then (s, true) else s.writeBack ln
  { s1 with stack := if ok then s1.stack.filter (fun n => !(n.same ln))
                     else s1.stack.map (fun n => if n.same ln then { n with stuck := true, again := false } else n) }

/-- An access in flight of its group uses the line. -/
def State.lineUsed (s : State) (ln : StackLine) : Bool :=
  (Map.get {} s.groups ln.group).pend.any (fun p => p.parts.any (fun a =>
    match a.place with
    | .stack o => !a.done && (privWords o a.size).contains ln.off
    | _ => false))

/-- The line can make room for another: nothing in flight uses it, and its words can be written back now (R77). -/
def State.evictable (s : State) (ln : StackLine) : Bool :=
  !(s.lineUsed ln) && (ln.dirty == 0#32 || (!ln.stuck && s.backServed ln.ctx ln.backing &&
    (match s.backOk ln with | .ok _ => true | _ => false)))

/-- The least recently used of a list of lines. -/
def leastUsed (ls : List StackLine) : Option StackLine :=
  ls.foldl (fun (b : Option StackLine) n =>
    match b with
    | some m => if n.used < m.used then some n else b
    | none => some n) none

/-- The least recently used line of a core that can make room. -/
def State.oldestLine (s : State) (core : Nat) : Option StackLine :=
  leastUsed (s.stack.filter (fun n => n.core == core && s.evictable n))

/-- The words of a list of private accesses whose lines are missing, each once. -/
def State.missWords (s : State) (g : Nat) (x : Group) (ps : List Part) : List Nat :=
  (ps.flatMap (fun p => match p.place with
    | .stack o => (privWords o p.size).filter (fun w => (s.stackFind x.core x.ctx g w).isNone)
    | _ => [])).foldl (fun (ws : List Nat) w => if ws.contains w then ws else ws ++ [w]) []

/-- The lines that private accesses miss can be filled now: each backing is served, and there is room in the core's 512 lines
or lines that can make room (R77, R382, R407). -/
def State.canFill (s : State) (g : Nat) (x : Group) (ps : List Part) : Bool :=
  let ws := s.missWords g x ps
  ws.isEmpty || (ws.all (fun w => s.backServed x.ctx (s.backing x w)) &&
    (let mine := s.stack.filter (fun n => n.core == x.core)
     let keep := mine.filter (fun n => !(s.evictable n) || (n.group == g && n.ctx == x.ctx && ps.any (fun p => match p.place with
       | .stack o => (privWords o p.size).contains n.off
       | _ => false)))
     decide (keep.length + ws.length ≤ 512)))

/-- A use of the line of a private word: it is filled from its backing where it is absent, making room in the core's 512
lines. A line with uncorrectable data is filled with marked words (R395, R406). -/
def State.fillLine (s : State) (g : Nat) (x : Group) (o4 : Nat) : State :=
  match s.stackFind x.core x.ctx g o4 with
  | some ln => { s with stack := s.stack.map (fun n => if n.same ln then { n with used := s.clock } else n) }
  | none =>
    let s1 := if (s.stack.filter (fun n => n.core == x.core)).length < 512 then s
      else match s.oldestLine x.core with
        | some ln => s.dropLine ln
        | none => s
    let b := s.backing x o4
    let ln : StackLine := { core := x.core, ctx := x.ctx, group := g, off := o4, backing := b, used := s.clock
                            bad := if s1.vBad x.ctx b 128 then 0xFFFFFFFF#32 else 0#32
                            data := (List.range 32).map (fun l => BitVec.ofNat 32 (s1.vRead x.ctx (b + 4 * l) 4)) }
    { s1 with stack := s1.stack ++ [ln] }

/-- The lines of private accesses are filled or used: what the accesses hit first, then what they miss. -/
def State.fillParts (s : State) (g : Nat) (x : Group) (ps : List Part) : State :=
  let use (hit : Bool) (t : State) : State := ps.foldl (fun t p => match p.place with
    | .stack o => (privWords o p.size).foldl (fun t w =>
        if (t.stackFind x.core x.ctx g w).isSome == hit then t.fillLine g x w else t) t
    | _ => t) t
  use false (use true s)

/-! ## Room (R71, R72, R77) -/

/-- The words of scratch that accesses still to be performed ask of the banks, each once: the requests of one instruction in the
bank queues (R71). -/
def scrRequests (ps : List Part) : List Nat :=
  (ps.flatMap (fun a => match a.place with
    | .scratch core off => if a.done then [] else (List.range ((off % 4 + a.size + 3) / 4)).map (fun i => scrKey core (off / 4 * 4 + 4 * i) / 4)
    | _ => [])).foldl (fun (ws : List Nat) w => if ws.contains w then ws else w :: ws) []

/-- The requests that the groups of a core have in the bank queues. -/
def State.scrHeld (s : State) (core : Nat) : List Nat :=
  (s.groups.filter (fun kv => kv.2.core == core && kv.2.residence == .resident)).flatMap (fun kv => kv.2.pend.flatMap (fun q => scrRequests q.parts))

/-- Every queue that the accesses need has room for them: a bank queue holds 64 requests (R71). -/
def State.bankRoom (s : State) (x : Group) (ps : List Part) : Bool :=
  let mine := scrRequests ps
  mine.isEmpty || (let all := mine ++ s.scrHeld x.core
    mine.all (fun w => decide (all.countP (fun v => v / 2048 == w / 2048) ≤ 64)))

/-- An instruction in flight is a store to scratch. -/
def Pend.scrStore (p : Pend) : Bool := p.kind == .store && p.parts.any (fun a => match a.place with | .scratch _ _ => true | _ => false)

/-- The forwarding table has an entry for one more store to scratch: it has 16 (R72). -/
def Group.tableRoom (x : Group) (p : Pend) : Bool := !p.scrStore || decide ((x.pend.filter Pend.scrStore).length < 16)

/-- An instruction can issue its accesses: its counter is below 31 (R98), the bank queues and the forwarding table have room, and
the stack cache can hold the lines it needs. -/
def State.room (s : State) (g : Nat) (x : Group) (cl : OpClass) (p : Pend) : Bool :=
  decide (x.count cl < 31) && s.bankRoom x p.parts && x.tableRoom p && s.canFill g x p.parts

/-- One byte of a lane's private memory through the stack cache. -/
def State.privByte (s : State) (g : Nat) (x : Group) (lane o : Nat) : Nat :=
  match s.stackFind x.core x.ctx g (o / 4 * 4) with
  | some ln => (ln.data.getD lane 0#32).toNat / 2 ^ (8 * (o % 4)) % 256
  | none => 0

/-- A lane's private words of an access hold uncorrectable data. -/
def State.privBad (s : State) (g : Nat) (x : Group) (lane o n : Nat) : Bool :=
  (privWords o n).any (fun w => match s.stackFind x.core x.ctx g w with
    | some ln => ln.bad.getLsbD lane
    | none => false)

/-- Writes one byte of a lane's private memory. -/
def State.setPrivByte (s : State) (g : Nat) (x : Group) (lane o b : Nat) : State :=
  { s with stack := s.stack.map (fun n =>
      if n.core = x.core ∧ n.ctx = x.ctx ∧ n.group = g ∧ n.off = o / 4 * 4 then
        let old := (n.data.getD lane 0#32).toNat
        let sh := 8 * (o % 4)
        { n with data := n.data.set lane (BitVec.ofNat 32 (old - old / 2 ^ sh % 256 * 2 ^ sh + b % 256 * 2 ^ sh))
                 dirty := n.dirty ||| BitVec.ofNat 32 (2 ^ lane), used := s.clock }
      else n) }

/-- A write of whole words of a lane's private memory clears their marks (R406). -/
def State.privClear (s : State) (g : Nat) (x : Group) (lane o n : Nat) : State :=
  { s with stack := s.stack.map (fun ln =>
      if ln.core = x.core ∧ ln.ctx = x.ctx ∧ ln.group = g ∧ o ≤ ln.off ∧ ln.off + 4 ≤ o + n then
        { ln with bad := ln.bad &&& ~~~ BitVec.ofNat 32 (2 ^ lane) }
      else ln) }

/-- Reads n bytes of private memory, lowest first. -/
def State.privRead (s : State) (g : Nat) (x : Group) (lane o : Nat) : Nat → Nat
  | 0 => 0
  | n + 1 => s.privByte g x lane o + 256 * s.privRead g x lane (o + 1) n

/-- Writes bytes of private memory. -/
def State.privWrite (s : State) (g : Nat) (x : Group) (lane o : Nat) : List Byte → State
  | [] => s
  | b :: t => (s.setPrivByte g x lane o b.toNat).privWrite g x lane (o + 1) t

/-! ## Issue -/

/-- A place a number of bytes further on. -/
def Place.plus (p : Place) (n : Nat) : Place :=
  match p with
  | .phys pa page typ gen => .phys (pa + n) page typ gen
  | .scratch core off => .scratch core (off + n)
  | .stack off => .stack (off + n)
  | .peer fa => .peer (fa + n)

/-- A 16-byte access is two accesses of 8 bytes (R83). -/
def Part.halves (p : Part) : List Part :=
  if p.size = 16 then
    [{ p with size := 8, x := p.x % 2 ^ 64 }, { p with va := p.va + 8, place := p.place.plus 8, size := 8, x := p.x / 2 ^ 64 }]
  else [p]

/-- The pages that the accesses go through enter the TLBs of the core and its die (R377); an access that its window serves
does not visit them (R66). -/
def State.fillTlb (s : State) (u : TlbUnit) (c : Nat) (ps : List Part) : State :=
  ps.foldl (fun t p =>
    if p.win then t
    else match p.place with
    | .phys _ _ _ _ => t.tlbFill u c p.va
    | .peer _ => t.tlbFill u c p.va
    | _ => t) s

/-- The pages of the requests count toward hotness, at the frames that they have now (R387): one per line, or per atomic request. -/
def State.heat (s : State) (c : Nat) (atomic : Bool) (ps : List Part) : State :=
  let keys := ps.filterMap (fun p => match p.place with
    | .phys pa page typ gen =>
      let a := leafNow c page gen pa s.moves
      if typ < 3 then some (if atomic then a else a / 128 * 128) else none
    | _ => none)
  let ds := keys.foldl (fun (a : List Nat) k => if a.contains k then a else k :: a) []
  { s with hot := ds.foldl (fun h a => Map.set 0 h (a / 65536) (Nat.min 255 (Map.get 0 h (a / 65536) + 1))) s.hot }

/-- An access is issued: it enters its counter and its place in the group's order, and its costs are charged (R98,
R129). -/
def State.issue (s : State) (g : Nat) (p : Pend) (cs : Costs) : State :=
  let x := s.grp g
  let s1 := ((s.fillTlb (.core x.core) x.ctx p.parts).heat x.ctx p.kind.isAtomic p.parts).fillParts g x p.parts
  let s2 := s1.addCharges x.ctx (s.clock + 1) cs
  let q := { p with id := s.clock + 1, seq := x.seq, no := x.loadNo }
  let y := { x with pend := x.pend ++ [q], seq := x.seq + 1, loadNo := if p.cls = some OpClass.l then x.loadNo + 1 else x.loadNo }
  ({ s2 with clock := s.clock + 1 }).setGrp g (match p.cls with
    | some cl => y.enter cl q.id
    | none => y)

/-! ## The order of a group's accesses (R85, R88 to R91, R97, R260) -/

/-- Reads memory and returns a value. -/
def AccessKind.reads : AccessKind → Bool
  | .load => true
  | .atomic _ _ _ => true
  | _ => false

/-- Writes memory, or updates it. -/
def AccessKind.writes : AccessKind → Bool
  | .load => false
  | .fence _ => false
  | _ => true

/-- Two ranges of the sizes of two accesses share a byte. -/
def Part.near (p q : Part) (a b : Nat) : Bool := decide (a < b + q.size) && decide (b < a + p.size)

/-- Two accesses of a group of context c touch a common byte: at one place, at one virtual address, or at one current home
of pages that have moved since they were translated (R88, R100). -/
def Part.overlaps (ms : Map Move) (c : Nat) (p q : Part) : Bool :=
  match p.place, q.place with
  | .phys a pg _ gn, .phys b qg _ hn => p.near q a b || p.near q p.va q.va || p.near q (homeOf c pg gn a ms) (homeOf c qg hn b ms)
  | .scratch e a, .scratch d b => e == d && p.near q a b
  | .stack a, .stack b => p.lane == q.lane && p.near q a b
  | .peer a, .peer b => p.near q a b
  | _, _ => false

/-- A load of scratch takes what it reads of an earlier store in flight from the forwarding table (R72): no two lanes of the
store that are still to be performed write one byte of it. -/
def forwards (ms : Map Move) (c : Nat) (p q : Pend) (a : Part) : Bool :=
  p.kind == .load && q.kind == .store && (match a.place with | .scratch _ _ => true | _ => false) &&
  (let bs := q.parts.filter (fun b => !b.done && a.overlaps ms c b)
   bs.all (fun b => bs.all (fun d => b.lane == d.lane || !(b.overlaps ms c d))))

/-- Must a later access p wait for the earlier access q, given the pages in motion, the context and the list of accesses in
flight? `part` is the access of p about to be performed; none for a whole instruction or a fence. -/
def mustWait (ms : Map Move) (c : Nat) (all : List Pend) (p q : Pend) (part : Option Part) : Bool :=
  if p.seq ≤ q.seq then false
  else
    match p.kind with
    | .fence _ => (match q.kind with | .ordered _ _ _ _ => false | _ => true)
    | .ordered _ _ _ _ => true
    | .bank _ _ _ => true
    | _ =>
      q.acq || p.rel ||
      (match q.kind with
       | .fence sc => sc || p.kind.writes || !p.lane
       | _ => q.rel && q.lane && !p.lane) ||
      (q.kind.reads && p.kind.writes) ||
      (q.kind.reads && all.any (fun f => decide (q.seq < f.seq) && decide (f.seq < p.seq) &&
        (match f.kind with | .fence _ => true | _ => false))) ||
      (match part with
       | some a => !(forwards ms c p q a) && q.parts.any (fun b => !b.done && a.overlaps ms c b)
       | none => false)

/-! ## Performing (R81, R94, R251, R258) -/

/-- One step of an atomic by its `md` code (R251): the new value and the stochastic state's use. -/
def atomStep (aop : Nat) (t : Ty) (rm : Nat) (fmt : W32) (draw : W32) (old x c : Nat) : Nat :=
  let w := 2 ^ tyWidth t
  match aop with
  | 0 => if tyIsInt t then iAdd t old x else (fAdd ⟨t, modeOf rm fmt, fmtFZ fmt, draw⟩ old x).bits
  | 1 => old &&& x
  | 2 => old ||| x
  | 3 => old ^^^ x
  | 4 => if tyIsInt t then iMin t old x else (fMinMax false t (fmtFZ fmt) old x).1
  | 5 => if tyIsInt t then iMax t old x else (fMinMax true t (fmtFZ fmt) old x).1
  | 6 => x % w
  | _ => if old = c then x % w else old

/-- One step of `vbank` by its BOP code (R258). -/
def bankStep (bop : Nat) (t : Ty) (rm : Nat) (fmt : W32) (draw : W32) (m b : Nat) : Nat :=
  let k : FCtx := ⟨t, modeOf rm fmt, fmtFZ fmt, draw⟩
  match bop with
  | 0 => if tyIsInt t then iAdd t m b else (fAdd k m b).bits
  | 1 => if tyIsInt t then iSub t m b else (fSub k m b).bits
  | 2 => if tyIsInt t then iMul t m b else (fMul k m b).bits
  | 3 => if tyIsInt t then iMin t m b else (fMinMax false t (fmtFZ fmt) m b).1
  | 4 => if tyIsInt t then iMax t m b else (fMinMax true t (fmtFZ fmt) m b).1
  | 5 => m &&& b
  | 6 => m ||| b
  | _ => m ^^^ b

/-- The value a kind of access leaves in memory; none for a load. -/
def AccessKind.apply (k : AccessKind) (fmt : W32) (p : Part) (old : Nat) : Option Nat :=
  match k with
  | .store => some p.x
  | .atomic aop t rm => some (atomStep aop t rm fmt p.draw old p.x p.c)
  | .bank bop t rm => some (bankStep bop t rm fmt p.draw old p.x)
  | _ => none

/-! ### Scratch (R70) -/

/-- Reads n bytes of scratch. -/
def State.scrRead (s : State) (core off : Nat) : Nat → Nat
  | 0 => 0
  | n + 1 => (Map.get 0#8 s.scratch (scrKey core off)).toNat + 256 * s.scrRead core (off + 1) n

/-- Writes bytes of scratch; a write of a whole word clears its error bit (R406). -/
def State.scrWrite (s : State) (core off : Nat) : List Byte → State
  | [] => s
  | b :: t => ({ s with scratch := Map.set 0#8 s.scratch (scrKey core off) b }).scrWrite core (off + 1) t

/-- The words of a scratch access that carry an error bit. -/
def State.scrBad (s : State) (core off n : Nat) : Bool :=
  (List.range n).any (fun i => s.scrErr.contains (scrKey core (off + i) / 4))

/-- A write of whole words clears their error bits. -/
def State.scrClear (s : State) (core off n : Nat) : State :=
  { s with scrErr := s.scrErr.filter (fun k =>
      !((List.range (n / 4)).any (fun i => scrKey core (off + 4 * i) / 4 == k))) }

/-! ### Parts -/

/-- The access consumes what stands at its place: a load, an atomic, an update; not a store, and not a deferred atomic, which
reads nothing (R254, R395). -/
def AccessKind.needs : AccessKind → Bool
  | .store => false
  | .ordered _ _ _ _ => false
  | _ => true

/-- What performing a part answers: the state, the value read, and whether the data was uncorrectable. -/
structure Done where
  st : State
  val : Nat := 0
  bad : Bool := false
  deriving DecidableEq, Repr

/-- The line address and the location code of a physical address, for an uncorrectable record (R402, R406). -/
def State.errLoc (s : State) (h : Nat) : Nat × Nat := (h / 128 * 128, match s.typOf h with | 0 => 0 | 1 => 1 | 5 => 3 | _ => 2)

/-- The line address and the location code of a place, for an uncorrectable record (R402, R406). -/
def State.errAt (s : State) (c : Nat) : Place → Nat × Nat
  | .phys pa page _ gen => s.errLoc (homeOf c page gen pa s.moves)
  | .scratch _ _ => (0, 5)
  | _ => (0, 4)

/-- The same of one access: a private word is recorded at the home of its line's backing. -/
def State.partErr (s : State) (x : Group) (p : Part) : Nat × Nat :=
  match p.place with
  | .stack o => match s.ctxPa x.ctx (s.backing x (o / 4 * 4)) with
    | some pa => s.errLoc pa
    | none => (0, 4)
  | pl => s.errAt x.ctx pl

/-- One access performed at the current home of its bytes. -/
def State.performAt (s : State) (g : Nat) (x : Group) (k : AccessKind) (fmt : W32) (p : Part) : Done :=
  match p.place with
  | .phys pa page _ gen =>
    let h := homeOf x.ctx page gen pa s.moves
    if k.needs = true ∧ s.lineBad h = true then ⟨s, 0, true⟩
    else
      let old := s.readLE h p.size
      match k.apply fmt p old with
      | some v => ⟨s.writeMem h (leBytes p.size v), old, false⟩
      | none => ⟨s, old, false⟩
  | .scratch core off =>
    if k.needs = true ∧ s.scrBad core off p.size = true then ⟨s, 0, true⟩
    else
      let old := s.scrRead core off p.size
      match k.apply fmt p old with
      | some v => ⟨(s.scrWrite core off (leBytes p.size v)).scrClear core off p.size, old, false⟩
      | none => ⟨s, old, false⟩
  | .stack o =>
    let s1 := (privWords o p.size).foldl (fun t w => t.fillLine g x w) s
    if k.needs = true ∧ s1.privBad g x p.lane o p.size = true then ⟨s1, 0, true⟩
    else
      let old := s1.privRead g x p.lane o p.size
      match k.apply fmt p old with
      | some v => ⟨(s1.privWrite g x p.lane o (leBytes p.size v)).privClear g x p.lane o p.size, old, false⟩
      | none => ⟨s1, old, false⟩
  | .peer fa =>
    let old := getLE s.peerMem fa p.size
    match k.apply fmt p old with
    | some v => ⟨{ s with peerMem := setLE s.peerMem fa p.size v }, old, false⟩
    | none => ⟨s, old, false⟩

/-- A 64-bit value from a scalar load's bytes (R188). -/
def extendTo64 (size : Nat) (sgn : Bool) (v : Nat) : W64 :=
  if sgn then BitVec.ofInt 64 (sext (8 * size) v) else BitVec.ofNat 64 v

/-- A loaded element in its registers (R245): the registers from d up, with the words. -/
def vregWords (d sz v : Nat) : List (Nat × W32) :=
  match sz with
  | 0 => [(d, BitVec.ofNat 32 v)]
  | 1 => [(d, BitVec.ofInt 32 (sext 8 v))]
  | 2 => [(d, BitVec.ofNat 32 v)]
  | 3 => [(d, BitVec.ofInt 32 (sext 16 v))]
  | 4 => [(d, BitVec.ofNat 32 v)]
  | 5 => [(d, BitVec.ofNat 32 v), (d + 1, BitVec.ofNat 32 (v / 2 ^ 32))]
  | _ => (List.range 4).map (fun i => (d + i, BitVec.ofNat 32 (v / 2 ^ (32 * i))))

/-- The words a part writes to vector registers; a 16-byte element comes in two halves (R83). -/
def Dest.words (d : Dest) (va size v : Nat) : List (Nat × W32) :=
  match d with
  | .vreg r sz => if sz = 6 then vregWords (if va % 16 = 0 then r else r + 2) 5 v else vregWords r sz v
  | .vold r wide => if wide then vregWords r 5 v else [(r, BitVec.ofNat 32 v)]
  | .vivl r => if size = 8 then vregWords r 5 v else [(r, BitVec.ofNat 32 v), (r + 1, BitVec.ofNat 32 v)]
  | _ => []

/-- A value arrives in its register; uncorrectable data writes 0 and sets the error bit, with the number of the load (R395). -/
def Group.arrive (x : Group) (d : Dest) (p : Part) (v : Nat) (bad : Bool) (no : Nat := 0) : Group :=
  match d with
  | .none => x
  | .sreg r sgn =>
    let y := x.setSr r (if bad then 0#64 else extendTo64 p.size sgn v)
    if bad && r != 0 then { y with serr := r :: y.serr } else y
  | _ =>
    (d.words p.va p.size v).foldl (fun y kw =>
      let z := y.setVr kw.1 p.lane (if bad then 0#32 else kw.2)
      if bad then { z with verr := (32 * kw.1 + p.lane) :: z.verr, verrOf := z.verrOf.put (32 * kw.1 + p.lane) no } else z) x

/-- The whole-register destination of a `cas`: `s[sd+1]` receives the success bit (R189). -/
def Group.arriveCas (x : Group) (d : Dest) (k : AccessKind) (p : Part) (v : Nat) (bad : Bool) : Group :=
  match d, k with
  | .sreg r _, .atomic 7 _ _ => if bad then x else x.setSr (r + 1) (if v = p.c then 1#64 else 0#64)
  | _, _ => x

/-! ### Requests (R71, R80, R81) -/

/-- The accesses of an instruction that are one request, or that one controller serves one after another: lanes of an atomic at
one address (R81), accesses of one region of memory (R80), of one line of a peer, of one word of scratch (R71). -/
def State.together (s : State) (c : Nat) (k : AccessKind) (a b : Part) : Bool :=
  match a.place, b.place with
  | .phys p pg _ gn, .phys q qg _ hn =>
    if k.isAtomic then p == q
    else s.region (homeOf c pg gn p s.moves) == s.region (homeOf c qg hn q s.moves)
  | .scratch e p, .scratch d q => e == d && (if k.isAtomic then p == q else p / 4 == q / 4)
  | .peer p, .peer q => if k.isAtomic then p == q else p / 128 == q / 128
  | .stack _, .stack _ => a.lane == b.lane
  | _, _ => false

/-- Two accesses of one instruction are in one request: they are performed only together. -/
def sameRequest (k : AccessKind) (a b : Part) : Bool :=
  match a.place, b.place with
  | .phys p _ _ _, .phys q _ _ _ => if k.isAtomic then p == q else p / 128 == q / 128
  | .scratch e p, .scratch d q => e == d && (if k.isAtomic then p == q else p / 4 == q / 4)
  | .peer p, .peer q => if k.isAtomic then p == q else p / 128 == q / 128
  | _, _ => false

/-- Nothing forbids an access now: its place is served, and no earlier access of its group must be performed first. -/
def State.open_ (s : State) (x : Group) (p : Pend) (a : Part) : Bool :=
  !a.done && s.served x.ctx a && !(x.pend.any (fun q => mustWait s.moves x.ctx x.pend p q (some a)))

/-- The banks of an access to scratch (R70, R71). -/
def Part.banks (a : Part) : List Nat :=
  match a.place with
  | .scratch core off => (List.range ((off % 4 + a.size + 3) / 4)).map (fun i => scrKey core (off / 4 * 4 + 4 * i) / 8192)
  | _ => []

/-- An access to scratch is the oldest in the queue of each of its banks (R71): no request of an instruction that issued
before it, of any group of the core, waits there to be served. -/
def State.bankFirst (s : State) (x : Group) (p : Pend) (a : Part) : Bool :=
  let bs := a.banks
  bs.isEmpty || !(s.groups.any (fun kv => kv.2.core == x.core && kv.2.residence == .resident && kv.2.pend.any (fun q =>
    decide (q.id < p.id) && q.parts.any (fun b => b.banks.any (fun n => bs.contains n) && s.open_ kv.2 q b))))

/-- Lanes below, of an instruction whose lanes are not combined, that still have to update the same word (R258). -/
def Pend.lower (p : Pend) (a : Part) : Bool :=
  p.kind.apart && p.parts.any (fun b => !b.done && b.place == a.place && decide (b.lane < a.lane))

/-- An access can be performed: its whole request can. -/
def State.free (s : State) (x : Group) (p : Pend) (a : Part) : Bool :=
  !a.done && p.parts.all (fun b => b.done || !(b == a || (!p.kind.apart && sameRequest p.kind a b)) || (s.open_ x p b && s.bankFirst x p b))

/-- The accesses in the order in which one step performs them: by line, then by lane. Where lanes of a store write a common
byte, which of their values stays is a free choice (R83, R5). -/
def Pend.order (p : Pend) (free : Nat) (js : List Nat) : List Nat :=
  let part (j : Nat) : Part := p.parts.getD j {}
  let line (j : Nat) : Nat := match (part j).place with | .phys pa _ _ _ => pa / 128 | _ => 0
  let sorted := js.foldr (fun j (l : List Nat) =>
    l.takeWhile (fun i => decide (line i < line j)) ++ j :: l.dropWhile (fun i => decide (line i < line j))) []
  let clash (j : Nat) : Bool := p.kind == .store && js.any (fun i => i != j && (part i).place == (part j).place)
  let late (j : Nat) : Bool := clash j && Config.freeChoice (free + j)
  sorted.filter (fun j => !(late j)) ++ sorted.filter late

/-- A load of scratch takes each byte from the youngest store of its group that is still in the forwarding table, or from its
bank (R72): the value, and whether it holds a byte of a word with uncorrectable data. -/
def State.scrLoad (s : State) (x : Group) (p : Pend) (core off : Nat) : Nat → Nat × Bool
  | 0 => (0, false)
  | n + 1 =>
    let rest := s.scrLoad x p core (off + 1) n
    let hit := (x.pend.filter (fun q => decide (q.seq < p.seq) && q.kind == .store)).foldl (fun (b : Option Nat) q =>
      q.parts.foldl (fun b c => match c.place with
        | .scratch d o => if !c.done && d == core && decide (o ≤ off) && decide (off < o + c.size) then some (c.x / 2 ^ (8 * (off - o)) % 256) else b
        | _ => b) b) none
    match hit with
    | some v => (v + 256 * rest.1, rest.2)
    | none => ((Map.get 0#8 s.scratch (scrKey core off)).toNat + 256 * rest.1, rest.2 || s.scrBad core off 1)

/-- One access of an instruction as it is performed: at its place, or, for a load of scratch, with what is forwarded to it. -/
def State.performIn (s : State) (g : Nat) (x : Group) (p : Pend) (a : Part) : Done :=
  match p.kind, a.place with
  | .load, .scratch core off =>
    let r := s.scrLoad x p core off a.size
    ⟨s, if r.2 then 0 else r.1, r.2⟩
  | _, _ => s.performAt g x p.kind p.fmt a

/-- Copies of lines in the L1 cache of a core, of one context, that satisfy a test are dropped (R9, R350). -/
def State.l1Drop (s : State) (core c : Nat) (q : L1Line → Bool) : State :=
  { s with l1 := s.l1.filter (fun n => !(n.core == core && n.ctx == c && q n)) }

/-- An acquire of a scope wider than its group makes later loads read memory: the core keeps no copy (R90). -/
def State.l1Acquire (s : State) (x : Group) (scope : Nat) : State :=
  if scope = 0 ∨ (scope = 1 ∧ (s.blockOf x).span = 1) then s else s.l1Drop x.core x.ctx (fun _ => true)

/-- Performs one access, which nothing forbids: its value arrives in its register. An access at memory leaves no older copy
of its line in the L1 cache of its core. -/
def State.performOne (s : State) (g id j : Nat) : State :=
  let x := s.grp g
  match x.pend.find? (fun p => p.id == id) with
  | none => s
  | some p =>
    match p.parts[j]? with
    | none => s
    | some a =>
      let r := s.performIn g x p a
      let e := s.partErr x a
      let s1 := if r.bad then r.st.postGrp g .fault 4 cData e.1 e.2 else r.st
      let s2 := match a.place with
        | .phys pa page _ gen => s1.l1Drop x.core x.ctx (fun n => n.line == homeOf x.ctx page gen pa s.moves / 128)
        | _ => s1
      let s3 := if p.acq then s2.l1Acquire x p.scope else s2
      let y := ((s3.grp g).arrive p.dest a r.val r.bad p.no).arriveCas p.dest p.kind a r.val r.bad
      let p' := { p with parts := p.parts.set j { a with done := true, val := r.val, bad := r.bad } }
      s3.setGrp g { y with pend := y.pend.map (fun q => if q.id = id then p' else q) }

/-- The sector of an access with the resource that serves it (R129). -/
def State.sectorOf (s : State) (a : Part) : Option (Resource × Nat) :=
  match a.place with
  | .phys pa _ typ _ => some (s.resOf typ pa, pa / 32)
  | .peer fa => some ((s.peerItem 0 fa 0).res, fa / 32)
  | _ => none

/-- The bytes of an instruction that are complete on a resource: its sectors all of whose accesses are performed (R129). -/
def State.doneBytes (s : State) (p : Pend) (r : Resource) : Nat :=
  let mine := p.parts.filterMap (fun a => match s.sectorOf a with | some (q, k) => if q = r then some (k, a.done) else none | none => none)
  let keys := mine.foldl (fun (ks : List Nat) k => if ks.contains k.1 then ks else k.1 :: ks) []
  32 * keys.countP (fun k => mine.all (fun m => m.1 != k || m.2))

/-- The lines of memory that stores of one operation cover whole lose their records (R391, R406). -/
def State.clearParts (s : State) (c : Nat) (ps : List Part) : State :=
  if s.errLines.isEmpty && s.errFrames.isEmpty then s
  else
    let places := ps.foldl (fun (l : List (Place × Nat)) a => if l.contains (a.place, a.size) then l else (a.place, a.size) :: l) []
    places.foldl (fun t pl => match pl.1 with
      | .phys pa page _ gen =>
        let n := places.foldl (fun n q => match q.1 with | .phys b _ _ _ => if b / 128 = pa / 128 then n + q.2 else n | _ => n) 0
        if n = 128 then t.clearLines (homeOf c page gen pa t.moves / 128 * 128) 128 else t
      | _ => t) s

/-- The lines that a store instruction has covered so far lose their records. -/
def State.clearStored (s : State) (c : Nat) (p : Pend) : State :=
  if p.kind = .store then s.clearParts c (p.parts.filter (fun a => a.done)) else s

/-- Performs accesses of an instruction in flight, one after another with nothing between them, and releases the charge of
what has become complete (R129). -/
def State.performSome (s : State) (g id : Nat) (js : List Nat) : State :=
  match (s.grp g).pend.find? (fun p => p.id == id) with
  | none => s
  | some p =>
    let c := (s.grp g).ctx
    let s1 := (p.order s.freeCtr js).foldl (fun t j => t.performOne g id j) s
    match (s1.grp g).pend.find? (fun q => q.id == id) with
    | none => s1
    | some q =>
      let s2 := (s1.clearStored c q).releaseBy c id (s.doneBytes p) (s.doneBytes q)
      if p.kind = .store ∧ 1 < js.length then { s2 with freeCtr := s2.freeCtr + p.parts.length } else s2

/-- Performs the request that holds part j of an access in flight, with what its controller serves along with it (R80),
where nothing forbids them yet. -/
def State.performPart (s : State) (g id j : Nat) : State :=
  let x := s.grp g
  match x.pend.find? (fun p => p.id == id) with
  | none => s
  | some p =>
    match p.parts[j]? with
    | none => s
    | some a =>
      if s.free x p a && !(p.lower a) then
        s.performSome g id ((List.range p.parts.length).filter (fun i =>
          match p.parts[i]? with
          | some b => i == j || (!p.kind.apart && s.together x.ctx p.kind a b && s.free x p b)
          | none => false))
      else s

/-- An access whose parts are all performed is complete: it leaves its counter, and its charge is released (R98,
R129); the watch hits found at its issue can be posted (R439). -/
def State.retirePend (s : State) (g id : Nat) : State :=
  let x := s.grp g
  match x.pend.find? (fun p => p.id == id) with
  | none => s
  | some p =>
    let fence := match p.kind with | .fence _ => true | _ => false
    let waits := fence && x.pend.any (fun q => mustWait s.moves x.ctx x.pend p q none)
    if p.parts.all (fun a => a.done) && !waits then
      let s0 := if fence then s.l1Acquire x p.scope else s
      let s1 := s0.release x.ctx id
      let c := s1.ctx x.ctx
      let s2 := s1.setCtx x.ctx { c with hits := c.hits ++ p.watch }
      let y := x.finishOp id
      s2.setGrp g { y with pend := y.pend.filter (fun q => q.id != id) }
    else s

/-- Performs what it may of an access in flight, in one step, and completes it where all is performed. -/
def State.perform (s : State) (g id : Nat) : State :=
  let x := s.grp g
  match x.pend.find? (fun p => p.id == id) with
  | none => s
  | some p =>
    (s.performSome g id ((List.range p.parts.length).filter (fun i =>
      match p.parts[i]? with
      | some a => s.free x p a
      | none => false))).retirePend g id

/-- One part of a plain load in flight is served from the copy of its line that the L1 cache of its core holds (R9). -/
def State.cacheHit (s : State) (g id j : Nat) : State :=
  let x := s.grp g
  match x.pend.find? (fun p => p.id == id) with
  | none => s
  | some p =>
    match p.parts[j]? with
    | none => s
    | some a =>
      match a.place with
      | .phys pa page _ gen =>
        let h := homeOf x.ctx page gen pa s.moves
        match s.l1.find? (fun n => n.core == x.core && n.ctx == x.ctx && n.line == h / 128) with
        | some n =>
          if p.kind = .load ∧ p.acq = false ∧ s.free x p a = true then
            let v := leNat ((n.data.drop (h % 128)).take a.size)
            let p' := { p with parts := p.parts.set j { a with done := true, val := v } }
            let y := x.arrive p.dest a v false
            (s.setGrp g { y with pend := y.pend.map (fun q => if q.id = id then p' else q) }).releaseBy x.ctx id (s.doneBytes p) (s.doneBytes p')
          else s
        | none => s
      | _ => s

/-- The L1 cache of a core takes a copy of a line for a context, and the L2 cache of the line's die holds it: of HBM4, LPDDR,
CXL or host memory, not of a dome (R73), nor of a line with uncorrectable data. 2,048 lines an L1, 524,288 an L2 (R9). -/
def State.cacheFill (s : State) (l2 : Bool) (core c pa : Nat) : State :=
  let typ := s.typOf pa
  if typ = 5 ∨ s.lineBad pa = true ∨ s.l1.any (fun n => n.core == core && n.ctx == c && n.line == pa / 128) = true then s
  else
    let die := s.dieOf typ pa
    let s1 := if typ < 2 ∧ (s.l2.filter (fun n => n.die == die)).length < 524288 ∧ s.l2.contains ⟨die, pa / 128⟩ = false then
        { s with l2 := s.l2 ++ [⟨die, pa / 128⟩] } else s
    if l2 = true ∨ 2048 ≤ (s.l1.filter (fun n => n.core == core)).length then s1
    else { s1 with l1 := s1.l1 ++ [⟨core, c, pa / 128, s.readMem (pa / 128 * 128) 128⟩] }

end Sys2Proof.Machine
end

