-- ==== Sys2Proof/Machine/Code.lean ====
section
/-!
DEFINITION. Fetching code from the launch's own relocated copy of the image (10 R170, R175), scalar words, lane instructions and
constants; the register scoreboard between the scalar thread and the lane queue (02 R16, 12 R216).
-/
namespace Sys2Proof.Machine

/-- One byte of code; none where the page is missing. -/
def State.codeByte (s : State) (x : Group) (a : Nat) : Option Byte :=
  match s.walk x.ctx (a % 2 ^ 57) with
  | .leaf l => some (if leafType l.bits = 4 then getByte s.peerMem (leafPa l (a % 2 ^ 57)) else getByte s.mem (s.leafHome x.ctx (a % 2 ^ 57) l))
  | _ => none

/-- Bytes of code from an address up. -/
def State.codeBytes (s : State) (x : Group) (a : Nat) : Nat → Option (List Byte)
  | 0 => some []
  | n + 1 =>
    match s.codeByte x a, s.codeBytes x (a + 1) n with
    | some b, some t => some (b :: t)
    | _, _ => none

/-- What a fetch finds. -/
inductive Fetched where
  /-- The bytes. -/
  | bytes (bs : List Byte)
  /-- The page is missing: its address. -/
  | missing (page : Nat)
  /-- The address lies outside the code, or is misaligned, or its translation is malformed (R191). -/
  | bad
  /-- A line of it is recorded as uncorrectable: its address and its location code (R406). -/
  | spoilt (loc : Nat × Nat)
  deriving DecidableEq, Repr

/-- The address and the location code of the line with uncorrectable data among n bytes of code (R402, R406). -/
def State.fetchErr (s : State) (x : Group) (a n : Nat) : Nat × Nat :=
  match s.ctxPa x.ctx (if s.vBad x.ctx a 1 then a else a + n - 1) with
  | some pa => s.errLoc pa
  | none => (0, 4)

/-- Bytes of code, or why there are none. -/
def State.fetchAt (s : State) (x : Group) (a n : Nat) : Fetched :=
  match s.codeBytes x a n with
  | some bs => if s.vBad x.ctx a n then .spoilt (s.fetchErr x a n) else .bytes bs
  | none =>
    match s.walk x.ctx (a % 2 ^ 57) with
    | .malformed => .bad
    | .absent => .missing (a / 65536 * 65536)
    | .leaf _ => .missing ((a + n - 1) / 65536 * 65536)

/-- The scalar word at `pc`: pc is a byte offset from the `.scode` base (R191). -/
def State.fetchScalar (s : State) (x : Group) (pc : Nat) : Fetched :=
  let k := s.kd x
  if pc % 4 ≠ 0 ∨ k.ssize ≤ pc then .bad else s.fetchAt x (k.sbase + pc) 4

/-- The lane instruction number p from the lane base (R150). -/
def State.fetchLane (s : State) (x : Group) (p : Nat) : Fetched :=
  let k := s.kd x
  if k.lsize < 12 * p + 12 then .bad else s.fetchAt x (k.lbase + 12 * p) 12

/-- The decoded lane instruction at a position; none where it cannot be fetched or is no instruction. -/
def State.laneAt (s : State) (x : Group) (p : Nat) : Option Instr :=
  match s.fetchLane x p with
  | .bytes bs => match decodeLaneBytes bs with | .ok (i, _) => some i | .error _ => none
  | _ => none

/-- The E bit of the lane word at a position. -/
def State.laneEnd (s : State) (x : Group) (p : Nat) : Bool :=
  match s.fetchLane x p with
  | .bytes bs => (bs.getD 0 0#8).getLsbD 0
  | _ => true

/-- The instructions of a block from a position to its end. -/
def State.blockFrom (s : State) (x : Group) (start pos : Nat) : Nat → List Instr
  | 0 => []
  | n + 1 =>
    (match s.laneAt x (start + pos) with | some i => [i] | none => []) ++
    (if s.laneEnd x (start + pos) then [] else s.blockFrom x start (pos + 1) n)

/-- The queued lane instructions that have not issued. -/
def State.queued (s : State) (x : Group) : List Instr :=
  x.queue.flatMap (fun b => s.blockFrom x b.start b.pos (256 - b.pos))

/-- A lane instruction that accesses memory or fences: one that takes a place among its group's accesses (R84). -/
def accessesMem (i : Instr) : Bool :=
  match i with
  | .vld _ | .vst _ | .vldg _ | .vstg _ | .vlds _ | .vsts _ | .vldd _ | .vstd _ | .vatom _ | .vatomOrd _ | .vbank _ | .fence _ => true
  | _ => false

/-- A block holds, from a position on, an instruction that accesses memory, or code that is not there to tell. -/
def State.blockAccesses (s : State) (x : Group) (start pos : Nat) : Nat → Bool
  | 0 => false
  | n + 1 =>
    match s.fetchLane x (start + pos) with
    | .missing _ => true
    | .spoilt _ => true
    | .bad => false
    | .bytes bs =>
      (match decodeLaneBytes bs with | .ok (i, _) => accessesMem i | .error _ => false) ||
      (!((bs.getD 0 0#8).getLsbD 0) && s.blockAccesses x start (pos + 1) n)

/-- A queued lane instruction that has not issued accesses memory (R85). -/
def State.memQueued (s : State) (x : Group) : Bool := x.queue.any (fun b => s.blockAccesses x b.start b.pos (256 - b.pos))

/-- The registers an instruction in the lane queue touches on the scalar side: scalar registers read, scalar registers
written, masks written (R16, R216). -/
structure ScalarUse where
  reads : List Nat := []
  writes : List Nat := []
  masks : List Nat := []
  deriving DecidableEq, Repr

/-- What a lane instruction touches on the scalar side. -/
def laneUse (i : Instr) : ScalarUse :=
  match i with
  | .vadd x | .vsub x | .vmul x | .vmulh x | .vmad x | .vmin x | .vmax x | .vand x | .vor x | .vxor x
  | .vandn x | .vshl x | .vshr x | .vsra x | .vclz x | .vpopc x | .vbrev x | .vbfe x | .vbfi x | .vsel x
  | .vmov x | .vfadd x | .vfsub x | .vfmul x | .vfma x | .vfms x | .vfnma x | .vfmin x | .vfmax x | .vfdiv x
  | .vfsqrt x | .vfcls x | .vcvt x | .vexp2 x | .vlog2 x | .vsin x | .vcos x | .vrcp x | .vrsq x | .vbfly x
  | .vtwid x | .vcmul x | .vdot x | .vshfl x | .vscan x | .vbcast x | .vlid x | .ivhull x | .ivwid x | .ivsum x => { reads := [x.ss] }
  | .vcmp x | .vfcmp x => { reads := [x.ss], masks := [x.vd] }
  | .vtos x | .vred x => { writes := [x.ss] }
  | .vmsk x => { reads := [x.ss], masks := if x.md = 7 then [] else [x.vd] }
  | .ivcmp x => { reads := [x.ss], masks := [x.vd % 16, x.vd / 16] }
  | .tld x | .tst x | .tzero x | .tmma x | .tmmq x | .tcvt x | .tadd x | .tmerge x | .sigz x | .sigx x
  | .sigj x | .siglog x => { reads := [x.ss] }
  | _ => {}

/-- Scalar registers that accesses in flight will write. -/
def Group.pendS (x : Group) : List Nat :=
  x.pend.flatMap (fun p => match p.dest, p.kind with
    | .sreg d _, .atomic 7 _ _ => [d, d + 1]
    | .sreg d _, _ => [d]
    | _, _ => [])

/-- Vector registers that accesses in flight will write. -/
def Group.pendV (x : Group) : List Nat :=
  x.pend.flatMap (fun p => match p.dest with
    | .vreg d sz => if sz = 6 then [d, d + 1, d + 2, d + 3] else if sz = 5 then [d, d + 1] else [d]
    | .vold d wide => if wide then [d, d + 1] else [d]
    | .vivl d => [d, d + 1]
    | _ => [])

/-- A list of registers has one in common with another; `s0` is never waited for. -/
def meets (a b : List Nat) : Bool := a.any (fun r => r != 0 && b.contains r)

/-- THE SCOREBOARD (R16, R216): a scalar instruction waits for the writes of its sources, of the masks it reads and of
its destinations, and for the reads of its destinations by queued lane instructions. -/
def State.scoreWaits (s : State) (x : Group) (reads writes masks : List Nat) : Bool :=
  meets (reads ++ writes) x.pendS ||
  (!x.queue.isEmpty && (s.queued x).any (fun i =>
    let u := laneUse i
    meets (reads ++ writes) u.writes || meets writes u.reads || meets masks u.masks))

end Sys2Proof.Machine
end

