-- ==== Sys2Proof/Machine/Frame.lean ====
section
/-!
DEFINITION. Locket frames (22 R352, R353): a group's state as bytes, saving a group and restoring it (02 R17, R39, R40,
03 R60, R62, 25 R397 to R399, 28 R435, R436), the registers and groups of a slot (R19, R37).
-/
namespace Sys2Proof.Machine

/-! ## What a slot holds (R19, R37, R39) -/

/-- The resident groups of a slot of a core. -/
def State.slotGroups (s : State) (core slot : Nat) : List (Nat × Group) :=
  s.groups.filter (fun kv => kv.2.core == core && kv.2.slot == slot && kv.2.residence == .resident)

/-- Free vector registers per lane of a slot (512 KiB), and free scalar registers (32,768 entries). -/
def State.freeV (s : State) (core slot : Nat) : Nat :=
  4096 - (s.slotGroups core slot).foldl (fun a kv => a + 8 * kv.2.valloc) 0
/-- Free scalar registers of a slot. -/
def State.freeS (s : State) (core slot : Nat) : Nat :=
  32768 - (s.slotGroups core slot).foldl (fun a kv => a + 64 * kv.2.salloc) 0

/-- A saved group fits its slot again. -/
def State.fits (s : State) (x : Group) : Bool :=
  decide (8 * x.valloc ≤ s.freeV x.core x.slot) && decide (64 * x.salloc ≤ s.freeS x.core x.slot) &&
  decide ((s.slotGroups x.core x.slot).length < 96)

/-! ## A frame as bytes (R353) -/

/-- A window in the layout of R65. -/
def Window.word (w : Window) : Nat :=
  w.vbase * 2 ^ 135 + w.frame * 2 ^ 83 + w.lim * 2 ^ 61 + w.tag * 2 ^ 45 + w.typ * 2 ^ 42 + b2n w.prd * 2 ^ 41 +
    b2n w.pwr * 2 ^ 40 + b2n w.pat * 2 ^ 39 + b2n w.v * 2 ^ 38 + b2n w.st * 2 ^ 37

/-- A window read from that layout. -/
def windowOf (n : Nat) : Window :=
  { vbase := bits n 191 135, frame := bits n 134 83, lim := bits n 82 61, tag := bits n 60 45, typ := bits n 44 42
    prd := bitOf n 41, pwr := bitOf n 40, pat := bitOf n 39, v := bitOf n 38, st := bitOf n 37 }

/-- The code of KIND (R44). -/
def FKind.code : FKind → Nat
  | .free => 0 | .ordinary => 1 | .joinWait => 2

/-- A frontier entry in the layout of R44. -/
def FEntry.word (e : FEntry) : Nat :=
  e.mask.toNat * 2 ^ 160 + e.jset.toNat * 2 ^ 128 + e.fmt.toNat * 2 ^ 96 + e.addr * 2 ^ 64 + e.kind.code * 2 ^ 62 +
    b2n e.hnd * 2 ^ 61 + e.sd * 2 ^ 51 + e.tleft * 2 ^ 35

/-- A frontier entry read from that layout. A deadline that had been reached has passed since (R55). -/
def fentryOf (n : Nat) : FEntry :=
  { kind := match bits n 63 62 with | 1 => .ordinary | 2 => .joinWait | _ => .free
    lapsed := bits n 63 62 == 2 && bits n 50 35 == 0
    mask := BitVec.ofNat 32 (bits n 191 160), jset := BitVec.ofNat 32 (bits n 159 128), fmt := BitVec.ofNat 32 (bits n 127 96)
    addr := bits n 95 64, hnd := bitOf n 61, sd := bits n 60 51, tleft := bits n 50 35 }

/-- A held block: start, position, captured mask, captured `%fmt`. -/
def LaneBlock.bytes (b : LaneBlock) : List Byte :=
  leBytes 4 b.start ++ leBytes 4 b.pos ++ leBytes 4 b.mask.toNat ++ leBytes 4 b.fmt.toNat

/-- Bytes padded with zeros to a length. -/
def padTo (n : Nat) (bs : List Byte) : List Byte := bs ++ List.replicate (n - bs.length) 0#8

/-- The rest of a block behind the instruction at its position (R57). -/
def State.restOf (s : State) (x : Group) (b : LaneBlock) : List LaneBlock :=
  if 255 ≤ b.pos ∨ s.laneEnd x (b.start + b.pos) = true then []
  else [{ b with pos := b.pos + 1, redo := none, ordq := none, bad := 0#32 }]

/-- The held queue (R57, R60): the rest of the block of I, and the blocks behind it, of a live trap record or after a page
fault; else the lane queue. -/
def State.heldBlocks (s : State) (x : Group) : List LaneBlock :=
  match x.trap with
  | some r => (match r.i with | some b => s.restOf x b | none => []) ++ r.held
  | none => match x.replay with
    | some b => s.restOf x b ++ x.queue.drop 1
    | none => x.queue

/-- The trap record, 24 bytes; the held-queue count stands in it also where no record is live. -/
def State.trecBytes (s : State) (x : Group) : List Byte :=
  let n := leBytes 1 (Nat.min 8 (s.heldBlocks x).length)
  match x.trap with
  | none => List.replicate 22 0#8 ++ n ++ leBytes 1 0
  | some r =>
    leBytes 4 r.pc.toNat ++ leBytes 4 r.m0.toNat ++ leBytes 4 r.fmt.toNat ++ leBytes 4 r.f.toNat ++
      leBytes 4 (match r.i with | some b => b.pos | none => r.tcause.toNat / 65536) ++ leBytes 2 (r.tcause.toNat % 65536) ++
      n ++ leBytes 1 1

/-- One entry of the lane unit table (R304, R353). -/
def LaneUnit.bytes (u : LaneUnit) : List Byte :=
  match u.unit with
  | some r => leBytes 8 r.word.toNat ++ leBytes 1 r.level ++ leBytes 1 (1 + 2 * b2n u.done + 4 * b2n u.nan) ++ List.replicate 6 0#8
  | none => leBytes 8 0 ++ leBytes 1 0 ++ leBytes 1 (2 * b2n u.done + 4 * b2n u.nan) ++ List.replicate 6 0#8

/-- The frame of a group, but for its registers: the first 0x800 bytes. -/
def State.frameHead (s : State) (x : Group) (cause : Nat) : List Byte :=
  leBytes 2 (s.lau x.launch).lid ++ leBytes 2 x.gid ++ leBytes 1 x.salloc ++ leBytes 1 x.valloc ++ leBytes 1 cause ++ leBytes 1 0 ++
  leBytes 8 (x.age.getD 0) ++ leBytes 4 x.fflags.toNat ++ leBytes 4 x.vmode.toNat ++ leBytes 4 x.stklim ++
  leBytes 4 (x.sigdim + 256 * x.sigdepth) ++ leBytes 4 (x.blevel + 256 * x.blimit + 65536 * b2n x.interval) ++
  leBytes 4 x.fmt.toNat ++ leBytes 8 x.hseq ++
  leBytes 8 (x.count .l + 2 ^ 5 * x.count .s + 2 ^ 10 * x.count .c + 2 ^ 15 * x.count .t + 2 ^ 20 * x.count .k) ++ leBytes 8 0 ++
  leBytes 4 0 ++ (List.range 15).flatMap (fun k => leBytes 4 (x.mask (k + 1)).toNat) ++
  (List.range 16).flatMap (fun k => leBytes 24 (x.win k).word) ++
  (List.range 16).flatMap (fun k => leBytes 24 (x.front.getD k {}).word) ++
  leBytes 4 x.pc.toNat ++ leBytes 4 x.m0.toNat ++ s.trecBytes x ++
  padTo 128 (((s.heldBlocks x).take 8).flatMap LaneBlock.bytes) ++
  (match x.replay with
   | some b => leBytes 4 1 ++ leBytes 4 (b.redo.getD 0#32).toNat ++ leBytes 4 b.pos ++ List.replicate 20 0#8
   | none => List.replicate 32 0#8) ++
  leBytes 8 x.rstack.length ++ padTo 32 ((x.rstack.take 16).flatMap (leBytes 2)) ++ List.replicate 24 0#8 ++
  (List.range 32).flatMap (fun l => leBytes 4 (x.lfsr.getD l 1#32).toNat) ++
  (List.range 32).flatMap (fun l => (Map.get {} x.lut l).bytes) ++ List.replicate 256 0#8

/-- The registers of a frame, from 0x800. -/
def Group.frameRegs (x : Group) : List Byte :=
  (List.range (64 * x.salloc)).flatMap (fun k => leBytes 8 (x.sr k).toNat) ++
  (List.range (8 * x.valloc)).flatMap (fun k => (List.range 32).flatMap (fun l => leBytes 4 (x.vr k l).toNat))

/-- The address of a group's locket frame (R352). -/
def State.frameAt (s : State) (x : Group) : Nat := (s.ctx x.ctx).lkbase.toNat + 40960 * x.locket

/-- The offset of vector registers in a frame. -/
def Group.vregAt (x : Group) : Nat := 0x800 + 512 * x.salloc

/-- The offsets in the frame of the register entries that carry error bits. -/
def Group.badOffsets (x : Group) : List Nat :=
  x.serr.map (fun k => 0x800 + 8 * k) ++ x.verr.map (fun k => x.vregAt + 4 * k)

/-- Posts a page-fault record for a page of a context that has no unresolved one (R397). -/
def State.postPage (s : State) (c page lid gid acc : Nat) : State :=
  if (s.ctx c).pfRecs.contains page then s
  else
    let s1 := s.post c .fault 1 0 lid gid page acc
    let y := s1.ctx c
    s1.setCtx c { y with pfRecs := page :: y.pfRecs }

/-- A group is saved to its locket frame (R353): its dirty stack-cache lines are written back, marked entries are
recorded at the home of their line (R406), its registers are free. A frame that is not resident stops the context
(R399). -/
def State.saveGroup (s : State) (g cause : Nat) : State :=
  let x := s.grp g
  let a := s.frameAt x
  match s.ctxPa x.ctx a, s.ctxPa x.ctx (a + 40959) with
  | some _, some _ =>
    let mine := s.stack.filter (fun n => n.ctx == x.ctx && n.group == g)
    let s1 := mine.foldl State.dropLine s
    let s2 := s1.vWriteBytes x.ctx a (s1.frameHead x cause ++ x.frameRegs)
    let s3 := x.badOffsets.foldl (fun t o =>
      match t.ctxPa x.ctx (a + o) with
      | some pa => t.recordLine pa
      | none => t) s2
    s3.setGrp g { x with residence := .saved cause, savedGt := s.gtime, savedDie := dieOfCore x.core }
  | _, _ =>
    let page := (if (s.ctxPa x.ctx a).isNone then a else a + 40959) / 65536 * 65536
    let c := s.ctx x.ctx
    if c.lkFault.isSome then s
    else
      let s1 := s.post x.ctx .fault 5 0 (s.lau x.launch).lid x.gid a 0
      let y := s1.ctx x.ctx
      s1.setCtx x.ctx { y with lkFault := some page }

/-- Every element of a range of the frame's bytes is 0. -/
def State.frameZero (s : State) (c a off n : Nat) : Bool := s.vRead c (a + off) n == 0

/-- A frame that can be restored (R436): no reserved field is set, no count or pair is beyond its limit, and the
allocations are those of the stop. -/
def State.frameOk (s : State) (x : Group) : Bool :=
  let a := s.frameAt x
  let rd (off n : Nat) : Nat := s.vRead x.ctx (a + off) n
  rd 4 1 == x.salloc && rd 5 1 == x.valloc && decide (rd 6 1 < 7) && rd 7 1 == 0 && decide (rd 2 2 < 1024) &&
  decide (rd 0x1C 4 < 65536) && decide (rd 0x20 4 < 131072) && decide (rd 0x30 8 < 2 ^ 25) && rd 0x40 4 == 0 &&
  decide (rd 0x10 4 < 32) && decide (rd 0x14 4 < 2) && fmtValid (rd 0x24 4) &&
  (List.range 16).all (fun k => rd (0x80 + 24 * k) 8 % 2 ^ 37 == 0 && rd (0x200 + 24 * k) 8 % 2 ^ 35 == 0 &&
    bits (rd (0x200 + 24 * k) 8) 63 62 != 3 && (bits (rd (0x200 + 24 * k) 8) 63 62 == 0 || fmtValid (rd (0x20C + 24 * k) 4))) &&
  rd 0x39D 1 == 0 && decide (rd 0x39E 1 ≤ 8) && decide (rd 0x39F 1 < 2) && (rd 0x39F 1 == 0 || fmtValid (rd 0x390 4)) &&
  (List.range (rd 0x39E 1)).all (fun k => fmtValid (rd (0x3AC + 16 * k) 4)) &&
  decide (rd 0x420 4 < 2) && rd 0x42C 20 == 0 && decide (rd 0x440 8 ≤ 16) && rd 0x468 24 == 0 &&
  (List.range 32).all (fun l => decide (rd (0x509 + 16 * l) 1 < 8) && rd (0x50A + 16 * l) 6 == 0) && rd 0x700 256 == 0

/-- The sum of the allocations that a frame admits (R353). -/
def allocFits (salloc valloc : Nat) : Bool := decide (salloc + 2 * valloc ≤ 76)

/-- A lane's unit read from a frame; the dispenser's number of it stays that of the group. -/
def LaneUnit.reread (u : LaneUnit) (word level flags : Nat) : LaneUnit :=
  { unit := if flags % 2 = 1 then
        some (match u.unit with
          | some r => { r with word := BitVec.ofNat 64 word, level := level }
          | none => { word := BitVec.ofNat 64 word, level := level })
      else none
    done := bitOf flags 1, nan := bitOf flags 2 }

/-- The blocks of a queue as HELD holds them from its entry k on. What HELD does not hold of a block is what it was. -/
def State.rereadBlocks (s : State) (c held : Nat) : Nat → List LaneBlock → List LaneBlock
  | _, [] => []
  | k, b :: t =>
    let rd (off : Nat) : Nat := s.vRead c (held + 16 * k + off) 4
    { b with start := rd 0, pos := rd 4, mask := BitVec.ofNat 32 (rd 8), fmt := BitVec.ofNat 32 (rd 12) } :: s.rereadBlocks c held (k + 1) t

/-- The trap record as the frame holds it (R353). -/
def State.rereadTrap (s : State) (x : Group) (r : TrapRec) : TrapRec :=
  let a := s.frameAt x
  let rd (off n : Nat) : Nat := s.vRead x.ctx (a + off) n
  let rdw (off : Nat) : W32 := BitVec.ofNat 32 (rd off 4)
  { r with
    pc := BitVec.ofNat 64 (rd 0x388 4), m0 := rdw 0x38C, fmt := rdw 0x390, f := rdw 0x394
    i := r.i.map (fun b => { b with pos := rd 0x398 4 })
    tcause := tcauseWord (rd 0x39C 2) (if r.i.isNone then rd 0x398 2 else r.tcause.toNat / 65536)
    held := s.rereadBlocks x.ctx (a + 0x3A0) (match r.i with | some b => (s.restOf x b).length | none => 0) r.held }

/-- The lane queue as the frame holds it: I of a replay record with its lanes and position, and the blocks of HELD (R353). A
handler's own queue, which no field holds, is what it was. -/
def State.rereadQueue (s : State) (x : Group) : List LaneBlock :=
  let a := s.frameAt x
  match x.trap, x.replay, x.queue with
  | some _, none, q => q
  | _, some r, b :: t =>
    { b with pos := s.vRead x.ctx (a + 0x428) 4, redo := some (BitVec.ofNat 32 (s.vRead x.ctx (a + 0x424) 4)) } ::
      (if x.trap.isSome then t else s.rereadBlocks x.ctx (a + 0x3A0) (s.restOf x r).length t)
  | _, some _, [] => []
  | none, none, q => s.rereadBlocks x.ctx (a + 0x3A0) 0 q

/-- A group read back from its frame (R353). What a frame does not hold (the place of the group, its handles, its
operations, what else a block captured) is what it was. -/
def State.readFrame (s : State) (x : Group) : Group :=
  let a := s.frameAt x
  let rd (off n : Nat) : Nat := s.vRead x.ctx (a + off) n
  let rdw (off : Nat) : W32 := BitVec.ofNat 32 (rd off 4)
  let bl := rd 0x20 4
  let sigs := rd 0x1C 4
  let regs : Map W64 := (List.range (64 * x.salloc)).foldl (fun m k =>
    if k = 0 then m else Map.set 0#64 m k (BitVec.ofNat 64 (rd (0x800 + 8 * k) 8))) []
  let vregs : Map W32 := (List.range (256 * x.valloc)).foldl (fun m k => Map.set 0#32 m k (rdw (x.vregAt + 4 * k))) []
  let masks : Map W32 := (List.range 15).foldl (fun m k => Map.set 0#32 m (k + 1) (rdw (0x44 + 4 * k))) []
  let wins : Map Window := (List.range 16).foldl (fun m k =>
    let w := windowOf (rd (0x80 + 24 * k) 24)
    let gen := match s.walk x.ctx w.vbase with | .leaf l => leafGen l.bits | _ => 0
    Map.set {} m k (if w.v && decide (w.typ < 6) && w.tag != gen then { w with st := true } else w)) []
  { x with
    residence := .resident
    fflags := BitVec.ofNat 32 (rd 0x10 4 % 32), vmode := BitVec.ofNat 32 (rd 0x14 4 % 2), stklim := rd 0x18 4, sigdim := sigs % 256, sigdepth := sigs / 256 % 256
    blevel := bl % 256, blimit := bl / 256 % 256, interval := bitOf bl 16, fmt := rdw 0x24, hseq := rd 0x28 8
    masks := masks, wins := wins, front := (List.range 16).map (fun k => fentryOf (rd (0x200 + 24 * k) 24))
    pc := BitVec.ofNat 64 (rd 0x380 4), m0 := rdw 0x384
    trap := x.trap.map (s.rereadTrap x), queue := s.rereadQueue x
    rstack := (List.range (Nat.min 16 (rd 0x440 8))).map (fun k => rd (0x448 + 2 * k) 2)
    lfsr := (List.range 32).map (fun l => rdw (0x480 + 4 * l))
    lut := (List.range 32).foldl (fun m l =>
      Map.set {} m l ((Map.get {} x.lut l).reread (rd (0x500 + 16 * l) 8) (rd (0x508 + 16 * l) 1) (rd (0x509 + 16 * l) 1))) []
    sreg := regs, vreg := vregs
    serr := (List.range (64 * x.salloc)).filter (fun k => k != 0 &&
      (match s.ctxPa x.ctx (a + 0x800 + 8 * k) with | some pa => s.lineBad pa | none => false))
    verr := (List.range (256 * x.valloc)).filter (fun k =>
      match s.ctxPa x.ctx (a + x.vregAt + 4 * k) with | some pa => s.lineBad pa | none => false)
    replay := none, pfWait := [] }

/-- A saved group comes back to its slot (R40). On another die than that of the save it issues nothing until `%gtime` exceeds the
value at the save by 8 ns (R11). -/
def State.restoreGroup (s : State) (g : Nat) : State :=
  let x := s.grp g
  s.setGrp g { s.readFrame x with notBefore := if dieOfCore x.core = x.savedDie then x.notBefore else Nat.max x.notBefore (x.savedGt + 9) }

/-! ## Page faults of groups (R60, R177, R397, R398) -/

/-- The save of a group that waits for pages: once nothing of it is in flight. -/
def State.trySave (s : State) (g : Nat) : State :=
  let x := s.grp g
  if !x.pfWait.isEmpty && x.pend.isEmpty && x.residence == .resident then s.saveGroup g 1 else s

/-- A PAGE FAULT (R60, R177): the group stops, waits for its pages, and is saved; with FQSIZE = 0 the fault is declined
when it arises, and the trap of page-not-resident is taken by `decline` (R398). -/
def State.pageFault (s : State) (g : Nat) (pages : List (Nat × Nat)) (replay : Option LaneBlock) (decline : State → State) : State :=
  let x := s.grp g
  if (s.ctx x.ctx).fq.size = 0#64 then
    let c := s.ctx x.ctx
    decline (s.setCtx x.ctx { c with fq := { c.fq with lost := c.fq.lost + 1 } })
  else
    let s1 := pages.foldl (fun t p => t.postPage x.ctx p.1 (s.lau x.launch).lid x.gid p.2) s
    (s1.setGrp g { s1.grp g with pfWait := pages, replay := replay }).trySave g

/-- A page fault of a scalar instruction: on restore the instruction executes again (R177). -/
def State.pageFaultScalar (s : State) (g page acc : Nat) : State :=
  s.pageFault g [(page, acc)] none (fun t => t.trapGroup g cPage)

end Sys2Proof.Machine
end

