-- ==== Sys2Proof/Machine/Interval.lean ====
section
/-!
DEFINITION. Interval values and what one lane computes on them (07 R124, 12 R239 to R242, 16 R308 to R311).
An interval is a pair of 32-bit encodings of type `i32`, `n32` or `f32`.
-/
namespace Sys2Proof.Machine

/-- An interval pair: lo in the even register, hi in the odd one (R124). -/
structure Ivl where
  lo : Nat
  hi : Nat
  deriving DecidableEq, Repr

/-- The point interval of a value. -/
def Ivl.point (x : Nat) : Ivl := ⟨x, x⟩

/-- The pair is a NaN interval: a NaN bound, or lo above hi (R124). -/
def Ivl.isNan (t : Ty) (a : Ivl) : Bool :=
  if t = .f32 then
    let x := decodeVal .f32 0 a.lo
    let y := decodeVal .f32 0 a.hi
    x.isNan || y.isNan || y.lt x
  else intLt t a.hi a.lo

/-- The NaN interval as an instruction writes it (R239, R309). -/
def Ivl.nan (t : Ty) : Ivl :=
  if t = .f32 then ⟨canon .f32, canon .f32⟩ else ⟨wrap 32 (tyMax t), wrap 32 (tyMin t)⟩

/-- The whole range of a type (R239; for `f32` all reals and infinities). -/
def Ivl.whole (t : Ty) : Ivl :=
  if t = .f32 then ⟨signBit .f32 + infEnc .f32, infEnc .f32⟩ else ⟨wrap 32 (tyMin t), wrap 32 (tyMax t)⟩

/-- The two bounds are one encoding. -/
def Ivl.isPoint (a : Ivl) : Bool := a.lo == a.hi

/-- Flushing of bounds: below 2^-126 a positive lo becomes +0 and a negative hi becomes -0 (R239). -/
def Ivl.flush (t : Ty) (fz : Nat) (a : Ivl) : Ivl :=
  if t = .f32 ∧ fz ≠ 0 then
    ⟨if 0 < a.lo ∧ a.lo < 2 ^ 23 then 0 else a.lo,
     if signBit .f32 < a.hi ∧ a.hi < signBit .f32 + 2 ^ 23 then signBit .f32 else a.hi⟩
  else a

/-- An integer result from exact bounds: the whole range where a bound does not fit (R239). -/
def Ivl.ofInts (t : Ty) (lo hi : Int) : Ivl :=
  if tyMin t ≤ lo ∧ hi ≤ tyMax t ∧ lo ≤ tyMax t ∧ tyMin t ≤ hi then ⟨wrap 32 lo, wrap 32 hi⟩ else Ivl.whole t

/-- A floating result from exact bounds, rounded outward; an invalid bound gives a NaN interval (R241). -/
def Ivl.ofVals (lo hi : Val) : Ivl :=
  if lo.isNan || hi.isNan then Ivl.nan .f32 else ⟨rndLo 0 lo, rndHi 0 hi⟩

/-- A result of operands of which none may be a NaN interval, its operands and its bounds flushed (R239). -/
def ivlOp (t : Ty) (fz : Nat) (f : List Ivl → Ivl) (as : List Ivl) : Ivl :=
  if as.any (Ivl.isNan t) then Ivl.nan t
  else (f (as.map (Ivl.flush t fz))).flush t fz

/-- The least of a list of integers. -/
def minInts : List Int → Int
  | [] => 0
  | [x] => x
  | x :: t => min x (minInts t)
/-- The greatest of a list of integers. -/
def maxInts : List Int → Int
  | [] => 0
  | [x] => x
  | x :: t => max x (maxInts t)

/-- The least of a list of values that are not NaNs; -0 below +0. -/
def minVals : List Val → Val
  | [] => .nan false
  | [x] => x
  | x :: t => let y := minVals t; if y.ltZ x then y else x
/-- The greatest. -/
def maxVals : List Val → Val
  | [] => .nan false
  | [x] => x
  | x :: t => let y := maxVals t; if x.ltZ y then y else x

/-! ## Integer instructions (R240) -/

/-- The four products of the bounds. -/
def intProducts (t : Ty) (a b : Ivl) : List Int :=
  [intVal t a.lo * intVal t b.lo, intVal t a.lo * intVal t b.hi, intVal t a.hi * intVal t b.lo, intVal t a.hi * intVal t b.hi]

/-- `vadd`. -/
def ivAdd (t : Ty) (a b : Ivl) : Ivl := Ivl.ofInts t (intVal t a.lo + intVal t b.lo) (intVal t a.hi + intVal t b.hi)
/-- `vsub`. -/
def ivSub (t : Ty) (a b : Ivl) : Ivl := Ivl.ofInts t (intVal t a.lo - intVal t b.hi) (intVal t a.hi - intVal t b.lo)
/-- `vmul`. -/
def ivMul (t : Ty) (a b : Ivl) : Ivl := Ivl.ofInts t (minInts (intProducts t a b)) (maxInts (intProducts t a b))
/-- `vmad`: none of the products and none of the sums may wrap. -/
def ivMad (t : Ty) (a b c : Ivl) : Ivl :=
  let lo := minInts (intProducts t a b)
  let hi := maxInts (intProducts t a b)
  if tyMin t ≤ lo ∧ hi ≤ tyMax t then Ivl.ofInts t (lo + intVal t c.lo) (hi + intVal t c.hi) else Ivl.whole t
/-- `vmin`, `vmax`: on the lo bounds and on the hi bounds. -/
def ivBounds (f : Nat → Nat → Nat) (a b : Ivl) : Ivl := ⟨f a.lo b.lo, f a.hi b.hi⟩
/-- `vshl`: by a point below 32, where nothing wraps. -/
def ivShl (t : Ty) (a b : Ivl) : Ivl :=
  if b.isPoint ∧ b.lo < 32 then
    let k : Int := ((2 ^ b.lo : Nat) : Int)
    Ivl.ofInts t (intVal t a.lo * k) (intVal t a.hi * k)
  else Ivl.whole t
/-- `vshr`, `vsra`: by a point below 32, on lo and on hi. -/
def ivShift (t : Ty) (f : Ty → Nat → Nat → Nat) (a b : Ivl) : Ivl :=
  if b.isPoint ∧ b.lo < 32 then ⟨f t a.lo b.lo, f t a.hi b.lo⟩ else Ivl.whole t
/-- `vclz`. -/
def ivClz (t : Ty) (a : Ivl) : Ivl := if t = .n32 then ⟨iClz t a.hi, iClz t a.lo⟩ else Ivl.whole t
/-- The instructions that answer only for points: the element result, else the whole range. -/
def ivPoints (t : Ty) (f : List Nat → Nat) (as : List Ivl) : Ivl :=
  if as.all Ivl.isPoint then Ivl.point (f (as.map Ivl.lo)) else Ivl.whole t

/-! ## Floating-point instructions (R241) -/

/-- A bound as an exact value. -/
def fv (x : Nat) : Val := decodeVal .f32 0 x

/-- The four exact products of the bounds. -/
def fltProducts (a b : Ivl) : List Val :=
  [(fv a.lo).mul (fv b.lo), (fv a.lo).mul (fv b.hi), (fv a.hi).mul (fv b.lo), (fv a.hi).mul (fv b.hi)]

/-- The least and the greatest of a list of values; a NaN where one is invalid. -/
def extremes (vs : List Val) : Val × Val :=
  if vs.any Val.isNan then (.nan true, .nan true) else (minVals vs, maxVals vs)

/-- The bounds of an interval as exact values. -/
def Ivl.vals (a : Ivl) : Val × Val := (fv a.lo, fv a.hi)
/-- The bounds of the negated interval. -/
def Ivl.negVals (a : Ivl) : Val × Val := ((fv a.hi).negate, (fv a.lo).negate)
/-- The interval contains zero. -/
def Ivl.hasZero (a : Ivl) : Bool :=
  let z : Val := .fin (Exact.zero false)
  !(z.lt (fv a.lo)) && !((fv a.hi).lt z)
/-- The interval contains an infinity. -/
def Ivl.hasInf (a : Ivl) : Bool := fv a.lo == .inf true || fv a.hi == .inf false

/-- Two of the intervals hold infinities of opposite signs, so that a sum of values of theirs is inf - inf
(R241's last sentence, read of every sum the intervals stand for: R316; DEDUCED, log entry 176). -/
def sumClash : List (Val × Val) → Bool
  | [] => false
  | p :: ps => ps.any (fun q => (p.1 == .inf true && q.2 == .inf false) || (p.2 == .inf false && q.1 == .inf true)) || sumClash ps
/-- The interval of the sums of values of the intervals. -/
def ivSum (ps : List (Val × Val)) : Ivl :=
  if sumClash ps then Ivl.nan .f32 else Ivl.ofVals (Val.sum .rdn (ps.map Prod.fst)) (Val.sum .rup (ps.map Prod.snd))
/-- The least and the greatest product of values of two intervals; NaNs where one of them can be 0 times infinity
(R241's last sentence, read in the same way; log entry 176). -/
def ivProduct (a b : Ivl) : Val × Val :=
  if (a.hasZero && b.hasInf) || (a.hasInf && b.hasZero) then (.nan true, .nan true) else extremes (fltProducts a b)

/-- `vfadd`. -/
def ivFAdd (a b : Ivl) : Ivl := ivSum [a.vals, b.vals]
/-- `vfsub`. -/
def ivFSub (a b : Ivl) : Ivl := ivSum [a.vals, b.negVals]
/-- `vfmul`. -/
def ivFMul (a b : Ivl) : Ivl := let e := ivProduct a b; Ivl.ofVals e.1 e.2
/-- `vfma`, `vfms` and `vfnma`: the least and greatest product, negated where `np`, with the matching bound of
c, negated where `nc`. -/
def ivFMa (np nc : Bool) (a b c : Ivl) : Ivl :=
  let e := ivProduct a b
  ivSum [if np then (e.2.negate, e.1.negate) else e, if nc then c.negVals else c.vals]
/-- lo is below -0. -/
def Ivl.negLo (a : Ivl) : Bool := (fv a.lo).lt (.fin (Exact.zero false))
/-- `vfdiv`: every real and infinity where the divisor contains zero, as R241's row says, also where the dividend does
(log entry 176). -/
def ivFDiv (a b : Ivl) : Ivl :=
  if b.hasZero then Ivl.whole .f32
  else
    let qs := [((fv a.lo).div (fv b.lo)).1, ((fv a.lo).div (fv b.hi)).1, ((fv a.hi).div (fv b.lo)).1, ((fv a.hi).div (fv b.hi)).1]
    if qs.any Val.isNan then Ivl.nan .f32
    else
      let los := qs.map (fun v => fv (rndLo 0 v))
      let his := qs.map (fun v => fv (rndHi 0 v))
      Ivl.ofVals (minVals los) (maxVals his)
/-- `vfsqrt`. -/
def ivFSqrt (a : Ivl) : Ivl := if a.negLo then Ivl.nan .f32 else Ivl.ofVals (fv a.lo).sqrt (fv a.hi).sqrt

/-- The next encoding below, as numbers. -/
def nextDown (x : Nat) : Nat :=
  if x = signBit .f32 + infEnc .f32 then x
  else if x = 0 then signBit .f32 + 1
  else if x < signBit .f32 then x - 1
  else x + 1
/-- The next encoding above. -/
def nextUp (x : Nat) : Nat :=
  if x = infEnc .f32 then x
  else if x = signBit .f32 then 1
  else if x < signBit .f32 then x + 1
  else x - 1
/-- Bounds moved outward by one ulp. -/
def Ivl.widen (a : Ivl) : Ivl := ⟨nextDown a.lo, nextUp a.hi⟩

/-- `vexp2`, `vlog2`, `vrcp`, `vrsq`: endpoints mapped through the monotone function, then moved outward. -/
def ivSfu (op : Sfu) (a : Ivl) : Ivl :=
  let lo (x : Nat) : Nat := (sfu op .f32 .rdn 0 (fv x)).bits
  let hi (x : Nat) : Nat := (sfu op .f32 .rup 0 (fv x)).bits
  match op with
  | .exp2 => Ivl.widen ⟨lo a.lo, hi a.hi⟩
  | .log2 => if a.negLo then Ivl.nan .f32 else Ivl.widen ⟨lo a.lo, hi a.hi⟩
  | .rcp => if a.hasZero then Ivl.whole .f32 else Ivl.widen ⟨lo a.hi, hi a.lo⟩
  | _ => if a.negLo then Ivl.nan .f32 else Ivl.widen ⟨lo a.hi, hi a.lo⟩

/-- floor(x / (pi/2)) for a finite bound. -/
def quadrantOf (x : Exact) : Int :=
  let q := 1024
  let k : Int := ((x.fix q / (piFix q / 2) : Nat) : Int)
  if x.isZero then 0 else if x.neg then -k - 1 else k

/-- A number from 0 to 7 steps above lo, at most hi, is congruent to r modulo 4. -/
def hasQuadrant (lo hi : Int) (r : Int) : Bool :=
  (List.range 8).any (fun i => decide (lo + (i : Int) ≤ hi) && decide ((lo + (i : Int)) % 4 = r))

/-- `vsin` and `vcos` (R241); a NaN interval where a bound is infinite, whose sine and cosine are NaNs (R227, R316; log
entry 176). -/
def ivSinCos (cosine : Bool) (a : Ivl) : Ivl :=
  let one := 0x3F800000
  let all : Ivl := ⟨signBit .f32 + one, one⟩
  match Val.sum .rne [fv a.hi, (fv a.lo).negate] with
  | .nan _ | .inf _ => Ivl.nan .f32
  | .fin w =>
    match fv a.lo, fv a.hi with
    | .fin x, .fin y =>
      if 2 * piFix 512 ≤ w.fix 512 then all
      else
        let op : Sfu := if cosine then .cos else .sin
        let lo (z : Nat) : Val := fv (sfu op .f32 .rdn 0 (fv z)).bits
        let hi (z : Nat) : Val := fv (sfu op .f32 .rup 0 (fv z)).bits
        let r : Ivl := ⟨rndLo 0 (minVals [lo a.lo, lo a.hi]), rndHi 0 (maxVals [hi a.lo, hi a.hi])⟩
        let r2 := r.widen.widen
        let first : Int := if x.isZero then 0 else quadrantOf x + 1
        let last : Int := quadrantOf y
        let top : Int := if cosine then 0 else 1
        let bot : Int := if cosine then 2 else 3
        let lo' := if hasQuadrant first last bot then signBit .f32 + one else r2.lo
        let hi' := if hasQuadrant first last top then one else r2.hi
        ⟨if (fv lo').lt (fv (signBit .f32 + one)) then signBit .f32 + one else lo',
         if (fv one).lt (fv hi') then one else hi'⟩
    | _, _ => Ivl.nan .f32

/-- `vcvt` between `i32`, `n32` and `f32`: endpoints converted (R241). -/
def ivCvt (d s : Ty) (sat : Bool) (a : Ivl) : Ivl :=
  if d = .f32 then Ivl.ofVals (readVal s 0 a.lo) (readVal s 0 a.hi)
  else if s = .f32 then
    ⟨wrap 32 (toInt d .rdn 0#32 (fv a.lo)).val, wrap 32 (toInt d .rup 0#32 (fv a.hi)).val⟩
  else if sat then ⟨wrap 32 (clampTo d (intVal s a.lo)), wrap 32 (clampTo d (intVal s a.hi))⟩
  else Ivl.ofInts d (intVal s a.lo) (intVal s a.hi)

/-! ## Cross-lane (R242) and hulls (R309) -/

/-- The hull of two intervals (R309). -/
def ivHull (t : Ty) (a b : Ivl) : Ivl :=
  if a.isNan t || b.isNan t then Ivl.nan t
  else if t = .f32 then ⟨(fMinMax false .f32 0 a.lo b.lo).1, (fMinMax true .f32 0 a.hi b.hi).1⟩
  else ⟨iMin t a.lo b.lo, iMax t a.hi b.hi⟩

/-- The combination of a list of lanes' intervals under an operator of `vred` (R242). -/
def ivReduce (op : Nat) (t : Ty) (fz : Nat) (as : List Ivl) : Ivl :=
  match as with
  | [] => Ivl.point (redIdentity op t)
  | a :: rest =>
    if as.any (Ivl.isNan t) then Ivl.nan t
    else
      let bs := as.map (Ivl.flush t fz)
      let r : Ivl :=
        match op with
        | 0 =>
          if t = .f32 then ivSum (bs.map Ivl.vals)
          else Ivl.ofInts t (bs.foldl (fun s x => s + intVal t x.lo) 0) (bs.foldl (fun s x => s + intVal t x.hi) 0)
        | 1 =>
          rest.foldl (fun x y =>
            if t = .f32 then ⟨(fMinMax false .f32 0 x.lo y.lo).1, (fMinMax false .f32 0 x.hi y.hi).1⟩
            else ivBounds (iMin t) x y) a
        | 2 =>
          rest.foldl (fun x y =>
            if t = .f32 then ⟨(fMinMax true .f32 0 x.lo y.lo).1, (fMinMax true .f32 0 x.hi y.hi).1⟩
            else ivBounds (iMax t) x y) a
        | _ =>
          ivPoints t (fun xs => (reduceList op ⟨t, .rne, 0, 0#32⟩ xs).bits) as
      r.flush t fz

/-- `ivcmp` (R308): certainly true, certainly false. -/
def ivCmp (cc : Nat) (t : Ty) (a b : Ivl) : Bool × Bool :=
  let lt (x y : Nat) : Bool := if t = .f32 then (fv x).lt (fv y) else intLt t x y
  let eq (x y : Nat) : Bool := if t = .f32 then (fv x).eqv (fv y) else decide (x = y)
  let same := eq a.lo a.hi && eq b.lo b.hi && eq a.lo b.lo
  let apart := lt a.hi b.lo || lt b.hi a.lo
  match cc with
  | 0 => (same, apart)
  | 1 => (apart, same)
  | 2 => (lt a.hi b.lo, !(lt a.lo b.hi))
  | 3 => (!(lt b.lo a.hi), lt b.hi a.lo)
  | 4 => (lt b.hi a.lo, !(lt b.lo a.hi))
  | _ => (!(lt a.lo b.hi), lt a.hi b.lo)

/-- The root extents of R306: powers of two from 1 to 32,768. -/
def extentOk (e : Nat) : Bool := decide (e = 2 ^ Nat.log2 e) && decide (1 ≤ e) && decide (e ≤ 32768)

end Sys2Proof.Machine
end

