-- ==== Sys2Proof/Machine/Operands.lean ====
section
/-!
DEFINITION. How an instruction meets its group: the checks every scalar instruction makes (11 R176, R177), the checks and
the operand forms of lane instructions (09 R151, 12 R213 to R216, R239), and the writing of lane results.
-/
namespace Sys2Proof.Machine

/-! ## Scalar instructions -/

/-- The group the step is about. -/
def State.me (s : State) : Group := s.grp s.cur

/-- Uncorrectable data that a scalar instruction consumes: a record of the line's address and the location code, then the trap
(R395, R402, R406). -/
def State.trapData (s : State) (loc : Nat × Nat) : State := (s.postGrp s.cur .fault 4 cData loc.1 loc.2).trapGroup s.cur cData

/-- A scalar instruction (R177): register-range first, then the scoreboard, then uncorrectable sources, then its own
effect. A waiting instruction changes nothing. -/
def scalarGo (s : State) (reads writes masks : List Nat) (k : Group → State) : Out :=
  match Map.find s.groups s.cur with
  | none => .fault .noSuchAgent
  | some x =>
    if !(x.sOk (reads ++ writes)) then .next (s.trapGroup s.cur cRange)
    else if s.scoreWaits x reads writes masks then .next s
    else if reads.any (fun r => x.serr.contains r) then .next (s.trapData (0, 6))
    else .next (k x)

/-- A scalar instruction with causes of its mode, or of registers that are not scalar ones, which rank before what its scalar
sources hold (R158, R159, R177). -/
def scalarGoIf (s : State) (pre : Group → Option Nat) (reads writes masks : List Nat) (k : Group → State) : Out :=
  match Map.find s.groups s.cur with
  | none => .fault .noSuchAgent
  | some x =>
    match pre x with
    | some c => .next (s.trapGroup s.cur c)
    | none => scalarGo s reads writes masks k

/-- The cause illegal-instruction, where a condition holds. -/
def illegalIf (b : Bool) : Option Nat := if b then some cIllegal else none

/-- The group after a scalar instruction that writes one register and passes on. -/
def State.writeS (s : State) (x : Group) (d : Nat) (v : W64) : State := s.setGrp s.cur (x.setSr d v).adv

/-- The lane queue is empty and nothing of the group is in flight: every earlier access has been performed. -/
def Group.quiet (x : Group) : Bool := x.queue.isEmpty && x.pend.isEmpty

/-! ## Lane instructions: the head of the queue -/

/-- The effective mask (R214): the captured `m0`, or the lanes that run the instruction again, and the mask register. -/
def Group.active (x : Group) (mk : Nat) : W32 :=
  (x.head.redo.getD x.head.mask) &&& (if mk = 0 then 0xFFFFFFFF#32 else x.mask mk)

/-- A mask as a lane instruction reads it: `m0` as the `vrun` captured it (R56). -/
def Group.laneMask (x : Group) (k : Nat) : W32 := if k = 0 then x.head.mask else x.mask k

/-- The queue after the instruction at its head (R150): the next position, or the next block. -/
def Group.popLane (x : Group) (last : Bool) : Group :=
  match x.queue with
  | [] => x
  | b :: t => { x with queue := if last then t else { b with pos := b.pos + 1, redo := none, ordq := none } :: t }

/-- A cause for every active lane; with no active lane it concerns the whole group. R158 says so of illegal-instruction;
for register-range, of which R143 names the active lanes alone, it is DEDUCED (log 169). -/
def State.laneCause (s : State) (x : Group) (mk code : Nat) : State :=
  let m := x.active mk ||| x.head.bad
  if m = 0#32 then s.trapLanes s.cur code x.m0 true else s.trapLanes s.cur code m

/-- The registers of an operand of a type. -/
def regsOf (t : Ty) (r : Nat) : List Nat := if tyIs64 t then [r, r + 1] else [r]

/-- The group as the lanes of an instruction outside `bad` execute it (R57). -/
def Group.without (x : Group) (bad : W32) : Group :=
  match x.queue with
  | b :: t => { x with queue := { b with redo := some (b.redo.getD b.mask &&& ~~~ bad), bad := bad } :: t }
  | [] => x

/-- Uncorrectable sources in the lanes `bad` of the instruction at the head (R395): its other active lanes complete it, or wait as
they would; then the lanes trap, with the cause that these others may have raised first (R57, R249). -/
def State.consumeBad (s : State) (x : Group) (mk : Nat) (bad : W32) (k : Group → State) : State :=
  let y := x.without bad
  let post (t : State) : State := t.postGrp s.cur .fault 4 cData 0 6
  if y.active mk = 0#32 then (post s).trapLanes s.cur cData bad
  else
    let t := k y
    let z := t.grp s.cur
    if z.trap ≠ x.trap ∨ z.residence ≠ x.residence then post t
    else if z.queue.length = y.queue.length ∧ z.head.pos = y.head.pos then s
    else (post (t.setGrp s.cur { z with queue := x.queue })).trapLanes s.cur cData bad

/-- A lane instruction at the head of the queue: in interval mode a form it excludes is illegal (R239); registers within
the allocations (R143); operands available (R16, R71); uncorrectable sources raised for their lanes (R395); then its
effect, which says whether it leaves the queue. -/
def laneGo (s : State) (mk : Nat) (legal : Group → Bool) (vreads vwrites : Group → List Nat) (sregs : List Nat)
    (k : Group → State) (swrites : List Nat := []) : Out :=
  match Map.find s.groups s.cur with
  | none => .fault .noSuchAgent
  | some x =>
    let rs := vreads x
    let ws := vwrites x
    let m := x.active mk
    if !(legal x) then .next (s.laneCause x mk cIllegal)
    else if !(x.vOk (rs ++ ws)) || !(x.sOk (sregs ++ swrites)) then .next (s.laneCause x mk cRange)
    else if (rs ++ ws).any (fun r => x.pendV.contains r) || meets (sregs ++ swrites) x.pendS then .next s
    else
      let bad := maskOf (fun l => m.getLsbD l && rs.any (fun r => x.verr.contains (32 * r + l)))
      if sregs.any (fun r => x.serr.contains r) then .next ((s.postGrp s.cur .fault 4 cData 0 6).laneCause x mk cData)
      else if bad ≠ 0#32 then .next (s.consumeBad x mk bad k)
      else .next (k x)

/-! ## Elements and intervals -/

/-- An operand of a type in a lane: the pair, the register, or its low half (R215). -/
def Group.elem (x : Group) (t : Ty) (r l : Nat) : Nat :=
  if tyIs64 t then (x.vr r l).toNat + 2 ^ 32 * (x.vr (r + 1) l).toNat
  else (x.vr r l).toNat % 2 ^ tyWidth t

/-- A result of a type as register words (R215): 16-bit integers with their sign above, 16-bit floats with zeros. -/
def elemWords (t : Ty) (d v : Nat) : List (Nat × W32) :=
  if tyIs64 t then [(d, BitVec.ofNat 32 v), (d + 1, BitVec.ofNat 32 (v / 2 ^ 32))]
  else if t = .i16 then [(d, BitVec.ofInt 32 (sext 16 v))]
  else [(d, BitVec.ofNat 32 v)]

/-- An interval pair of a lane (R124). -/
def Group.ivl (x : Group) (r l : Nat) : Ivl := ⟨(x.vr r l).toNat, (x.vr (r + 1) l).toNat⟩

/-- An interval as register words. -/
def ivlWords (d : Nat) (a : Ivl) : List (Nat × W32) := [(d, BitVec.ofNat 32 a.lo), (d + 1, BitVec.ofNat 32 a.hi)]

/-- A scalar source as an element of a type (R151). -/
def Group.sElem (x : Group) (t : Ty) (r : Nat) : Nat := (x.sr r).toNat % 2 ^ tyWidth t

/-- The immediate of classes 0 and 1 (R151). -/
def immElem (t : Ty) (im : Nat) : Nat := if t = .f32 then im * 65536 else wrap 32 (sext 16 im)

/-- The scalar registers an instruction reads: `s[ss]` with `sb` = 1. -/
def sRegsOf (a : LArgs) : List Nat := if a.sb then [a.ss] else []

/-- Operand b of a lane (R151). -/
def Group.opB (x : Group) (a : LArgs) (l : Nat) : Nat :=
  if a.sb then x.sElem a.ty a.ss else if a.imm then immElem a.ty a.im else x.elem a.ty a.vb l

/-- Operand b of a lane in interval mode: a scalar or an immediate is a point (R239). -/
def Group.ivlB (x : Group) (a : LArgs) (l : Nat) : Ivl :=
  if a.sb then Ivl.point (x.sElem a.ty a.ss) else if a.imm then Ivl.point (immElem a.ty a.im) else x.ivl a.vb l

/-- What one lane of an instruction gives: words, flags, its stochastic state afterwards, its bit of a mask. -/
structure LaneOut where
  words : List (Nat × W32) := []
  flags : W32 := 0#32
  lfsr : Option W32 := none
  bit : Bool := false
  deriving DecidableEq, Repr

/-- The stochastic state of a lane (R115). -/
def Group.seed (x : Group) (l : Nat) : W32 := x.lfsr.getD l 1#32

/-- Writes one lane's result. -/
def Group.put (x : Group) (l : Nat) (r : LaneOut) : Group :=
  let y := r.words.foldl (fun z kw => z.setVr kw.1 l kw.2) x
  let z := y.raise r.flags
  match r.lfsr with
  | some v => { z with lfsr := z.lfsr.set l v }
  | none => z

/-- Every active lane's result, computed from the registers as they stood, then written (R214). -/
def Group.putLanes (x : Group) (m : W32) (f : Nat → LaneOut) : Group :=
  ((lanesOf m).map (fun l => (l, f l))).foldl (fun y lr => y.put lr.1 lr.2) x

/-- The bits of the active lanes of a destination mask (R221). -/
def Group.putMask (x : Group) (d : Nat) (m : W32) (f : Nat → Bool) : Group :=
  x.setMask d ((x.mask d &&& ~~~ m) ||| maskOf (fun l => m.getLsbD l && f l))

/-- The group after a lane instruction that completes at issue. -/
def State.doneLane (s : State) (x : Group) (e : Bool) : State := s.setGrp s.cur (x.popLane e)

/-- The types and the register numbers that interval mode admits (R151, R239): pairs. -/
def ivRegs (a : LArgs) (t : Ty) (rs : List Nat) : Bool :=
  (t == .i32 || t == .n32 || t == .f32) && rs.all (fun r => r % 2 == 0) && (a.sb || a.imm || a.vb % 2 == 0)

/-- The registers of an operand: in interval mode a pair. -/
def Group.regs (x : Group) (t : Ty) (r : Nat) : List Nat := if x.interval then [r, r + 1] else regsOf t r

/-- The registers of operand b. -/
def Group.bRegs (x : Group) (a : LArgs) : List Nat := if a.sb || a.imm then [] else x.regs a.ty a.vb

/-- The rounding of an instruction under the captured format (R118, R120). -/
def Group.fctx (x : Group) (t : Ty) (rm l : Nat) : FCtx := ⟨t, modeOf rm x.head.fmt, fmtFZ x.head.fmt, x.seed l⟩

/-- FZ of the captured format. -/
def Group.fz (x : Group) : Nat := fmtFZ x.head.fmt

/-- An `.rfm` that resolves to the stochastic mode is as the mode itself; one that resolves to a reserved code does not
occur, since the format word admits none (R119). -/
def LaneOut.ofRounded (t : Ty) (d : Nat) (r : Rounded) (old : W32) : LaneOut :=
  { words := elemWords t d r.bits, flags := r.flags, lfsr := if r.lfsr = old then none else some r.lfsr }

/-! ## Shapes of instructions of classes 0, 1, 2 -/

/-- A two-operand instruction: the element function, and the interval function (R218, R240). -/
def laneBin (s : State) (a : LArgs) (f : Group → Nat → Nat → Nat → LaneOut) (g : Nat → Ivl → Ivl → Ivl) : Out :=
  laneGo s a.msk (fun x => !x.interval || ivRegs a a.ty [a.vd, a.va])
    (fun x => x.regs a.ty a.va ++ x.bRegs a) (fun x => x.regs a.ty a.vd) (sRegsOf a)
    (fun x =>
      let m := x.active a.msk
      s.doneLane (x.putLanes m (fun l =>
        if x.interval then { words := ivlWords a.vd (g x.fz (x.ivl a.va l) (x.ivlB a l)) }
        else f x l (x.elem a.ty a.va l) (x.opB a l))) a.e)

/-- A three-operand instruction, c from `vc`. -/
def laneTri (s : State) (a : LArgs) (f : Group → Nat → Nat → Nat → Nat → LaneOut) (g : Nat → Ivl → Ivl → Ivl → Ivl) : Out :=
  laneGo s a.msk (fun x => !x.interval || ivRegs a a.ty [a.vd, a.va, a.vc])
    (fun x => x.regs a.ty a.va ++ x.bRegs a ++ x.regs a.ty a.vc) (fun x => x.regs a.ty a.vd) (sRegsOf a)
    (fun x =>
      let m := x.active a.msk
      s.doneLane (x.putLanes m (fun l =>
        if x.interval then { words := ivlWords a.vd (g x.fz (x.ivl a.va l) (x.ivlB a l) (x.ivl a.vc l)) }
        else f x l (x.elem a.ty a.va l) (x.opB a l) (x.elem a.ty a.vc l))) a.e)

/-- A one-operand instruction. -/
def laneUn (s : State) (a : LArgs) (f : Group → Nat → Nat → LaneOut) (g : Nat → Ivl → Ivl) : Out :=
  laneGo s a.msk (fun x => !x.interval || ivRegs a a.ty [a.vd, a.va])
    (fun x => x.regs a.ty a.va) (fun x => x.regs a.ty a.vd) []
    (fun x =>
      let m := x.active a.msk
      s.doneLane (x.putLanes m (fun l =>
        if x.interval then { words := ivlWords a.vd (g x.fz (x.ivl a.va l)) }
        else f x l (x.elem a.ty a.va l))) a.e)

/-- An integer result. -/
def intOut (a : LArgs) (v : Nat) : LaneOut := { words := elemWords a.ty a.vd v }

/-- A two-operand integer instruction. -/
def intBin (s : State) (a : LArgs) (f : Ty → Nat → Nat → Nat) (g : Ivl → Ivl → Ivl) : Out :=
  laneBin s a (fun _ _ p q => intOut a (f a.ty p q)) (fun fz p q => ivlOp a.ty fz (fun as => g (as.getD 0 ⟨0, 0⟩) (as.getD 1 ⟨0, 0⟩)) [p, q])

/-- A two-operand floating-point instruction. -/
def fltBin (s : State) (a : LArgs) (f : FCtx → Nat → Nat → Rounded) (g : Ivl → Ivl → Ivl) : Out :=
  laneBin s a (fun x l p q => LaneOut.ofRounded a.ty a.vd (f (x.fctx a.ty a.rm l) p q) (x.seed l))
    (fun fz p q => ivlOp a.ty fz (fun as => g (as.getD 0 ⟨0, 0⟩) (as.getD 1 ⟨0, 0⟩)) [p, q])

/-- A three-operand floating-point instruction. -/
def fltTri (s : State) (a : LArgs) (f : FCtx → Nat → Nat → Nat → Rounded) (g : Ivl → Ivl → Ivl → Ivl) : Out :=
  laneTri s a (fun x l p q r => LaneOut.ofRounded a.ty a.vd (f (x.fctx a.ty a.rm l) p q r) (x.seed l))
    (fun fz p q r => ivlOp a.ty fz (fun as => g (as.getD 0 ⟨0, 0⟩) (as.getD 1 ⟨0, 0⟩) (as.getD 2 ⟨0, 0⟩)) [p, q, r])

/-- A one-operand integer instruction. -/
def intUn (s : State) (a : LArgs) (f : Ty → Nat → Nat) (g : Ivl → Ivl) : Out :=
  laneUn s a (fun _ _ p => intOut a (f a.ty p)) (fun fz p => ivlOp a.ty fz (fun as => g (as.getD 0 ⟨0, 0⟩)) [p])

end Sys2Proof.Machine
end

