-- ==== Sys2Proof/Machine/Work.lean ====
section
/-!
DEFINITION. The dispenser of a launch and the units it hands out (02 R28 to R34, 16 R303 to R306, R313 to R315, 28 R443,
R444), and the work instructions (11 R200).
-/
namespace Sys2Proof.Machine

/-! ## Units -/

/-- The sentinel unit (R28). -/
def sentinel : W64 := BitVec.allOnes 64

/-- The number of units of a grid (R28). -/
def LRec.units (r : LRec) : Nat := r.d0 * r.d1 * r.d2 * r.d3

/-- The unit word of a linear index (R28). -/
def LRec.word (r : LRec) (i : Nat) : W64 :=
  let u0 := i % r.d0
  let a := i / r.d0
  let u1 := a % r.d1
  let b := a / r.d1
  BitVec.ofNat 64 (u0 + 65536 * u1 + 2 ^ 32 * (b % r.d2) + 2 ^ 48 * (b / r.d2))

/-- Coordinate d of a unit word. -/
def coord (w : W64) (d : Nat) : Nat := w.toNat / 2 ^ (16 * d) % 65536

/-- The linear index of a unit word (R28). -/
def LRec.index (r : LRec) (w : W64) : Nat := ((coord w 3 * r.d2 + coord w 2) * r.d1 + coord w 1) * r.d0 + coord w 0

/-- A word lies in the grid (R31). -/
def LRec.inGrid (r : LRec) (w : W64) : Bool :=
  decide (coord w 0 < r.d0) && decide (coord w 1 < r.d1) && decide (coord w 2 < r.d2) && decide (coord w 3 < r.d3)

/-- The linear index at place i of the dispenser's grid order (R29). -/
def State.gridAt (s : State) (x : Launch) (i : Nat) : Nat :=
  if x.kd.prio then s.vRead x.ctx (x.lr.uorder + 4 * i) 4 else i

/-- The next place of the grid order whose unit is not skipped (R409). -/
def State.gridSkip (s : State) (x : Launch) (i : Nat) : Nat → Option Nat
  | 0 => none
  | n + 1 => if x.lr.units ≤ i then none
    else if x.skip.contains (s.gridAt x i) then s.gridSkip x (i + 1) n else some i

/-- The next grid unit, if one is left: its place in the order. -/
def State.nextGrid (s : State) (x : Launch) : Option Nat := s.gridSkip x x.gridNext (x.skip.length + 1)

/-- The debug target a launch is bound to (R432). -/
def State.target (s : State) (x : Launch) : Option Target := x.target.map (fun k => Map.get {} (s.ctx x.ctx).targets k)

/-- RECORD and REPLAY of a launch. -/
def State.recording (s : State) (x : Launch) : Bool := match s.target x with | some t => t.tqctl.getLsbD 33 | none => false
/-- REPLAY of a launch. -/
def State.replaying (s : State) (x : Launch) : Bool := match s.target x with | some t => t.tqctl.getLsbD 34 | none => false

/-- The unit log of a launch is full: logging stops, and LOGFULL of its target is set (R443). -/
def State.logFullNow (s : State) (l : Nat) : State :=
  let x := s.lau l
  let s1 := s.setLau l { x with logFull := true }
  match x.target with
  | some k =>
    let c := s1.ctx x.ctx
    let t := Map.get {} c.targets k
    s1.setCtx x.ctx { c with targets := c.targets.put k { t with tqctl := t.tqctl ||| BitVec.ofNat 64 (2 ^ 36) } }
  | none => s1

/-- The dispenser logs a unit it hands out (R443). -/
def State.logUnit (s : State) (l g : Nat) (u : UnitRef) (lane : Nat) (element : Bool) : State :=
  let x := s.lau l
  match s.target x with
  | some t =>
    if s.recording x && !x.logFull then
      let w := s.grp g
      let bs := leBytes 8 u.word.toNat ++ leBytes 2 (s.blk w.block).bid ++ leBytes 2 w.gid ++ leBytes 1 lane ++ leBytes 1 u.level ++
        leBytes 2 (b2n element)
      if t.ulsize.toNat ≤ x.ulog then s.logFullNow l
      else
        let s1 := (s.vWriteBytes x.ctx (t.ulbase.toNat + 16 * x.ulog) bs).setLau l { x with ulog := x.ulog + 1 }
        if t.ulsize.toNat ≤ x.ulog + 1 then s1.logFullNow l else s1
    else s
  | none => s

/-- The entries of the unit log for a group, as (word, level, element queue), in log order (R444). -/
def State.logFor (s : State) (x : Launch) (bid gid : Nat) : List (W64 × Nat × Bool) :=
  match s.target x with
  | some t =>
    ((List.range t.ulsize.toNat).filter (fun i =>
      s.vRead x.ctx (t.ulbase.toNat + 16 * i + 8) 2 == bid && s.vRead x.ctx (t.ulbase.toNat + 16 * i + 10) 2 == gid)).map (fun i =>
        let a := t.ulbase.toNat + 16 * i
        (BitVec.ofNat 64 (s.vRead x.ctx a 8), s.vRead x.ctx (a + 13) 1, s.vRead x.ctx (a + 14) 1 % 2 == 1))
  | none => []

/-- The lanes of the same entries. -/
def State.logLanes (s : State) (x : Launch) (bid gid : Nat) : List Nat :=
  match s.target x with
  | some t =>
    ((List.range t.ulsize.toNat).filter (fun i =>
      s.vRead x.ctx (t.ulbase.toNat + 16 * i + 8) 2 == bid && s.vRead x.ctx (t.ulbase.toNat + 16 * i + 10) 2 == gid)).map (fun i =>
        s.vRead x.ctx (t.ulbase.toNat + 16 * i + 12) 1)
  | none => []

/-- A new node of a launch's unit tree. -/
def Launch.addNode (x : Launch) (n : UnitNode) : Launch × Nat :=
  let k := x.units.fresh
  ({ x with units := x.units.put k n }, k)

/-- A grid unit is taken: it becomes a node of its own root. -/
def Launch.takeGrid (x : Launch) (i : Nat) : Launch × UnitRef :=
  let (y, k) := x.addNode { word := x.lr.word i, level := 0, root := i }
  (y, ⟨k, x.lr.word i, 0⟩)

/-- A pushed unit as a reference. -/
def Launch.ref (x : Launch) (k : Nat) : UnitRef := let n := Map.get {} x.units k; ⟨k, n.word, n.level⟩

/-- Takes the next unit in dispenser order from the interval queue (`iv`) or the queue that serves element mode (R29,
R304). Only the first of an interval kernel's queues, and the one queue of another kernel, serve grid units. -/
def State.takeUnit (s : State) (l : Nat) (iv : Bool) : Option (Launch × UnitRef) :=
  let x := s.lau l
  let pushed := if iv then x.ivQueue else x.pushed
  match pushed with
  | k :: t => some (if iv then { x with ivQueue := t } else { x with pushed := t }, x.ref k)
  | [] =>
    if x.kd.iv && !iv then none
    else
      match s.nextGrid x with
      | some i => some (let (y, r) := x.takeGrid (s.gridAt x i); ({ y with gridNext := i + 1 }, r))
      | none => none

/-- Under replay, takes exactly the unit that the log lists next for the group, where it is available (R444). -/
def State.takeListed (s : State) (l : Nat) (e : W64 × Nat × Bool) : Option (Launch × UnitRef) :=
  let x := s.lau l
  let fromEl := e.2.2
  let q := if x.kd.iv && !fromEl then x.ivQueue else x.pushed
  match q.find? (fun k => let n := Map.get {} x.units k; n.word == e.1 && n.level == e.2.1) with
  | some k =>
    some (if x.kd.iv && !fromEl then { x with ivQueue := x.ivQueue.filter (fun j => j != k) }
          else { x with pushed := x.pushed.filter (fun j => j != k) }, x.ref k)
  | none =>
    let i := x.lr.index e.1
    if e.2.1 = 0 ∧ fromEl = false ∧ x.lr.inGrid e.1 = true ∧ x.skip.contains i = false then
      some (let (y, r) := x.takeGrid i; ({ y with skip := i :: y.skip }, r))
    else none

/-- A launch above or at which a cancel stands (R30, R33). -/
def State.cancelled (s : State) (l : Nat) : Bool :=
  let x := s.lau l
  x.cancelled ||
  (if x.lr.graph = 0xFFFF then false else (Map.get {} (s.ctx x.ctx).graphs x.lr.graph).cancelled)

/-- Every node of a root has been finished, and none was spoiled by a discard (R32, R34): the unit is complete. -/
def State.completeRoot (s : State) (l root : Nat) : State :=
  let x := s.lau l
  let tree := x.units.filter (fun kv => kv.2.root == root)
  if tree.all (fun kv => kv.2.finished && !kv.2.spoiled) && tree.any (fun kv => kv.2.path.isEmpty && !kv.2.complete) then
    let y := { x with units := x.units.map (fun kv => if kv.2.root = root ∧ kv.2.path = [] then (kv.1, { kv.2 with complete := true }) else kv) }
    let a := x.lr.bitmap + root / 8
    let old := s.vRead x.ctx a 1
    ((s.setLau l y).vWrite x.ctx a 1 (old ||| 2 ^ (root % 8))).bump x.ctx 8
  else s

/-- A unit is finished (R32). -/
def State.finishUnit (s : State) (l : Nat) (u : UnitRef) : State :=
  let x := s.lau l
  let n := Map.get {} x.units u.node
  (s.setLau l { x with units := x.units.put u.node { n with finished := true } }).completeRoot l n.root

/-- The units a group holds: its unit in element mode, or its lane units. -/
def Group.held (x : Group) : List UnitRef :=
  (match x.unit with | some u => [u] | none => []) ++ x.lut.filterMap (fun kv => kv.2.unit)

/-- A group's units are finished, and it holds none (R200, R305). -/
def State.finishHeld (s : State) (g : Nat) : State :=
  let x := s.grp g
  let s1 := x.held.foldl (fun t u => t.finishUnit x.launch u) s
  s1.setGrp g { s1.grp g with unit := none, lut := [] }

/-- Some other group of the launch holds an unfinished unit (R30, R305). -/
def State.othersHold (s : State) (g : Nat) (interval : Bool) : Bool :=
  let x := s.grp g
  s.groups.any (fun kv => kv.1 != g && kv.2.launch == x.launch && kv.2.residence != .ended && !kv.2.held.isEmpty &&
    (!interval || kv.2.interval))

/-- A group receives a unit in element mode; q of R255 starts again. -/
def Group.receive (x : Group) (d : Nat) (u : UnitRef) : Group :=
  { (x.setSr d u.word).adv with unit := some u, blevel := u.level, ordq := 0, wait := .none }

/-- A group receives the sentinel. -/
def Group.receiveNone (x : Group) (d : Nat) : Group :=
  { (x.setSr d sentinel).adv with unit := none, blevel := 0, ordq := 0, wait := .none }

/-- Lanes 0 up take units from the interval queue (R305). -/
def State.takeLanes (s : State) (g n : Nat) : Nat → State × Nat
  | 0 => (s, n)
  | fuel + 1 =>
    let l := (s.grp g).launch
    match s.takeUnit l true with
    | some (x, u) =>
      let s1 := (s.setLau l x).logUnit l g u n false
      let y := s1.grp g
      (s1.setGrp g { y with lut := y.lut.put n { unit := some u } }).takeLanes g (n + 1) fuel
    | none => (s, n)

/-- The next listed unit of a group under replay. -/
def State.listed (s : State) (g : Nat) : Option (W64 × Nat × Bool) :=
  let x := s.grp g
  let l := s.lau x.launch
  let bid := (s.blk x.block).bid
  (s.logFor l bid x.gid)[((l.replayAt.find? (fun p => p.1 == (bid, x.gid))).map (fun p => p.2)).getD 0]?

/-- How many listed units a group has been served. -/
def Launch.servedTo (x : Launch) (bid gid : Nat) : Nat := ((x.replayAt.find? (fun p => p.1 == (bid, gid))).map (fun p => p.2)).getD 0

/-- The units that the log lists for the next `dfetch` of a group in interval mode: those of lanes 0 up, at most 32 (R305, R444). -/
def State.listedRun (s : State) (g : Nat) : List (W64 × Nat × Bool) :=
  let x := s.grp g
  let l := s.lau x.launch
  let bid := (s.blk x.block).bid
  let i := l.servedTo bid x.gid
  let es := ((s.logFor l bid x.gid).zip (s.logLanes l bid x.gid)).drop i
  (((es.take 32).zipIdx).takeWhile (fun e => e.1.1.2.2 == false && e.1.2 == e.2)).map (fun e => e.1.1)

/-- More listed units of a group have been served. -/
def Launch.servedMore (x : Launch) (bid gid n : Nat) : Launch :=
  match x.replayAt.find? (fun p => p.1 == (bid, gid)) with
  | some _ => { x with replayAt := x.replayAt.map (fun p => if p.1 = (bid, gid) then (p.1, p.2 + n) else p) }
  | none => { x with replayAt := ((bid, gid), n) :: x.replayAt }

/-- Takes the listed units of a group's lanes, where all are available: the lanes with their units. -/
def State.takeRun (s : State) (l : Nat) : List (W64 × Nat × Bool) → Nat → Option (State × Map LaneUnit)
  | [], _ => some (s, [])
  | e :: t, n =>
    match s.takeListed l e with
    | some (y, u) => ((s.setLau l y).takeRun l t (n + 1)).map (fun r => (r.1, (n, { unit := some u }) :: r.2))
    | none => none

/-- The group enters element mode: the only way out of interval mode (R303, R305). -/
def Group.enterElement (x : Group) (d : Nat) : Group :=
  { (x.setSr d 0#64).adv with interval := false, unit := none, lut := [], blevel := 0, ordq := 0, wait := .none }

/-- `dfetch` resolves (R30, R305, R444): a unit, the sentinel, or a wait. The group holds no unit. -/
def State.dispense (s : State) (g d : Nat) : State :=
  let x := s.grp g
  let l := x.launch
  let bid := (s.blk x.block).bid
  if s.cancelled l then
    s.setGrp g (if x.interval then x.enterElement d else x.receiveNone d)
  else if s.replaying (s.lau l) then
    if x.interval then
      let es := s.listedRun g
      if es.isEmpty then s.setGrp g (x.enterElement d)
      else
        match s.takeRun l es 0 with
        | some (s1, lut) =>
          (s1.setLau l ((s1.lau l).servedMore bid x.gid es.length)).setGrp g
            { (x.setSr d (BitVec.ofNat 64 (2 ^ es.length - 1))).adv with
              lut := lut, blevel := (match es with | e :: _ => e.2.1 | [] => 0), ordq := 0, wait := .none }
        | none => s.setGrp g { x with wait := .dfetch }
    else
      match s.listed g with
      | none => s.setGrp g (x.receiveNone d)
      | some e =>
        match s.takeListed l e with
        | some (y, u) => (s.setLau l (y.servedMore bid x.gid 1)).setGrp g (x.receive d u)
        | none => s.setGrp g { x with wait := .dfetch }
  else if x.interval then
    let (s1, n) := s.takeLanes g 0 32
    let y := s1.grp g
    if n = 0 then
      if s1.othersHold g true then s1.setGrp g { y with wait := .dfetch } else s1.setGrp g (y.enterElement d)
    else
      let lvl := match (Map.get {} y.lut 0).unit with | some u => u.level | none => 0
      s1.setGrp g { (y.setSr d (BitVec.ofNat 64 (2 ^ n - 1))).adv with blevel := lvl, ordq := 0, wait := .none }
  else
    match s.takeUnit l false with
    | some (y, u) => ((s.setLau l y).logUnit l g u 0 (s.lau l).kd.iv).setGrp g (x.receive d u)
    | none => if s.othersHold g false then s.setGrp g { x with wait := .dfetch } else s.setGrp g (x.receiveNone d)

/-- A request of a group at its launch's dispenser, whose outcome is `k`: requests of one tick are served by core, slot and `%gid`
(R30), so that one which comes before another already served in this tick waits for the next. -/
def State.atDispenser (s : State) (g : Nat) (x : Group) (k : State) : State :=
  if s.marks.any (fun m => match m with | .served l n => l == x.launch && decide (x.place < n) | _ => false) then s
  else if (k.grp g).pc = x.pc then k
  else { k with marks := .served x.launch x.place :: k.marks }

/-- `dfetch sD` (R200): finishes the held units with a release of device scope, then obtains a unit. -/
def execDfetch (d : Nat) (s : State) : Out :=
  scalarGo s [] [d] [] (fun x =>
    if !x.held.isEmpty && !x.quiet then s
    else s.atDispenser s.cur x ((s.finishHeld s.cur).dispense s.cur d))

/-- DFETCH_WAKE (R30, R305): a group that waits at the dispenser asks again. -/
def execDfetchWake (g : Nat) (s : State) : Out :=
  .next (match Map.find s.groups g with
    | some x =>
      if x.wait = .dfetch ∧ s.issuing x = true then
        match s.fetchScalar x x.pc.toNat with
        | .bytes bs => match decode bs with
          | .ok (.dfetch d, _) => s.atDispenser g x (s.dispense g d)
          | _ => s
        | _ => s
      else s
    | none => s)

/-- `ddone` (R200): the release, then the held units are finished. -/
def execDdone (s : State) : Out :=
  scalarGo s [] [] [] (fun x =>
    if !x.quiet then s
    else
      let s1 := s.finishHeld s.cur
      s1.setGrp s.cur (s1.grp s.cur).adv)

/-- A child of a unit in the dispenser's tree: its path is its parent's with the push index appended (R255). -/
def Launch.pushChild (x : Launch) (parent : Nat) (word : W64) (level : Nat) (index : Option Nat) : Launch × Nat :=
  let p := Map.get {} x.units parent
  let k := index.getD p.pushes
  let y := { x with units := x.units.put parent { p with pushes := p.pushes + 1 } }
  y.addNode { word := word, level := level, parent := some parent, root := p.root, path := p.path ++ [k] }

/-- A discarded push leaves its grid unit incomplete (R34). -/
def State.spoil (s : State) (l node : Nat) : State :=
  let x := s.lau l
  let n := Map.get {} x.units node
  s.setLau l { x with units := x.units.put node { n with spoiled := true } }

/-- A push that the log lists nowhere makes a replayed launch diverge (R444): it is cancelled, with cause 5. -/
def State.pushListed (s : State) (l : Nat) (word : W64) (level : Nat) (element : Bool) : State :=
  let x := s.lau l
  if s.replaying x then
    match s.target x with
    | some t =>
      if (List.range t.ulsize.toNat).any (fun i =>
        let a := t.ulbase.toNat + 16 * i
        s.vRead x.ctx a 8 == word.toNat && s.vRead x.ctx (a + 13) 1 == level && (s.vRead x.ctx (a + 14) 1 % 2 == 1) == element) then s
      else (s.setLau l { x with fail := 5 }).cancelLaunch l
    | none => s
  else s

/-- `dpush sD, sA` (R200, R31): illegal in interval mode (R305). -/
def execDpush (d a : Nat) (s : State) : Out :=
  scalarGoIf s (fun x => illegalIf x.interval) [a] [d] [] (fun x => s.atDispenser s.cur x (
    let l := s.lau x.launch
    let w := x.sr a
    match x.unit with
    | none => s.writeS x d 0#64
    | some u =>
      if l.budget = 0 ∨ l.lr.inGrid w = false then s.writeS x d 0#64
      else if s.cancelled x.launch then (s.spoil x.launch u.node).setGrp s.cur (x.setSr d 0#64).adv
      else
        let (y, k) := l.pushChild u.node w (x.blevel + 1) none
        let s1 := s.setLau x.launch { y with budget := y.budget - 1, pushed := k :: y.pushed }
        (s1.pushListed x.launch w (x.blevel + 1) l.kd.iv).setGrp s.cur (x.setSr d 1#64).adv))

/-- One lane of `dpush.q` (R313): the lane's unit is quartered, or handed off; true for quartered. -/
def State.quarter (s : State) (g lane e0 e1 : Nat) : State × Bool :=
  let x := s.grp g
  let l := s.lau x.launch
  let t := Map.get {} x.lut lane
  match t.unit with
  | none => (s, false)
  | some u =>
    let y := { x with lut := x.lut.put lane { t with done := true } }
    let k := u.level
    let u0 := coord u.word 0
    let u1 := coord u.word 1
    if t.nan || !(extentOk e0) || !(extentOk e1) || decide (e0 / 2 ^ k < 4) || decide (e1 / 2 ^ k < 4) || decide (x.blimit < k + 1) ||
        decide (0xFFFE < 2 * u0 + 1) || decide (0xFFFE < 2 * u1 + 1) || decide (l.budget < 4) then
      let (l1, n) := l.pushChild u.node u.word k (some 0)
      (((s.setLau x.launch { l1 with pushed := n :: l1.pushed }).setGrp g y).pushListed x.launch u.word k true, false)
    else
      let hi := u.word.toNat / 2 ^ 32 * 2 ^ 32
      let kids : List (Nat × Nat) := [(0, 0), (1, 0), (0, 1), (1, 1)]
      let (l1, _) := kids.foldl (fun (p : Launch × Nat) ab =>
        let w := BitVec.ofNat 64 (hi + 65536 * (2 * u1 + ab.2) + (2 * u0 + ab.1))
        let (m, n) := p.1.pushChild u.node w (k + 1) (some p.2)
        ({ m with ivQueue := n :: m.ivQueue }, p.2 + 1)) (l, 0)
      let s1 := (s.setLau x.launch { l1 with budget := l.budget - 4 }).setGrp g y
      (kids.foldl (fun t ab => t.pushListed x.launch (BitVec.ofNat 64 (hi + 65536 * (2 * u1 + ab.2) + (2 * u0 + ab.1))) (k + 1) false) s1, true)

/-- The lanes that the push instructions act on (R313, R314). -/
def Group.pushLanes (x : Group) (k : Nat) : List Nat :=
  (lanesOf (x.m0 &&& x.mask k)).filter (fun l => let t := Map.get {} x.lut l; t.unit.isSome && !t.done)

/-- After a cancel the push instructions discard: the lanes' grid units stay incomplete (R34, R313). -/
def State.spoilLanes (s : State) (x : Group) (ls : List Nat) : State :=
  ls.foldl (fun t l => match (Map.get {} x.lut l).unit with
    | some u => t.spoil x.launch u.node
    | none => t) s

/-- `dpush.q sD, mK` (R313): illegal in element mode (R315). -/
def execDpushQ (d k : Nat) (s : State) : Out :=
  scalarGoIf s (fun x => illegalIf (!x.interval)) [d] [d] [k] (fun x => s.atDispenser s.cur x (
    let ls := x.pushLanes k
    if s.cancelled x.launch then (s.spoilLanes x ls).setGrp s.cur (x.setSr d 0#64).adv
    else
      let e0 := bits (x.sr d).toNat 31 0
      let e1 := bits (x.sr d).toNat 63 32
      let (s1, q, e) := ls.foldl (fun (p : State × Nat × Nat) l =>
        let (t, b) := p.1.quarter s.cur l e0 e1
        if b then (t, p.2.1 + 2 ^ l, p.2.2) else (t, p.2.1, p.2.2 + 2 ^ l)) (s, 0, 0)
      s1.writeS (s1.grp s.cur) d (BitVec.ofNat 64 (2 ^ 32 * e + q))))

/-- `dpush.e sD, mK` (R314): illegal in element mode (R315). -/
def execDpushE (d k : Nat) (s : State) : Out :=
  scalarGoIf s (fun x => illegalIf (!x.interval)) [] [d] [k] (fun x => s.atDispenser s.cur x (
    let ls := x.pushLanes k
    if s.cancelled x.launch then (s.spoilLanes x ls).setGrp s.cur (x.setSr d 0#64).adv
    else
      let s1 := ls.foldl (fun (t : State) l =>
        let y := t.grp s.cur
        let e := Map.get {} y.lut l
        match e.unit with
        | some u =>
          let (l1, n) := (t.lau y.launch).pushChild u.node u.word u.level (some 0)
          ((t.setLau y.launch { l1 with pushed := n :: l1.pushed }).setGrp s.cur
            { y with lut := y.lut.put l { e with done := true } }).pushListed y.launch u.word u.level true
        | none => t) s
      s1.writeS (s1.grp s.cur) d (BitVec.ofNat 64 (ls.foldl (fun a l => a + 2 ^ l) 0))))

end Sys2Proof.Machine
end

