-- ==== Sys2Proof/Machine/ScalarSys.lean ====
section
/-!
DEFINITION. The frontier instructions (03 R46 to R55), windows (11 R185 to R187), constants (R190), special registers
(R198, R199, 09 R157), counters and handles (R194 to R197), register requests (R206), regions and breakpoints (R207,
R208, 28 R434), traps and their return (R211, R212), `vdone` (R210), barriers (R202), `join`.
-/
namespace Sys2Proof.Machine

/-! ## Frontiers -/

/-- `fsplit mK, target` (R47). -/
def execFsplit (k o : Nat) (s : State) : Out :=
  scalarGo s [] [] [k] (fun x =>
    let taken := x.m0 &&& x.mask k
    let fall := x.m0 &&& ~~~ (x.mask k)
    let next := x.pc + 4#64
    let target := sbTarget' x o
    let back : Bool := decide ((x.pc.toNat : Int) + 4 * sext 16 o < (next.toNat : Int))
    if taken = 0#32 ∨ target = next then s.setGrp s.cur { x with pc := next }
    else if fall = 0#32 then s.setGrp s.cur { x with pc := target }
    else if back then
      match x.push next.toNat fall with
      | some y => s.setGrp s.cur { y with m0 := taken, pc := target }
      | none => s.trapGroup s.cur cFrontier
    else
      match x.push target.toNat taken with
      | some y => s.setGrp s.cur { y with m0 := fall, pc := next }
      | none => s.trapGroup s.cur cFrontier)
where
  /-- sb_target (R144). -/
  sbTarget' (x : Group) (o : Nat) : W64 := x.pc + BitVec.ofInt 64 (4 * sext 16 o)

/-- The ordinary entry at an address merges into the running path (R48 step 1, R45). -/
def Group.mergeHere (x : Group) : Group :=
  let a := x.pc.toNat / 4
  match lowestEntry (fun e => e.kind == .ordinary && e.addr == a) x.front with
  | some i => { x with m0 := x.m0 ||| (x.front.getD i {}).mask, front := x.front.set i {} }
  | none => x

/-- `fent` (R48). -/
def execFent (s : State) : Out :=
  scalarGo s [] [] [] (fun x =>
    let y := x.mergeHere
    let a := x.pc.toNat / 4
    match lowestEntry (fun e => y.eligible e && decide (e.addr < a)) y.front with
    | some _ =>
      match y.push x.pc.toNat y.m0 with
      | some z => s.setGrp s.cur z.continueLowest
      | none => s.trapGroup s.cur cFrontier
    | none => s.setGrp s.cur y.adv)

/-- `fnext` (R49). -/
def execFnext (s : State) : Out :=
  scalarGo s [] [] [] (fun x =>
    let a := (x.pc.toNat + 4) / 4
    match x.push (x.pc.toNat + 4) x.m0 with
    | none => s.trapGroup s.cur cFrontier
    | some y =>
      match lowestEntry (fun e => y.eligible e && e.addr != a) y.front with
      | some i => s.setGrp s.cur (y.take i)
      | none =>
        match lowestEntry (fun e => e.kind == .ordinary && e.addr == a) y.front with
        | some i => s.setGrp s.cur (y.take i)
        | none => s.setGrp s.cur x.adv)

/-- `fany sD, mK` (R52). -/
def execFany (d k : Nat) (s : State) : Out :=
  scalarGo s [] [d] [k] (fun x => s.writeS x d (BitVec.ofNat 64 (popMask (x.m0 &&& x.mask k))))

/-- `fjoin mK, sD, t` (R54): t ticks are 16 times the field. -/
def execFjoin (k d t : Nat) (s : State) : Out :=
  scalarGo s [] [d] [k] (fun x =>
    let a := x.pc.toNat / 4
    match lowestEntry (fun e => e.kind == .joinWait && e.addr == a) x.front with
    | some i =>
      let e := x.front.getD i {}
      let e1 := { e with mask := e.mask ||| x.m0 }
      s.setGrp s.cur (settle x i e1)
    | none =>
      let e : FEntry := { kind := .joinWait, mask := x.m0, jset := x.mask k, fmt := x.fmt, addr := a, hnd := x.trap.isSome, sd := d, tleft := 16 * t }
      if t = 0 then
        let bit := if (e.jset &&& ~~~ (e.mask ||| x.retired)) = 0#32 then 1#64 else 0#64
        s.setGrp s.cur (x.setSr d bit).adv
      else
        match lowestEntry (fun f => f.kind == .free) x.front with
        | some i => s.setGrp s.cur (settle x i e)
        | none => s.trapGroup s.cur cFrontier)
where
  /-- The entry after an arrival: resolved with 1, or with 0 once the tick in which TLEFT reached zero has ended, or left to wait
  (R54, R55). -/
  settle (x : Group) (i : Nat) (e : FEntry) : Group :=
    let go (bit : W64) : Group :=
      { x.setSr e.sd bit with m0 := e.mask, fmt := e.fmt, pc := BitVec.ofNat 64 (4 * e.addr + 4), front := x.front.set i {} }
    if (e.jset &&& ~~~ (e.mask ||| x.retired)) = 0#32 then go 1#64
    else if e.lapsed then go 0#64
    else { x with front := x.front.set i e }.continueLowest

/-- JOIN_WAIT_TIMEOUT (R55): at an instruction boundary of a group with no live trap record, waits whose deadline has
passed resolve. -/
def execJoinWaitTimeout (g : Nat) (s : State) : Out :=
  .next (match Map.find s.groups g with
    | some x =>
      if x.trap.isNone && s.issuing x && (x.wait == .none || x.wait == .frontier) then s.setGrp g (x.resolveExpired 16) else s
    | none => s)

/-! ## Windows -/

/-- `wset wK, sA` (R185). -/
def execWset (k a : Nat) (s : State) : Out :=
  scalarGo s [a] [] [] (fun x =>
    let v := (x.sr a).toNat
    if 2 ^ 57 ≤ v then s.trapGroup s.cur cNoncan
    else
      let s1 := if inScratch v || inPrivate v then s else s.tlbFill (.core x.core) x.ctx v
      s1.setGrp s.cur (x.setWin k (s.fillWindow (.core x.core) x.ctx v)).adv)

/-- `winv wK` (R185). -/
def execWinv (k : Nat) (s : State) : Out :=
  scalarGo s [] [] [] (fun x => s.setGrp s.cur (x.setWin k { x.win k with v := false }).adv)

/-- `wlim sD, wK` (R186). -/
def execWlim (d k : Nat) (s : State) : Out :=
  scalarGo s [] [d] [] (fun x =>
    let y := s.refill x k
    s.writeS y d (if (y.win k).v then BitVec.ofNat 64 (y.win k).lim else 0#64))

/-- `prvaddr sD, sA` (R187). -/
def execPrvaddr (d a : Nat) (s : State) : Out :=
  scalarGo s [a] [d] [] (fun x =>
    let v := (x.sr a).toNat
    if 2 ^ 57 ≤ v then s.trapGroup s.cur cNoncan
    else if !(inPrivate v) then s.writeS x d (x.sr a)
    else if x.stklim ≤ apOff v then s.trapGroup s.cur cStk
    else s.writeS x d (BitVec.ofNat 64 (s.backing x (apOff v))))

/-- `ldk sD, k` (R190): where the table has been written since binding, the old word or the new one. -/
def execLdk (d im : Nat) (s : State) : Out :=
  scalarGo s [] [d] [] (fun x =>
    let kd := s.kd x
    if kd.csize ≤ im then s.trapGroup s.cur cFetch
    else
      match s.fetchAt x (kd.cbase + 8 * im) 8 with
      | .missing pg => s.pageFaultScalar s.cur pg 3
      | .bad => s.trapGroup s.cur cFetch
      | .spoilt loc => s.trapData loc
      | .bytes bs =>
        let now := BitVec.ofNat 64 (leNat bs)
        match (s.lau x.launch).ctab[im]? with
        | some old =>
          if old = now then s.writeS x d now
          else s.nextFree.writeS x d (if Config.freeChoice s.freeCtr then old else now)
        | none => s.writeS x d now)

/-! ## Special registers -/

/-- `%ccnt` of a die (R448, R449): frozen while the clock is stopped. -/
def State.ccnt (s : State) (d : Nat) : Nat :=
  let k := s.clk d
  let now := match k.relock with | some (t, _) => t | none => s.gtime
  k.cstepC + (now - k.cstepG) * k.cfreq / 1000

/-- `%vdead` (R126, R137): what is left of the handler window; 0 outside it. DEDUCED (log 175): the groups that R458 puts in the
window read what is left of it, those in a trap handler among them, and every other group reads 0. -/
def State.vdead (s : State) (x : Group) : Nat :=
  match (s.ctx x.ctx).vac with
  | some v => if s.inOpenWindow x then v.d - (s.gtime - v.t0) else 0
  | none => 0

/-- The value of a special register by its code (R157, R126, R131, R448). -/
def State.special (s : State) (x : Group) (r : Nat) : Nat :=
  let die := dieOfCore x.core
  let c := s.ctx x.ctx
  let l := s.lau x.launch
  let reg (n : Nat) : Nat := x.rstack.reverse.getD n 0
  match r with
  | 0x000 => s.gtime
  | 0x001 => s.ccnt die
  | 0x002 => (s.clk die).cstepG
  | 0x003 => (s.clk die).cstepC
  | 0x004 => (s.clk die).cfreq
  | 0x005 => s.atick
  | 0x010 => x.fmt.toNat
  | 0x011 => x.fflags.toNat
  | 0x012 => match x.trap with | some t => t.tcause.toNat | none => 0
  | 0x013 => match x.trap with | some t => t.f.toNat | none => 0
  | 0x014 => x.stklim
  | 0x018 => x.sigdim
  | 0x019 => x.sigdepth
  | 0x01A => x.blevel
  | 0x01B => x.blimit
  | 0x020 => x.gid
  | 0x021 => (s.blk x.block).bid
  | 0x022 => l.lid
  | 0x023 => x.core
  | 0x024 => die
  | 0x025 => l.ncores
  | 0x030 => reg 0
  | 0x031 => reg 1
  | 0x032 => reg 2
  | 0x033 => reg 3
  | 0x040 => c.vbcur.toNat
  | 0x041 => c.estimate
  | 0x042 => c.vbcur.toNat - c.estimate
  | 0x043 => x.vmode.toNat
  | 0x044 => s.vdead x
  | 0x050 => 700
  | 0x051 => 1600
  | 0x052 => 2400
  | 0x053 => 6000
  | 0x054 => 8000
  | 0x055 => 400
  | 0x056 => 1200
  | 0x058 => c.floor die 0
  | 0x059 => c.floor die 1
  | 0x05A => c.floor 4 2
  | 0x05B => c.floor 4 3
  | 0x05C => c.floor die 4
  | _ => 0

/-- `sget sD, %name` (R198): `%fflags` waits on the lane queue (R117). -/
def execSget (d r : Nat) (s : State) : Out :=
  scalarGo s [] [d] [] (fun x =>
    if r = 0x011 ∧ x.queue ≠ [] then s else s.writeS x d (BitVec.ofNat 64 (s.special x r)))

/-- A write of a special register (R198, R157, R119): the group after it, or the cause. RO registers ignore it. -/
def State.setSpecial (s : State) (x : Group) (r : Nat) (w : W64) : Except Nat Group :=
  let v := w.toNat
  match r with
  | 0x010 => if fmtValid v then .ok { x with fmt := BitVec.ofNat 32 v } else .error cFmt
  | 0x011 => .ok { x with fflags := BitVec.ofNat 32 (v % 32) }
  | 0x014 => if v % 16 = 0 ∧ v ≤ (s.kd x).priv then .ok { x with stklim := v } else .error cIllegal
  | 0x018 => if 1 ≤ v ∧ v ≤ 32 then .ok { x with sigdim := v } else .error cIllegal
  | 0x019 => if 1 ≤ v ∧ v ≤ 8 then .ok { x with sigdepth := v } else .error cIllegal
  | 0x01B => if v ≤ 8 then .ok { x with blimit := v } else .error cIllegal
  | 0x043 => .ok { x with vmode := BitVec.ofNat 32 (v % 2) }
  | _ => .ok x

/-- `sset %name, sA` (R198). -/
def execSset (r a : Nat) (s : State) : Out :=
  scalarGo s [a] [] [] (fun x =>
    if r = 0x011 ∧ x.queue ≠ [] then s
    else
      match s.setSpecial x r (x.sr a) with
      | .ok y => s.setGrp s.cur y.adv
      | .error c => s.trapGroup s.cur c)

/-- `fmtset sA, f` (R199). -/
def execFmtset (f a : Nat) (s : State) : Out :=
  scalarGo s [a] [] [] (fun x =>
    let new := fmtMerge x.fmt f ((x.sr a).setWidth 32)
    if fmtValid new.toNat then s.setGrp s.cur { x with fmt := new }.adv else s.trapGroup s.cur cFmt)

/-! ## Counters and handles -/

/-- The least cause that a tile operation older than a number deferred (R271): taken by the first covering `wcnt`, or by
`end`. -/
def Group.deferredCause (x : Group) (upTo : Nat) : Option Nat :=
  (x.deferred.filter (fun d => decide (d.opNo < upTo))).foldl (fun (b : Option Deferred) d =>
    match b with
    | some e => if d.opNo < e.opNo then some d else b
    | none => some d) none |>.map (fun d => d.code)

/-- Takes a deferred tile cause (R271). -/
def State.takeDeferred (s : State) (upTo code : Nat) : State :=
  let x := s.me
  (s.setGrp s.cur { x with deferred := x.deferred.filter (fun d => !(decide (d.opNo < upTo))) }).trapGroup s.cur code

/-- The marked entries of vector registers that a `wcnt` with an L count covers (R395): those of loads with as many later loads. A
mark that no load has made is covered by a count of 0. -/
def Group.covered (x : Group) (l : Nat) : List Nat :=
  x.verr.filter (fun k => match Map.find x.verrOf k with | some n => decide (n + l < x.loadNo) | none => l == 0)

/-- Uncorrectable data that no lane instruction has read, in these entries, is raised at these instructions (R395). -/
def State.leftover (s : State) (x : Group) (keys : List Nat) (k : State) : State :=
  if keys.isEmpty then k
  else ((s.setGrp s.cur { x with verr := x.verr.filter (fun e => !(keys.contains e)) }).postGrp s.cur .fault 4 cData 0 6).trapGroup s.cur cData

/-- The same of all that is marked. -/
def State.leftoverData (s : State) (x : Group) (k : State) : State := s.leftover x x.verr k

/-- `vsync` (R194). -/
def execVsync (s : State) : Out :=
  scalarGo s [] [] [] (fun x =>
    if x.queue ≠ [] then s else s.leftoverData x (s.setGrp s.cur x.adv))

/-- `wcnt` (R195, R98): waits until every earlier operation of a class that is written has been issued, then until each
counter holds no more than its count; deferred tile causes and uncorrectable data that it covers are taken here (R271, R395). -/
def execWcnt (l st c t k : Nat) (s : State) : Out :=
  scalarGo s [] [] [] (fun x =>
    let within (cl : OpClass) (n : Nat) : Bool := n == 31 || decide (x.count cl ≤ n)
    if ((l < 31 ∨ st < 31 ∨ t < 31) ∧ x.queue ≠ []) then s
    else if within .l l && within .s st && within .c c && within .t t && within .k k then
      let upTo := x.tileNo - t
      match x.deferredCause upTo with
      | some code => s.takeDeferred upTo code
      | none => s.leftover x (x.covered l) (s.setGrp s.cur x.adv)
    else s)

/-- The layout of a handle (R196). -/
def handleWord (kind lid gid seq : Nat) : W64 := BitVec.ofNat 64 (kind * 2 ^ 60 + lid * 2 ^ 44 + gid * 2 ^ 34 + seq)

/-- The handle that a word names in its own group; none raises handle-invalid (R196). DESIGN CHOICE (log 170): a word whose SEQ
was issued but whose KIND is another of 1 to 3 than that of the operation names none either. -/
def State.handleOf (s : State) (x : Group) (w : W64) : Option (Nat × Handle) :=
  let v := w.toNat
  if bits v 59 44 = (s.lau x.launch).lid ∧ bits v 43 34 = x.gid then
    match Map.find x.handles (bits v 33 0) with
    | some h => if h.kind = bits v 63 60 ∧ 1 ≤ h.kind ∧ h.kind ≤ 3 then some (bits v 33 0, h) else none
    | none => none
  else none

/-- `hwait sA` (R197). -/
def execHwait (a : Nat) (s : State) : Out :=
  scalarGo s [a] [] [] (fun x =>
    match s.handleOf x (x.sr a) with
    | none => s.trapGroup s.cur cHandle
    | some (_, h) => if h.status = 0 then s else s.setGrp s.cur x.adv)

/-- `htest sD, sA` (R197). -/
def execHtest (d a : Nat) (s : State) : Out :=
  scalarGo s [a] [d] [] (fun x =>
    match s.handleOf x (x.sr a) with
    | none => s.trapGroup s.cur cHandle
    | some (_, h) => s.writeS x d (BitVec.ofNat 64 h.status))

/-- Withdraws a copy before any byte has been read: its charges are released, its counter entry is done (R197, R292). -/
def State.withdrawCopy (s : State) (x : Group) (k : Nat) : State :=
  let cp := Map.get {} s.copies k
  let s1 := ({ s with copies := s.copies.put k { cp with status := 2 } }).release x.ctx cp.charge
  s1.setGrp s.cur (x.finishOp cp.opId)

/-- `hcancel sD, sA` (R197): a collective is never withdrawn. -/
def execHcancel (d a : Nat) (s : State) : Out :=
  scalarGo s [a] [d] [] (fun x =>
    match s.handleOf x (x.sr a) with
    | none => s.trapGroup s.cur cHandle
    | some (seq, h) =>
      if h.status ≠ 0 then s.writeS x d 0#64
      else if h.kind = 1 ∧ (Map.get {} s.copies h.obj).begun = false then
        let s1 := (s.withdrawCopy x h.obj).setHandle s.cur seq 2
        s1.writeS (s1.grp s.cur) d 1#64
      else if h.kind = 3 ∧ (s.lau h.obj).unplaced = true then
        let s1 := s.discardLaunch h.obj
        s1.writeS (s1.grp s.cur) d 1#64
      else s.writeS x d 0#64)

/-- `join sA` (R201): waits until the child has status 1, 2 or 3. DESIGN CHOICE (log 170): a valid handle of another kind than
that of a launch raises handle-invalid. -/
def execJoin (a : Nat) (s : State) : Out :=
  scalarGo s [a] [] [] (fun x =>
    match s.handleOf x (x.sr a) with
    | none => s.trapGroup s.cur cHandle
    | some (_, h) =>
      if h.kind ≠ 3 then s.trapGroup s.cur cHandle
      else if h.status = 0 then s.setGrp s.cur { x with wait := .join h.obj }
      else s.setGrp s.cur { x with wait := .none }.adv)

/-- JOIN_WAKE (R201): the child has ended; the group that waits continues, restored where it was saved. -/
def execJoinWake (g : Nat) (s : State) : Out :=
  .next (match Map.find s.groups g with
    | some x =>
      match x.wait with
      | .join l =>
        if (s.lau l).phase ≠ .finished ∨ !((s.ctx x.ctx).st == .running) then s
        else if x.residence = .resident then s.setGrp g { x with wait := .none }.adv
        else if x.residence = .saved 2 ∧ s.fits x = true then
          let s1 := s.restoreGroup g
          s1.setGrp g { s1.grp g with wait := .none }.adv
        else s
      | _ => s
    | none => s)

/-! ## Barriers (R202) -/

/-- `bar.blk n`: arrival is a release, so every earlier access has been performed. -/
def execBarBlk (n : Nat) (s : State) : Out :=
  scalarGo s [] [] [] (fun x => if !x.quiet then s else s.setGrp s.cur { x with wait := .bar 0 n })

/-- `bar.clu n`. -/
def execBarClu (n : Nat) (s : State) : Out :=
  scalarGo s [] [] [] (fun x => if !x.quiet then s else s.setGrp s.cur { x with wait := .bar 1 n })

/-- The spire of a core, device-wide (R7). -/
def spireOf (core : Nat) : Nat := core / 16

/-- The participants of a group's barrier: its block, or the blocks of its launch in its spire (R23, R202). -/
def State.barPeers (s : State) (x : Group) (kind : Nat) : List (Nat × Group) :=
  s.groups.filter (fun kv => kv.2.launch == x.launch && kv.2.residence != .ended &&
    (if kind = 0 then kv.2.block == x.block else spireOf (s.blk kv.2.block).core0 == spireOf (s.blk x.block).core0))

/-- BARRIER_RELEASE (R202): every participant that has not ended waits at the barrier; all depart. -/
def execBarrierRelease (g : Nat) (s : State) : Out :=
  .next (match Map.find s.groups g with
    | some x =>
      match x.wait with
      | .bar kind n =>
        let ps := s.barPeers x kind
        if ps.all (fun kv => kv.2.wait == .bar kind n && kv.2.residence == .resident) then
          ps.foldl (fun t kv => t.setGrp kv.1 { (t.grp kv.1).adv with wait := .none }) s
        else s
      | _ => s
    | none => s)

/-! ## Register requests (R37 to R39, R206, R353) -/

/-- `vgrow n`, n in units of 8: waits for the lane queue; above the maximum, or beyond a frame, it raises register-limit;
otherwise it requests, and is granted by VGROW_GRANT. -/
def execVgrow (n : Nat) (s : State) : Out :=
  scalarGo s [] [] [] (fun x =>
    if x.queue ≠ [] then s
    else s.leftoverData x (
      if (s.kd x).vmax < x.valloc + n ∨ allocFits x.salloc (x.valloc + n) = false then s.trapGroup s.cur cLimit
      else s.setGrp s.cur { x with wait := .vgrow n s.clock }))

/-- Registers of a vector register file from register k up read zero, with no error bit. -/
def Group.zeroFrom (x : Group) (k : Nat) : Group :=
  { x with vreg := x.vreg.filter (fun e => decide (e.1 < 32 * k)), verr := x.verr.filter (fun e => decide (e < 32 * k)) }

/-- `vshrink n`: the highest-numbered registers return to the slot at once. It waits for loads in flight to them, so that a
register added later reads zero (R206). -/
def execVshrink (n : Nat) (s : State) : Out :=
  scalarGo s [] [] [] (fun x =>
    if x.queue ≠ [] ∨ x.pendV.any (fun r => decide (8 * (x.valloc - n) ≤ r)) = true then s
    else s.leftoverData x (
      if x.valloc < (s.kd x).vmin + n then s.trapGroup s.cur cLimit
      else s.setGrp s.cur ({ x with valloc := x.valloc - n }.zeroFrom (8 * (x.valloc - n))).adv))

/-! ## Regions, breakpoints, traps -/

/-- The group after an instruction that makes a region edge (R434). -/
def Group.edge (x : Group) : Group := { x.adv with atEdge := true }

/-- `rgn.enter id` (R207). -/
def execRgnEnter (id : Nat) (s : State) : Out :=
  scalarGo s [] [] [] (fun x =>
    if (s.kd x).rgn ≤ x.rstack.length then s.trapGroup s.cur cRegion
    else s.setGrp s.cur { x with rstack := x.rstack ++ [id] }.edge)

/-- `rgn.leave` (R207). -/
def execRgnLeave (s : State) : Out :=
  scalarGo s [] [] [] (fun x =>
    if x.rstack = [] then s.trapGroup s.cur cRegion
    else s.setGrp s.cur { x with rstack := x.rstack.dropLast }.edge)

/-- ARM of a launch (R208, R432). -/
def State.armed (s : State) (x : Group) : Bool :=
  (s.ctx x.ctx).dbgctl.getLsbD 0 || (match s.target (s.lau x.launch) with | some t => t.tqctl.getLsbD 35 | none => false)

/-- `brk n` (R208): stops at the edge after it where armed, else raises breakpoint. -/
def execBrk (n : Nat) (s : State) : Out :=
  scalarGo s [] [] [] (fun x =>
    if s.armed x then s.setGrp s.cur { x.edge with dbgStop := some 1, brkArg := n } else s.trapGroup s.cur cBrk n)

/-- `trap n` (R211). -/
def execTrap (n : Nat) (s : State) : Out := scalarGo s [] [] [] (fun _ => s.trapGroup s.cur cUser n)

/-- `tret mK` (R212). -/
def execTret (k : Nat) (s : State) : Out := scalarGo s [] [] [k] (fun x => s.trapReturn s.cur (x.mask k))

/-- `vdone` (R210): the vacate handler ends; the group issues nothing more until the vacate completes; in a resumed
window it ends the window's handler path (R337). -/
def execVdone (s : State) : Out :=
  scalarGo s [] [] [] (fun x =>
    match x.trap with
    | some r =>
      if r.handler ≠ .vacate then s.trapGroup s.cur cIllegal
      else if x.handlerEntries then s.stopGroup s.cur cDouble r.f
      else
        let y := x.returned { r with i := none } r.f
        s.setGrp s.cur { y with vdone := (s.ctx x.ctx).vac.isSome, window := false }
    | none => s.trapGroup s.cur cIllegal)

/-- ILLEGAL_SCALAR_WORD (R145, R158): the word at `pc` is no instruction. -/
def execIllegalScalarWord (s : State) : Out := scalarGo s [] [] [] (fun _ => s.trapGroup s.cur cIllegal)

/-- SCALAR_FETCH_FAULT (R191): `pc` is misaligned or at or beyond SSIZE. -/
def execScalarFetchFault (s : State) : Out := scalarGo s [] [] [] (fun _ => s.trapGroup s.cur cFetch)

/-- A group ends (R27): its registers return to its slot. -/
def Group.ended (x : Group) : Group :=
  { x with residence := .ended, wait := .none, queue := [], m0 := 0#32, sreg := [], vreg := [], verr := [], serr := [] }

/-- `end` (R51): the active lanes retire; waits that lack no lane resolve; the group continues at the lowest eligible
entry, or ends where no entry is left. A deferred tile cause, and uncorrectable data not yet raised, come first (R271,
R395). The group ends once its lane queue is empty. -/
def execEndPath (s : State) : Out :=
  scalarGo s [] [] [] (fun x =>
    let y := ({ x with retired := x.retired ||| x.m0 }).resolveArrived 16
    let last := y.front.all (fun e => e.kind == .free)
    if x.queue ≠ [] then s
    else
      match x.deferredCause (x.tileNo + 1) with
      | some code => s.takeDeferred (x.tileNo + 1) code
      | none =>
        s.leftoverData x (
          if last then s.setGrp s.cur y.ended
          else s.setGrp s.cur y.continueLowest))

end Sys2Proof.Machine
end

