-- ==== Sys2Proof/Machine/ScalarMem.lean ====
section
/-!
DEFINITION. Scalar memory instructions (11 R178, R188, R189), the waits on words (R203, R204), `stkflush` (R205),
`launch` and the launch record (R201, 23 R359), and the steps that complete accesses (05 R98, 13 R246, 24 R382).
-/
namespace Sys2Proof.Machine

/-! ## Loads, stores and atomics -/

/-- The group's vacate check, and the room for the accesses, then the issue (R134, R135, R98): too large a cost traps; a failed
check stalls or traps; a full counter or queue stalls. -/
def State.checkedIssue (s : State) (x : Group) (cs : Costs) (cl : OpClass) (p : Pend) (k : State) : State :=
  match s.issueCheck x.ctx x.strict (s.inWindow x) cs with
  | .tooLarge => s.trapGroup s.cur cVlarge
  | .bound => s.trapGroup s.cur cVbound
  | .stall => s
  | .ok => if s.room s.cur x cl p then k else s

/-- The watch hits of an access in flight (R439). -/
def State.pendHits (s : State) (x : Group) (src pc lpos : Nat) (kind : AccessKind) (ps : List Part) : List Hit :=
  (s.ctx x.ctx).hitsOf kind.watchBit (s.hitBase s.cur x src pc lpos true) (ps.map (fun p => (p.lane, p.va, p.size)))

/-- Uncorrectable data at the place of a load or an atomic, found at issue. -/
def State.placeBad (s : State) (x : Group) (p : Place) (n : Nat) : Bool :=
  match p with
  | .phys pa page _ gen => s.lineBad (homeOf x.ctx page gen pa s.moves)
  | .scratch core off => s.scrBad core off n
  | _ => false

/-- A scalar access (R188): the scalar thread waits until every queued lane instruction that accesses memory has issued, so that
the access takes its place in program order behind them (R85, DEDUCED: log 37); the causes in their order; the check; the
issue. -/
def State.scalarAccess (s : State) (x : Group) (va size : Nat) (w : Want) (acc : Nat) (cl : OpClass) (p : Pend) (px : Nat) (pc_ : Nat) : State :=
  if s.memQueued x then s
  else
    match s.resolve s.cur x true va size w with
    | .cause c => s.trapGroup s.cur c
    | .missing pg => s.pageFaultScalar s.cur pg acc
    | .ok pl =>
      if w ≠ .wr ∧ s.placeBad x pl size = true then s.trapData (s.errAt x.ctx pl)
      else
        let part : Part := { va := va, place := pl, size := size, x := px, c := pc_ }
        let cs := s.accessCosts s.cur x p.kind [part]
        let q := { p with cls := some cl, parts := [part], pc := x.pc.toNat, rgn := x.rgnWord
                          watch := s.pendHits x 0 x.pc.toNat 0xFFFF p.kind [part] }
        s.checkedIssue x cs cl q (
          let s1 := s.issue s.cur q cs
          s1.setGrp s.cur (s1.grp s.cur).adv)

/-- `lds` (R188). -/
def execLds (d a sz sgn ord scope : Nat) (s : State) : Out :=
  scalarGo s [a] [d] [] (fun x =>
    s.scalarAccess x (x.sr a).toNat (2 ^ sz) .rd 0 .l
      { kind := .load, dest := .sreg d (sgn == 1), acq := ord == 1, scope := scope } 0 0)

/-- `sts` (R188). -/
def execSts (d a sz ord scope : Nat) (s : State) : Out :=
  scalarGo s [d, a] [] [] (fun x =>
    s.scalarAccess x (x.sr a).toNat (2 ^ sz) .wr 1 .s
      { kind := .store, rel := ord == 2, scope := scope } ((x.sr d).toNat % 2 ^ (8 * 2 ^ sz)) 0)

/-- The AOP codes of `satom` as those of R251, with the type that orders them (R189). -/
def satomCode (aop w : Nat) : Nat × Ty :=
  let n : Ty := if w = 1 then .n64 else .n32
  let i : Ty := if w = 1 then .i64 else .i32
  match aop with
  | 4 => (4, i) | 5 => (5, i) | 6 => (4, n) | 7 => (5, n) | 8 => (6, n) | 9 => (7, n) | k => (k, n)

/-- `satom` (R189): `cas` compares with s[sd] and stores s[sd+1]. -/
def execSatom (d a aop ord scope w : Nat) (s : State) : Out :=
  scalarGo s (if aop = 9 then [d, d + 1, a] else [d, a]) (if aop = 9 then [d, d + 1] else [d]) [] (fun x =>
    let bitsW := if w = 1 then 64 else 32
    let v := (x.sr d).toNat % 2 ^ bitsW
    let nx := if aop = 9 then (x.sr (d + 1)).toNat % 2 ^ bitsW else v
    s.scalarAccess x (x.sr a).toNat (bitsW / 8) .at_ 2 .l
      { kind := .atomic (satomCode aop w).1 (satomCode aop w).2 0, dest := .sreg d false, acq := ord % 2 == 1, rel := 2 ≤ ord, scope := scope } nx v)

/-- Completes what it may of an access of a group, and, where the group waits for pages, its save. -/
def State.completeAccess (s : State) (g id : Nat) : State :=
  match Map.find s.groups g with
  | some _ => (s.perform g id).trySave g
  | none => s

/-- SCALAR_ACCESS_COMPLETE (R188, R189, R98). -/
def execScalarAccessComplete (g id : Nat) (s : State) : Out := .next (s.completeAccess g id)

/-- LANE_INSTR_COMPLETE (R246, R253, R98). -/
def execLaneInstrComplete (g id : Nat) (s : State) : Out := .next (s.completeAccess g id)

/-- SOURCE_HOME_REQUEST (R382, R383): requests of an access that reached the source home of a page in motion are served,
at the source or forwarded, as the line's bit says. -/
def execSourceHomeRequest (g id : Nat) (s : State) : Out :=
  .next (match (s.grp g).pend.find? (fun p => p.id == id) with
    | some p =>
      if p.parts.any (fun a => match a.place with | .phys _ page _ _ => s.inMotion (s.grp g).ctx page | _ => false) then s.completeAccess g id
      else s
    | none => s)

/-! ## Waits on words -/

/-- What a read of a wait's word gives: the value, with the state in which its cost is charged, or what stops it. The read is
charged, performed and complete in one tick (R178). -/
inductive WordRead where
  | val (v : Nat) (s : State)
  | stop (s : State)
  deriving DecidableEq, Repr

/-- Reads the 8-byte word that `wwait` and `tkt` watch (R203, R204) as a load of the group: after the accesses that a load there
waits for, and no others (R103). -/
def State.readWord (s : State) (x : Group) (va : Nat) (acq : Bool) : WordRead :=
  if s.memQueued x then .stop s
  else
    match s.resolve s.cur x true va 8 .rd with
    | .cause c => .stop (s.trapGroup s.cur c)
    | .missing pg => .stop (s.pageFaultScalar s.cur pg 0)
    | .ok pl =>
      let part : Part := { va := va, place := pl, size := 8 }
      let p : Pend := { id := s.clock + 1, kind := .load, seq := x.seq, acq := acq, scope := 4, parts := [part] }
      if s.placeBad x pl 8 then .stop (s.trapData (s.errAt x.ctx pl))
      else if !(s.open_ x p part) then .stop s
      else
        let cs := s.accessCosts s.cur x .load [part]
        match s.issueCheck x.ctx x.strict (s.inWindow x) cs with
        | .tooLarge => .stop (s.trapGroup s.cur cVlarge)
        | .bound => .stop (s.trapGroup s.cur cVbound)
        | .stall => .stop s
        | .ok =>
          let t := (s.fillTlb (.core x.core) x.ctx [part]).chargeNow x.ctx cs
          .val (s.performIn s.cur x p part).val (if acq then t.l1Acquire x 4 else t)

/-- `wwait sD, sA` (R203). -/
def execWwait (d a : Nat) (s : State) : Out :=
  scalarGo s [d, a] [d] [] (fun x =>
    let va := (x.sr a).toNat
    match s.readWord x va false with
    | .stop t => t
    | .val v t =>
      if v ≠ (x.sr d).toNat ∨ s.cancelled x.launch = true then t.writeS { x with wait := .none } d (BitVec.ofNat 64 v)
      else t.setGrp s.cur { x with wait := .wwait va v })

/-- `tkt sD, sA` (R204): an acquire of system scope of the turn word. -/
def execTkt (d a : Nat) (s : State) : Out :=
  scalarGo s [d, a] [d] [] (fun x =>
    let va := (x.sr a).toNat
    match s.readWord x va true with
    | .stop t => t
    | .val v t =>
      if (x.sr d).toNat ≤ v then t.writeS { x with wait := .none } d (BitVec.ofNat 64 v)
      else t.setGrp s.cur { x with wait := .tkt va })

/-- The registers of the waiting instruction at `pc`. -/
def State.waitRegs (s : State) (x : Group) : Option (Nat × Nat) :=
  match s.fetchScalar x x.pc.toNat with
  | .bytes bs => match decode bs with
    | .ok (.wwait d a, _) => some (d, a)
    | .ok (.tkt d a, _) => some (d, a)
    | _ => none
  | _ => none

/-- A group that sleeps on a word is saved to its locket (R35, R203, R204): it holds no place on its slot while it waits. -/
def State.park (s : State) (g : Nat) : State :=
  match Map.find s.groups g with
  | none => s
  | some x =>
    if x.residence = .resident ∧ (s.ctx x.ctx).st = .running ∧ x.pend = [] ∧ x.queue.length ≤ 8 then
      match x.wait with
      | .wwait _ _ => s.saveGroup g 3
      | .tkt _ => s.saveGroup g 5
      | _ => s
    else s

/-- A group that sleeps on a word reads it again: on its slot, or, where its locket holds it, while its context runs; it is
restored where the word shows that its wait has ended. A group in its context's vacate image reads nothing. -/
def State.rereadWait (s : State) (g : Nat) (acq : Bool) (lapsed : Group → Nat → Nat → Bool) : State :=
  match Map.find s.groups g with
  | none => s
  | some x =>
    let here : Bool := x.residence == .resident && s.issuing x
    let away : Bool := (x.residence == .saved 3 || x.residence == .saved 5) && (s.ctx x.ctx).st == .running && s.fits x
    match s.waitRegs x with
    | none => s
    | some (d, a) =>
      if !(here || away) then s
      else
        match { s with cur := g }.readWord x (x.sr a).toNat acq with
        | .stop t => if here then { t with cur := s.cur } else s
        | .val v t =>
          if lapsed x d v then
            let t1 := if here then t else t.restoreGroup g
            { t1.setGrp g ({ t1.grp g with wait := .none }.setSr d (BitVec.ofNat 64 v)).adv with cur := s.cur }
          else s

/-- WWAIT_WAKE (R203, R35). -/
def execWwaitWake (g : Nat) (s : State) : Out :=
  .next (match (s.grp g).wait with
    | .wwait _ old => s.rereadWait g false (fun x _ v => v != old || s.cancelled x.launch)
    | _ => s)

/-- TKT_REREAD (R204). -/
def execTktReread (g : Nat) (s : State) : Out :=
  .next (match (s.grp g).wait with
    | .tkt _ => s.rereadWait g true (fun x d v => decide ((x.sr d).toNat ≤ v))
    | _ => s)

/-! ## `stkflush` (R77, R205) -/

/-- The lines of a group in the stack cache. -/
def State.stackOfGroup (s : State) (x : Group) (g : Nat) : List StackLine :=
  s.stack.filter (fun n => n.core == x.core && n.ctx == x.ctx && n.group == g)

/-- The dirty lines up to the first whose page stops it, and what stops that one (R77). -/
def State.flushable (s : State) : List StackLine → List StackLine × Option Res
  | [] => ([], none)
  | ln :: t =>
    match s.backOk ln with
    | .ok _ => let r := s.flushable t; (ln :: r.1, r.2)
    | r => ([], some r)

/-- Dirty lines are written back, and are clean. -/
def State.flushLines (s : State) : List StackLine → State
  | [] => s
  | ln :: t =>
    let s1 := (s.writeBack ln).1
    { s1 with stack := s1.stack.map (fun (n : StackLine) => if n.same ln then { n with dirty := 0#32, stuck := false } else n) }.flushLines t

/-- The stores of 128 bytes that the write-back of lines makes. -/
def State.flushItems (s : State) (x : Group) (lines : List StackLine) : List Item :=
  lines.filterMap (fun n => match s.resolveGlobal (.core x.core) x.ctx n.backing .wr with
    | .ok (.phys pa _ typ _) => some (s.physItem x.ctx typ pa n.backing false 128)
    | .ok (.peer fa) => some { s.peerItem x.ctx fa n.backing with bytes := 128 }
    | .missing _ => some (s.physItem x.ctx 3 (2 ^ 45) n.backing false 128)
    | _ => none)

/-- `stkflush`: charged as one store of 128 bytes for each dirty line (R178). A line whose page stops it raises its cause
precisely; the lines before it are written (R77). The check comes after the causes (R177), and is that of the lines that are
written; where it can never pass beside a cause, the cause is raised and none is written. -/
def execStkflush (s : State) : Out :=
  scalarGo s [] [] [] (fun x =>
    if !x.quiet then s
    else
      let dirty := (s.stackOfGroup x s.cur).filter (fun n => n.dirty != 0#32)
      let (lines, stop) := s.flushable dirty
      let cs := costsOf (s.flushItems x lines)
      let go (ls : List StackLine) : State :=
        if ls.any (fun n => !(s.backServed x.ctx n.backing)) then s
        else
          let t := (s.chargeNow x.ctx (if ls = [] then [] else cs)).flushLines ls
          match stop with
          | none =>
            let t1 := { t with stack := t.stack.filter (fun n => !(n.core == x.core && n.ctx == x.ctx && n.group == s.cur)) }
            t1.setGrp s.cur x.adv
          | some (.missing pg) => t.pageFaultScalar s.cur pg 1
          | some (.cause c) => t.trapGroup s.cur c
          | some (.ok _) => t
      match s.issueCheck x.ctx x.strict (s.inWindow x) cs with
      | .tooLarge => if stop.isNone then s.trapGroup s.cur cVlarge else go []
      | .bound => if stop.isNone then s.trapGroup s.cur cVbound else s
      | .stall => s
      | .ok => go lines)

/-! ## Launch records (R359) and `launch` (R201) -/

/-- A launch record read from its 128 bytes; a child's record has a header of 1 (R358, R359). -/
def recordOf (bytes : List Byte) (child : Bool) : LRec :=
  let at_ (o n : Nat) : Nat := leNat ((bytes.drop o).take n)
  let grid := at_ 0x10 8
  { hdr := at_ 0 8, kdesc := at_ 8 8, d0 := bits grid 15 0, d1 := bits grid 31 16, d2 := bits grid 47 32, d3 := bits grid 63 48
    bitmap := at_ 0x18 8, uorder := at_ 0x20 8, seed := at_ 0x28 4, graph := at_ 0x2C 2, dlog := at_ 0x30 8
    dlsz := at_ 0x38 4, status := at_ 0x40 8, sig := at_ 0x48 8, sigv := at_ 0x50 8, privb := at_ 0x58 8, privsz := at_ 0x60 8
    reservedZero := at_ 0x2E 2 == 0 && at_ 0x3C 4 == 0 && at_ 0x68 24 == 0 && (if child then at_ 0 8 == 1 else decide (at_ 0 8 < 512)) }

/-- A kernel descriptor read from a context's memory (R172). -/
def State.readDesc (s : State) (c a : Nat) : KDesc :=
  let rd (o n : Nat) : Nat := s.vRead c (a + o) n
  let h := rd 0 8
  { rgn := bits h 58 54, g := bits h 53 46, spanCode := bits h 45 44, wide := bitOf h 43, res := bitOf h 42, prio := bitOf h 41
    vh := bitOf h 40, iv := bitOf h 39, fmtv := bitOf h 38, scr := bits h 37 28, vmax := bits h 27 22, vmin := bits h 21 16
    smax := bits h 15 11, smin := bits h 10 6, entry := rd 8 4, trapv := rd 0xC 4, vhand := rd 0x10 4, ivent := rd 0x14 4
    fmtw := rd 0x18 4, priv := rd 0x1C 4, pushb := rd 0x20 4, sigs := rd 0x24 4, sbase := rd 0x28 8, lbase := rd 0x30 8
    cbase := rd 0x38 8, ssize := rd 0x40 4, lsize := rd 0x44 4, csize := rd 0x48 4, name := rd 0x4C 4
    reservedZero := bits h 63 59 == 0 && bits h 5 0 == 0 && bits (rd 0x24 4) 31 16 == 0 && rd 0x50 48 == 0 }

/-- A record that is malformed when it is taken (R359). -/
def State.recordBad (s : State) (c : Nat) (r : LRec) : Bool :=
  !r.reservedZero || r.d0 == 0 || r.d1 == 0 || r.d2 == 0 || r.d3 == 0 || decide (2 ^ 32 < r.units) || r.kdesc % 64 != 0 ||
  (r.graph != 0xFFFF && !(match Map.find (s.ctx c).graphs r.graph with | some g => g.open_ | none => false))

/-- Pending children of a context, and of the device (R365). -/
def State.pendingKids (s : State) (c : Option Nat) : Nat :=
  (s.launches.filter (fun kv => kv.2.parent.isSome && kv.2.unplaced && (match c with | some k => kv.2.ctx == k | none => true))).length

/-- The first number from n on that is not in a list, within a number of tries; 0xFFFF is no number (R402). -/
def firstFree (used : List Nat) : Nat → Nat → Nat
  | 0, n => n
  | f + 1, n => if used.contains n then firstFree used f ((n + 1) % 65535) else n

/-- The `%lid` of a new launch: none of the context's live launches has it (R25). -/
def State.newLid (s : State) (c : Nat) : Nat :=
  let used := (s.launches.filter (fun kv => kv.2.ctx == c && kv.2.phase != .finished)).map (fun kv => kv.2.lid)
  firstFree used used.length (s.ctx c).nextLid

/-- A launch enters the machine: its `%lid` is unique among the context's live launches (R25). -/
def State.addLaunch (s : State) (l : Launch) : State × Nat :=
  let k := s.launches.fresh
  let c := s.ctx l.ctx
  let n := s.newLid l.ctx
  let s1 := s.setCtx l.ctx { c with nextLid := (n + 1) % 65535 }
  ({ s1 with launches := s1.launches.put k { l with lid := n, order := s.clock }, clock := s.clock + 1 }, k)

/-- The graph of a malformed or accepted launch counts its naming (R361). -/
def State.nameGraph (s : State) (c g : Nat) : State :=
  match Map.find (s.ctx c).graphs g with
  | some gr => let x := s.ctx c; s.setCtx c { x with graphs := x.graphs.put g { gr with named := gr.named + 1 } }
  | none => s

/-- A record has been taken (R359, R360): a malformed one fails with cause 3; one that names a cancelled graph is discarded
(R33). -/
def State.tookRecord (s : State) (c k : Nat) (r : LRec) (bad : Bool) : State :=
  if bad then s.failLaunch k 3
  else if r.graph = 0xFFFF then s
  else
    let s1 := s.nameGraph c r.graph
    match Map.find (s.ctx c).graphs r.graph with
    | some g => if g.cancelled then s1.discardLaunch k else s1
    | none => s1

/-- The two ends of the 128 bytes of a launch record as a scalar load resolves them, one for each page that they can lie on. -/
def State.recordPages (s : State) (x : Group) (va : Nat) : List Res :=
  [if va % 8 ≠ 0 then Res.cause (if 2 ^ 57 ≤ va then cNoncan else cMisal) else s.resolve s.cur x true va 8 .rd,
   if va % 8 ≠ 0 then Res.cause cMisal else s.resolve s.cur x true (va + 120) 8 .rd]

/-- The words of a launch record. -/
def State.recordParts (s : State) (x : Group) (va : Nat) : List Part :=
  (List.range 16).map (fun i =>
    { va := va + 8 * i, size := 8
      place := match s.resolve s.cur x true (va + 8 * i) 8 .rd with | .ok p => p | _ => .phys 0 0 0 0 })

/-- What the read of a launch record charges: one load of 128 bytes at the tier of the record (R178). -/
def State.recordItems (s : State) (x : Group) (va : Nat) : List Item :=
  match s.resolve s.cur x true va 8 .rd with
  | .ok p => (s.partItems s.cur x false false { va := va, place := p, size := 8 }).map (fun i => { i with bytes := 128 })
  | .missing _ => [s.physItem x.ctx 3 (2 ^ 45) (2 * (va / 32)) false 128]
  | .cause _ => []

/-- The record has been read: it enters the pending pool, or the pool has no room (R201, R365). -/
def State.takeChild (s : State) (x : Group) (d : Nat) (bytes : List Byte) : State :=
  let c := s.ctx x.ctx
  if c.poolmax.toNat ≤ s.pendingKids (some x.ctx) ∨ 1024 ≤ s.pendingKids none then s.writeS x d 0#64
  else
    let r := recordOf bytes true
    let depth := (s.lau x.launch).depth + 1
    let (s1, k) := s.addLaunch { ctx := x.ctx, lr := r, parent := some (s.cur, x.hseq), depth := depth }
    let y := { x with hseq := x.hseq + 1, handles := x.handles.put x.hseq ⟨3, k, 0⟩ }
    let s2 := s1.setGrp s.cur (y.setSr d (handleWord 3 (s.lau x.launch).lid x.gid x.hseq)).adv
    s2.tookRecord x.ctx k r (s2.recordBad x.ctx r || decide (9 ≤ depth))

/-- `launch sD, sA` (R201): a release of device scope, then the read of the record with the causes of a load: a cause of either of
its pages that ranks before page-not-resident is raised first. -/
def execLaunch (d a : Nat) (s : State) : Out :=
  scalarGo s [a] [d] [] (fun x =>
    if !x.quiet then s
    else
      let va := (x.sr a).toNat
      let rs := s.recordPages x va
      let parts := s.recordParts x va
      match rs.filterMap (fun r => match r with | .cause c => some c | _ => none), rs.findSome? (fun r => match r with | .missing pg => some pg | _ => none) with
      | c :: cs, _ => s.trapGroup s.cur (firstCause (c :: cs))
      | [], some pg => s.pageFaultScalar s.cur pg 0
      | [], none =>
        match parts.find? (fun p => s.placeBad x p.place 8) with
        | some p => s.trapData (s.errAt x.ctx p.place)
        | none =>
          if parts.any (fun p => !(s.served x.ctx p)) then s
          else
            let cs := costsOf (s.recordItems x va)
            match s.issueCheck x.ctx x.strict (s.inWindow x) cs with
            | .tooLarge => s.trapGroup s.cur cVlarge
            | .bound => s.trapGroup s.cur cVbound
            | .stall => s
            | .ok =>
              ((s.fillTlb (.core x.core) x.ctx parts).chargeNow x.ctx cs).takeChild x d
                (parts.flatMap (fun p => leBytes 8 (s.performAt s.cur x .load 0#32 p).val)))

end Sys2Proof.Machine
end

