-- ==== Sys2Proof/Machine/LaneMem.lean ====
section
/-!
DEFINITION. Lane memory instructions, atomics and fences: classes 3 and 4 (13 R243 to R261), with their meanings in
interval mode (16 R312).
-/
namespace Sys2Proof.Machine

/-! ## Addresses (R244) -/

/-- The address forms. -/
inductive Form where
  | window
  | pair
  | scratch
  deriving DecidableEq, Repr

/-- The form of an AM code (R153). -/
def formOf (am : Nat) : Form := match am with | 0 => .window | 1 => .pair | _ => .scratch

/-- One lane's access before it issues: where it leads, its virtual address and its size. -/
structure LaneAcc where
  lane : Nat
  res : Res
  va : Nat
  size : Nat
  /-- Its window serves it (R66). -/
  win : Bool := false
  deriving DecidableEq, Repr

/-- The vector registers an address form reads. -/
def formRegs (f : Form) (va : Nat) : List Nat := match f with | .pair => [va, va + 1] | _ => [va]

/-- An access of a lane at an offset from its window's base or the scratch aperture, or at an address (R244). -/
def State.laneAccess (s : State) (x : Group) (f : Form) (win : Nat) (dome : Bool) (w : Want) (lane : Nat) (o : Int) (size : Nat) : LaneAcc :=
  match f with
  | .window => ⟨lane, s.resolveWin s.cur x win o size w dome, wrap 64 (((x.win win).vbase : Int) + o), size, (x.win win).serves o⟩
  | .scratch =>
    ⟨lane, if o % (size : Int) ≠ 0 then .cause cMisal else s.resolveScratch x o, wrap 64 ((0x1FF * 2 ^ 48 : Nat) + o), size, false⟩
  | .pair =>
    let va := wrap 64 o
    let r := s.resolve s.cur x false va size w
    ⟨lane, if dome then (match r with
        | .ok (.phys _ _ 5 _) => r
        | .ok _ => .cause cProt
        | _ => r) else r, va, size, false⟩

/-- The offset or address a lane forms from its register and the immediate. -/
def Group.laneOffset (x : Group) (f : Form) (va im l : Nat) : Int :=
  (match f with
   | .pair => ((x.vr va l).toNat + 2 ^ 32 * (x.vr (va + 1) l).toNat : Nat)
   | _ => ((x.vr va l).toNat : Int)) + sext 16 im

/-! ## Causes (R249) -/

/-- The causes of a list of accesses, other than a missing page. -/
def causesOf (as : List LaneAcc) : List Nat := as.filterMap (fun a => match a.res with | .cause c => some c | _ => none)

/-- The missing pages of a list of accesses, each once, with the access code. -/
def missingOf (acc : Nat) (as : List LaneAcc) : List (Nat × Nat) :=
  as.foldl (fun ps a => match a.res with
    | .missing pg => if ps.contains (pg, acc) then ps else ps ++ [(pg, acc)]
    | _ => ps) []

/-- The lanes of a list of accesses. -/
def lanesMask (as : List LaneAcc) : W32 := maskOf (fun l => as.any (fun a => a.lane == l))

/-! ## Issue -/

/-- The head of the queue will run again for some lanes alone (R60). -/
def Group.redoHead (x : Group) (f : W32) : Group :=
  match x.queue with
  | b :: t => { x with queue := { b with redo := some f } :: t }
  | [] => x

/-- The faults of an instruction whose other lanes have issued (R249): the trap of the cause that ranks first, or the
save of R60. Lanes with uncorrectable sources are among those with a cause. -/
def State.laneFaults (s : State) (acc : Nat) (bad : List LaneAcc) : State :=
  let other := (s.grp s.cur).head.bad
  let f := lanesMask bad ||| other
  match causesOf bad with
  | [] => if other ≠ 0#32 then s.trapLanes s.cur cPage f else
    let x := (s.grp s.cur).redoHead f
    let block := x.queue.head?
    (s.setGrp s.cur x).pageFault s.cur (missingOf acc bad) block (fun t => t.trapLanes t.cur cPage f)
  | cs => s.trapLanes s.cur (firstCause cs) f

/-- The issue of a lane memory instruction: every cause first, then the check, then the completing lanes issue, then the
faults (R249, R134, R135). `parts` gives the accesses of the lanes that complete, `go` issues them. -/
def State.laneIssueMem (s : State) (x : Group) (mk acc : Nat) (cl : OpClass) (kind : AccessKind) (as : List LaneAcc) (e : Bool)
    (mkPart : LaneAcc → Place → Part) (go : State → List Part → Costs → State) : State :=
  let bad := as.filter (fun a => match a.res with | .ok _ => false | _ => true)
  let parts := as.filterMap (fun a => match a.res with | .ok p => some { mkPart a p with win := a.win } | _ => none)
  let cs := s.accessCosts s.cur x kind parts
  let done (t : State) : State :=
    if bad = [] then t.setGrp s.cur ((t.grp s.cur).popLane e) else t.laneFaults acc bad
  if parts = [] then done s
  else
    match s.issueCheck x.ctx x.strict (s.inWindow x) cs with
    | .tooLarge =>
      if bad = [] then s.laneCause x mk (if x.head.bad = 0#32 then cVlarge else cData)
      else match causesOf bad with
        | [] => s.laneCause x mk (if x.head.bad = 0#32 then cVlarge else cPage)
        | fs => s.laneCause x mk (firstCause fs)
    | .bound => if bad = [] ∧ x.head.bad = 0#32 then s.laneCause x mk cVbound else s
    | .stall => s
    | .ok => if s.room s.cur x cl { kind := kind, parts := parts } then done (go s parts cs) else s

/-- What an in-flight access records of its instruction. -/
def Group.pendOf (x : Group) (m : W32) : Pend :=
  { lane := true, lpos := x.head.pos, fmt := x.head.fmt, pc := x.head.vpc, mask := m, rgn := x.rgnWord }

/-- The watch hits of a lane instruction: requests to a dome's BAU are told apart (R433, R438). -/
def State.laneHits (s : State) (x : Group) (k : AccessKind) (ps : List Part) : List Hit :=
  let bau (p : Part) : Bool := k.isAtomic && (match p.place with | .phys _ _ 5 _ => true | _ => false)
  s.pendHits x 1 x.head.vpc x.head.pos k (ps.filter (fun p => !(bau p))) ++
  s.pendHits x 5 x.head.vpc x.head.pos k (ps.filter bau)

/-- Issues the accesses of a lane instruction: those of 16 bytes in two halves (R83). -/
def State.goPend (s : State) (x : Group) (p : Pend) (ps : List Part) (cs : Costs) : State :=
  s.issue s.cur { p with parts := ps.flatMap Part.halves, watch := s.laneHits x p.kind ps } cs

/-! ## Loads and stores -/

/-- Bytes of a size code (R245). -/
def szBytes (sz : Nat) : Nat := match sz with | 0 | 1 => 1 | 2 | 3 => 2 | 4 => 4 | 5 => 8 | _ => 16

/-- Registers of an element of a size code. -/
def szRegs (d sz : Nat) : List Nat := match sz with | 5 => [d, d + 1] | 6 => [d, d + 1, d + 2, d + 3] | _ => [d]

/-- The value a store takes from its registers (R245). -/
def Group.szVal (x : Group) (d sz l : Nat) : Nat :=
  ((szRegs d sz).foldl (fun (p : Nat × Nat) r => (p.1 + p.2 * (x.vr r l).toNat, p.2 * 2 ^ 32)) (0, 1)).1 % 2 ^ (8 * szBytes sz)

/-- The offset and the size of an interval load (R312): a point reads the word or the pair at its offset; anything else
reads the range pair. -/
def Group.ivlOffset (x : Group) (a : MArgs) (l : Nat) : Int × Nat :=
  let o := x.ivl a.va l
  if o.isPoint then ((o.lo : Int) + sext 16 a.im, szBytes a.sz) else (sext 16 a.im - 8, 8)

/-- A class-3 load (R245 to R247, R312). -/
def laneLoad (s : State) (a : MArgs) (f : Form) (dome : Bool) : Out :=
  laneGo s a.msk
    (fun x => !x.interval ||
      ((f == .window || f == .scratch) && !dome && (a.sz == 4 || a.sz == 5) && a.vd % 2 == 0 && a.va % 2 == 0))
    (fun x => if x.interval then [a.va, a.va + 1] else formRegs f a.va)
    (fun x => if x.interval then [a.vd, a.vd + 1] else szRegs a.vd a.sz) []
    (fun x0 =>
      let x := if f = .window then s.refill x0 a.win else x0
      let s0 := s.setGrp s.cur x
      let m := x.active a.msk
      let as := (lanesOf m).map (fun l =>
        let os := if x.interval then x.ivlOffset a l else (x.laneOffset f a.va a.im l, szBytes a.sz)
        s0.laneAccess x f a.win dome .rd l os.1 os.2)
      let p := { x.pendOf m with
        kind := .load, cls := some .l, dest := if x.interval then .vivl a.vd else .vreg a.vd a.sz
        acq := a.ord == 1, scope := a.scope }
      s0.laneIssueMem x a.msk 0 .l .load as a.e
        (fun c pl => { lane := c.lane, va := c.va, place := pl, size := c.size })
        (fun t ps cs => t.goPend x p ps cs))

/-- A class-3 store (R245 to R247); illegal in interval mode (R261). -/
def laneStore (s : State) (a : MArgs) (f : Form) (dome : Bool) : Out :=
  laneGo s a.msk (fun x => !x.interval)
    (fun _ => formRegs f a.va ++ szRegs a.vd a.sz) (fun _ => []) []
    (fun x0 =>
      let x := if f = .window then s.refill x0 a.win else x0
      let s0 := s.setGrp s.cur x
      let m := x.active a.msk
      let as := (lanesOf m).map (fun l => s0.laneAccess x f a.win dome .wr l (x.laneOffset f a.va a.im l) (szBytes a.sz))
      let p := { x.pendOf m with kind := .store, cls := some .s, rel := a.ord == 2, scope := a.scope }
      s0.laneIssueMem x a.msk 1 .s .store as a.e
        (fun c pl => { lane := c.lane, va := c.va, place := pl, size := c.size, x := x.szVal a.vd a.sz c.lane })
        (fun t ps cs => t.goPend x p ps cs))

/-- `vld` (R243). -/
def execVld (a : MArgs) (s : State) : Out := laneLoad s a .window false

/-- `vst` (R243). -/
def execVst (a : MArgs) (s : State) : Out := laneStore s a .window false

/-- `vldg` (R243). -/
def execVldg (a : MArgs) (s : State) : Out := laneLoad s a .pair false

/-- `vstg` (R243). -/
def execVstg (a : MArgs) (s : State) : Out := laneStore s a .pair false

/-- `vlds` (R243). -/
def execVlds (a : MArgs) (s : State) : Out := laneLoad s a .scratch false

/-- `vsts` (R243). -/
def execVsts (a : MArgs) (s : State) : Out := laneStore s a .scratch false

/-- `vldd` (R243). -/
def execVldd (a : MArgs) (s : State) : Out := laneLoad s a .window true

/-- `vstd` (R243). -/
def execVstd (a : MArgs) (s : State) : Out := laneStore s a .window true

/-- A prefetch of the lines of a list of accesses (R248): into the L1 of the core, or the L2 of the line's die. Accesses with a
cause, and those to domes, scratch, private memory, peers and pages in motion, ask for nothing. -/
def State.prefetch (s : State) (x : Group) (l2 : Bool) (as : List LaneAcc) : State :=
  as.foldl (fun t c => match c.res with
    | .ok (.phys pa page typ gen) =>
      if typ = 5 ∨ t.inMotion x.ctx page = true then t else t.cacheFill l2 x.core x.ctx (homeOf x.ctx page gen pa t.moves)
    | _ => t) s

/-- `vprf` (R248): it writes no register, enters no counter and raises nothing. -/
def execVprf (a : MArgs) (s : State) : Out :=
  laneGo s a.msk (fun x => !x.interval || a.va % 2 == 0) (fun x => if x.interval then [a.va, a.va + 1] else [a.va]) (fun _ => []) []
    (fun x0 =>
      let x := s.refill x0 a.win
      let as := (lanesOf (x.active a.msk)).map (fun l =>
        s.laneAccess x .window a.win false .rd l (if x.interval then (x.ivlOffset { a with sz := 4 } l).1 else x.laneOffset .window a.va a.im l) 1)
      ((s.setGrp s.cur x).prefetch x (a.pfl == 1) as).doneLane x a.e)

/-! ## Atomics -/

/-- Does a rounding code resolve to the stochastic mode (R120)? -/
def isStochastic (rm : Nat) (fmt : W32) : Bool := modeOf rm fmt == .rst

/-- The lanes' stochastic states after each has drawn once (R252). -/
def Group.drawLanes (x : Group) (ls : List Nat) : Group := ls.foldl (fun y l => { y with lfsr := y.lfsr.set l (lfsrAdvance (x.seed l)) }) x

/-- Issues atomic requests: a stochastic rounding takes each lane's draw as its request leaves the core (R252). -/
def State.goAtomic (s : State) (x : Group) (p : Pend) (draws : Bool) (ps : List Part) (cs : Costs) : State :=
  let t := s.goPend x p ps cs
  if draws then t.setGrp s.cur ((t.grp s.cur).drawLanes (ps.map (fun q => q.lane))) else t

/-- `vatom` (R250 to R253). -/
def execVatom (a : MArgs) (s : State) : Out :=
  let f := formOf a.am
  let cas : Bool := a.md == 7
  laneGo s a.msk (fun x => !x.interval)
    (fun _ => formRegs f a.va ++ regsOf a.ty a.vb ++ (if cas then regsOf a.ty a.vc else []))
    (fun _ => if a.noret then [] else regsOf a.ty a.vd) []
    (fun x0 =>
      let x := if f = .window then s.refill x0 a.win else x0
      let s0 := s.setGrp s.cur x
      let m := x.active a.msk
      let as := (lanesOf m).map (fun l => s0.laneAccess x f a.win false .at_ l (x.laneOffset f a.va a.im l) (tyWidth a.ty / 8))
      let cl : OpClass := if a.noret then .s else .l
      let kind : AccessKind := .atomic a.md a.ty a.rm
      let p := { x.pendOf m with
        kind := kind, cls := some cl, dest := if a.noret then .none else .vold a.vd (tyIs64 a.ty)
        acq := a.ord % 2 == 1, rel := decide (2 ≤ a.ord), scope := a.scope }
      let draws : Bool := a.md == 0 && tyIsFloat a.ty && isStochastic a.rm x.head.fmt
      s0.laneIssueMem x a.msk 2 cl kind as a.e
        (fun c pl => { lane := c.lane, va := c.va, place := pl, size := c.size, x := x.elem a.ty a.vb c.lane
                       c := if cas then x.elem a.ty a.vc c.lane else 0, draw := x.seed c.lane })
        (fun t ps cs => t.goAtomic x p draws ps cs))

/-- `vbank` (R258). -/
def execVbank (a : MArgs) (s : State) : Out :=
  let f := formOf a.am
  laneGo s a.msk (fun x => !x.interval)
    (fun _ => formRegs f a.va ++ regsOf a.ty a.vb) (fun _ => []) []
    (fun x0 =>
      let x := if f = .window then s.refill x0 a.win else x0
      let s0 := s.setGrp s.cur x
      let m := x.active a.msk
      let as := (lanesOf m).map (fun l => s0.laneAccess x f a.win true .at_ l (x.laneOffset f a.va a.im l) (tyWidth a.ty / 8))
      let kind : AccessKind := .bank a.md a.ty a.rm
      let p := { x.pendOf m with kind := kind, cls := some .s, rel := decide (2 ≤ a.ord), scope := a.scope }
      let draws : Bool := decide (a.md < 3) && tyIsFloat a.ty && isStochastic a.rm x.head.fmt
      s0.laneIssueMem x a.msk 2 .s kind as a.e
        (fun c pl => { lane := c.lane, va := c.va, place := pl, size := c.size, x := x.elem a.ty a.vb c.lane, draw := x.seed c.lane })
        (fun t ps cs => t.goAtomic x p draws ps cs))

/-! ## Deferred ordered atomics (R254 to R256) -/

/-- The key of the entries a group makes: the first path element and the push indices (R255). -/
def State.ordKey (s : State) (x : Group) : Nat × List Nat :=
  match x.unit with
  | some u => let n := Map.get {} (s.lau x.launch).units u.node; (n.root, n.path)
  | none => (2 ^ 32 + (s.blockOf x).bid * (s.kd x).perBlock + x.gid, [])

/-- The bank of a dome address, across the dies (R73). -/
def State.bankOf (s : State) (pa : Nat) : Nat × Nat :=
  match s.region pa with
  | some r => (r.die, (pa - r.base) / 128 % 256)
  | none => (0, pa / 128 % 256)

/-- Entries that a bank holds, across all launches. -/
def State.bankHeld (s : State) (b : Nat × Nat) : Nat :=
  s.launches.foldl (fun n kv => n + (kv.2.ords.filter (fun e => e.logAt.isNone && s.bankOf e.pa == b)).length) 0

/-- The 64 bytes of an entry of the deferred log (R256). -/
def OrdEntry.bytes (e : OrdEntry) : List Byte :=
  leBytes 8 e.va ++ leBytes 8 e.x ++
  leBytes 4 (e.aop + 16 * tyCode e.ty + 256 * e.rm + 65536 * e.path.length + 2 ^ 24 * e.lane) ++
  leBytes 4 e.q ++ leBytes 8 e.root ++ padTo 32 (e.path.flatMap (leBytes 4))

/-- Buffers one entry: at the bank, or in the launch's log. -/
def State.addOrd (s : State) (l : Nat) (e : OrdEntry) : State :=
  let x := s.lau l
  if s.bankHeld (s.bankOf e.pa) < 4096 then s.setLau l { x with ords := x.ords ++ [e] }
  else
    (s.vWriteBytes x.ctx (x.lr.dlog + 64 * x.logUsed) e.bytes).setLau l
      { x with ords := x.ords ++ [{ e with logAt := some x.logUsed }], logUsed := x.logUsed + 1 }

/-- The lanes, ascending, whose entry fits neither its bank nor the log (R256): their accesses become ordered-log-full.
`n` counts the entries of this instruction already placed at each bank, `k` those placed in the log. -/
def State.logFull (s : State) (l : Nat) : List LaneAcc → List (Nat × Nat) → Nat → List LaneAcc
  | [], _, _ => []
  | a :: t, n, k =>
    match a.res with
    | .ok (.phys pa _ _ _) =>
      let b := s.bankOf pa
      if s.bankHeld b + (n.filter (fun c => c == b)).length < 4096 then a :: s.logFull l t (b :: n) k
      else if (s.lau l).logUsed + k < (s.lau l).lr.dlsz then a :: s.logFull l t n (k + 1)
      else { a with res := .cause cLog } :: s.logFull l t n k
    | _ => a :: s.logFull l t n k

/-- The count q of the instruction at the head of the queue, fixed when it first reaches issue (R255). -/
def Group.fixOrd (x : Group) : Group × Nat :=
  match x.queue with
  | b :: t =>
    match b.ordq with
    | some q => (x, q)
    | none => ({ x with queue := { b with ordq := some x.ordq } :: t, ordq := x.ordq + 1 }, x.ordq)
  | [] => ({ x with ordq := x.ordq + 1 }, x.ordq)

/-- `vatom.ord` (R254 to R256): `.rfm` that resolves to the stochastic mode is illegal. -/
def execVatomOrd (a : MArgs) (s : State) : Out :=
  let f := formOf a.am
  laneGo s a.msk (fun x => !x.interval && !(a.rm == 6 && fmtRM x.head.fmt == 5))
    (fun _ => formRegs f a.va ++ regsOf a.ty a.vb) (fun _ => []) []
    (fun x0 =>
      let (x, q) := (if f = .window then s.refill x0 a.win else x0).fixOrd
      let s0 := s.setGrp s.cur x
      let m := x.active a.msk
      let key := s0.ordKey x
      let rm := if a.rm = 6 then fmtRM x.head.fmt else a.rm
      let placed := (lanesOf m).map (fun l =>
        let c := s0.laneAccess x f a.win true .at_ l (x.laneOffset f a.va a.im l) (tyWidth a.ty / 8)
        match c.res with
        | .ok _ => if 8 < key.2.length then { c with res := .cause cMalf } else c
        | _ => c)
      let as := s0.logFull x.launch placed [] 0
      let kind : AccessKind := .ordered a.md a.ty rm q
      let p := { x.pendOf m with kind := kind, cls := some .s, rel := decide (2 ≤ a.ord), scope := a.scope }
      s0.laneIssueMem x a.msk 2 .s kind as a.e
        (fun c pl => { lane := c.lane, va := c.va, place := pl, size := c.size, x := x.elem a.ty a.vb c.lane })
        (fun t ps cs =>
          let t1 := ps.foldl (fun (u : State) (c : Part) =>
            match c.place with
            | .phys pa _ _ _ =>
              u.addOrd x.launch { root := key.1, path := key.2, q := q, lane := c.lane, va := c.va, pa := pa, x := c.x, aop := a.md
                                  ty := a.ty, rm := rm, fmt := x.head.fmt, gid := x.gid, pc := x.head.vpc, lpos := x.head.pos, rgn := x.rgnWord }
            | _ => u) t
          t1.goPend x p ps cs))

/-- `fence` (R260): for the whole group, whatever its mask; it takes its place among the group's accesses. -/
def execFence (a : MArgs) (s : State) : Out :=
  laneGo s 0 (fun _ => true) (fun _ => []) (fun _ => []) []
    (fun x =>
      let p := { x.pendOf x.head.mask with kind := .fence (a.md % 2 == 1), scope := a.scope }
      let t := s.issue s.cur p []
      t.setGrp s.cur ((t.grp s.cur).popLane a.e))

end Sys2Proof.Machine
end

