-- ==== Sys2Proof/Machine/TileFn.lean ====
section
/-!
DEFINITION. The arithmetic of the matrix array (07 R110 to R112, R121, 14 R273 to R277) and of the signature
accumulator (17 R318 to R326), as functions of element bits.
-/
namespace Sys2Proof.Machine

/-! ## Matrix products -/

/-- The elements of one unit of K, by the operand type (R121). -/
def unitSize (t : Ty) : Nat :=
  match t with
  | .f32 => 1
  | .f16 | .bf16 => 8
  | _ => 32

/-- The value of a block scale byte: 2^(scale - 127), or a NaN for 0xFF (R111). -/
def scaleVal (s : Nat) : Val := if s = 255 then .nan false else .fin ⟨false, 1, (s : Int) - 127, false⟩

/-- The exact term of one unit: its products summed, times both block scales (R121, R276). -/
def mmaUnit (a b : Ty) (fz base n : Nat) (getA getB : Nat → Nat) (sA sB : Nat) : Val :=
  let ps := (List.range n).map (fun i => (decodeVal a fz (getA (base + i))).mul (decodeVal b fz (getB (base + i))))
  ((Val.sum .rne ps).mul (scaleVal sA)).mul (scaleVal sB)

/-- An `f32` accumulator with one exact term added, by `racc` (R125). -/
def accAdd (acc : Nat) (t : Val) : Nat := racc (Val.sum .rne [decodeVal .f32 0 acc, t])

/-- One element of `tmma` (R276): units in ascending K. -/
def mmaElem (a b : Ty) (fz k : Nat) (getA getB sA sB : Nat → Nat) (acc0 : Nat) : Nat :=
  let n := unitSize a
  (List.range (k / n)).foldl (fun acc u => accAdd acc (mmaUnit a b fz (u * n) n getA getB (sA u) (sB u))) acc0

/-- A code of `tmmq` as an integer less its zero point: two's complement where the operand is `i8` or `i4`
(R277). -/
def qCode (t : Ty) (signed : Bool) (z c : Nat) : Int :=
  if signed then sext (tyWidth t) c else (c : Int) - (z : Int)

/-- A parameter word is malformed: a reserved field, or a `q4` zero point above 15 (R112). -/
def qWordBad (t : Ty) (w : Nat) : Bool :=
  bits w 31 24 != 0 || (t == .q4 && bits w 23 20 != 0)

/-- The scale of a parameter word; 1 for an operand without parameter words; a NaN for a malformed word, a NaN or
an infinity (R112, R271). -/
def qScale (t : Ty) (signed : Bool) (fz w : Nat) : Val :=
  if signed then .fin ⟨false, 1, 0, false⟩
  else if qWordBad t w then .nan false
  else match decodeVal .f16 fz (bits w 15 0) with
    | .inf _ => .nan false
    | v => v

/-- The exact term of one quantisation group (R121). -/
def qUnit (ta tb : Ty) (sa sb : Bool) (fz base n : Nat) (getA getB : Nat → Nat) (wA wB : Nat) : Val :=
  let za := if sa then 0 else bits wA 23 16
  let zb := if sb then 0 else bits wB 23 16
  let s := (List.range n).foldl (fun acc i =>
    acc + qCode ta sa za (getA (base + i)) * qCode tb sb zb (getB (base + i))) (0 : Int)
  match ((qScale ta sa fz wA).mul (qScale tb sb fz wB)).mul (.fin (Exact.ofInt s)) with
  | .fin x => .fin (if x.isZero then Exact.zero false else x)
  | v => v

/-- One element of `tmmq` with an asymmetric operand: groups in ascending K. -/
def qElem (ta tb : Ty) (sa sb : Bool) (fz g k : Nat) (getA getB wA wB : Nat → Nat) (acc0 : Nat) : Nat :=
  (List.range (k / g)).foldl (fun acc u => accAdd acc (qUnit ta tb sa sb fz (u * g) g getA getB (wA u) (wB u))) acc0

/-- One element of `tmmq` on two symmetric operands: an integer sum modulo 2^32. -/
def iElem (ta tb : Ty) (k : Nat) (getA getB : Nat → Nat) (acc0 : Nat) : Nat :=
  wrap 32 ((List.range k).foldl (fun acc i =>
    acc + qCode ta true 0 (getA i) * qCode tb true 0 (getB i)) (acc0 : Int))

/-- The quantisation group of a format word: 32, 64 or 128 (R119). -/
def qGroup (fmt : W32) : Nat := 32 * 2 ^ fmtSG fmt

/-- The bits of element e of an array packed under R110, read by a function of byte index. -/
def packedElem (w e : Nat) (byte : Nat → Nat) : Nat :=
  let b := e * w / 8
  let n := (e * w % 8 + w + 7) / 8
  let x := (List.range n).foldl (fun acc i => acc + byte (b + i) * 256 ^ i) 0
  x / 2 ^ (e * w % 8) % 2 ^ w

/-! ## Signatures -/

/-- The tiles of level k: ceil(d^k / 4096) (R318). -/
def sigLevelTiles (d k : Nat) : Nat := ceilDiv (d ^ k) 4096

/-- The tiles of levels 1 to m. -/
def sigTiles (d m : Nat) : Nat := (List.range m).foldl (fun s i => s + sigLevelTiles d (i + 1)) 0

/-- The tile, from the base, and the element index of element p of level k (R318). -/
def sigPlace (d k p : Nat) : Nat × Nat := (sigTiles d (k - 1) + p / 4096, p % 4096)

/-- A number's factorial. -/
def fact : Nat → Nat
  | 0 => 1
  | n + 1 => (n + 1) * fact n

/-- The exact quotient of a value by a positive integer, a zero taken as +0 (R322). -/
def Val.lapsed (v : Val) (n : Nat) : Val :=
  match v with
  | .fin x => if x.isZero then .fin (Exact.zero false) else if n = 1 then .fin x else .fin (x.div ⟨false, n, 0, false⟩)
  | _ => v

/-- An integer times a value. -/
def Val.times (n : Int) (v : Val) : Val := (Val.fin (Exact.ofInt n)).mul v

/-- Level i of a signature at the index of the first i of k digits of the flat index p (R318). -/
def sigPre (s : Nat → Nat → Val) (d k i p : Nat) : Val :=
  if i = 0 then .fin ⟨false, 1, 0, false⟩ else s i (p / d ^ (k - i))

/-- Level k - i at the index of the last k - i digits. -/
def sigSuf (s : Nat → Nat → Val) (d k i p : Nat) : Val :=
  if i = k then .fin ⟨false, 1, 0, false⟩ else s (k - i) (p % d ^ (k - i))

/-- The product of the increment's components at the last n digits of an index. -/
def incProd (x : Nat → Val) (d : Nat) : Nat → Nat → Val
  | 0, _ => .fin ⟨false, 1, 0, false⟩
  | n + 1, p => (x (p % d)).mul (incProd x d n (p / d))

/-- The exact element of `sigx` (R324): the terms times k!, then over k!. -/
def sigxElem (s : Nat → Nat → Val) (x : Nat → Val) (d k p : Nat) : Val :=
  (Val.sum .rne ((List.range (k + 1)).map (fun i =>
    Val.times ((fact k / fact (k - i) : Nat) : Int) ((sigPre s d k i p).mul (incProd x d (k - i) p))))).lapsed (fact k)

/-- The exact element of `sigj` (R325). -/
def sigjElem (a b : Nat → Nat → Val) (d k p : Nat) : Val :=
  (Val.sum .rne ((List.range (k + 1)).map (fun i => (sigPre a d k i p).mul (sigSuf b d k i p)))).lapsed 1

/-- The compositions of k into positive parts, with fuel k. -/
def compositions : Nat → Nat → List (List Nat)
  | 0, _ => [[]]
  | _ + 1, 0 => [[]]
  | fuel + 1, k + 1 =>
    (List.range (k + 1)).flatMap (fun j => (compositions fuel (k - j)).map (fun t => (j + 1) :: t))

/-- The product of a signature's levels over the parts of a composition, at the digits of an index of k digits. -/
def compProd (s : Nat → Nat → Val) (d : Nat) : List Nat → Nat → Nat → Val
  | [], _, _ => .fin ⟨false, 1, 0, false⟩
  | j :: t, k, p => (s j (p / d ^ (k - j))).mul (compProd s d t (k - j) (p % d ^ (k - j)))

/-- The exact element of `siglog` (R326): 840 is a common multiple of 1 to 8. -/
def siglogElem (s : Nat → Nat → Val) (d k p : Nat) : Val :=
  (Val.sum .rne ((compositions k k).map (fun c =>
    let n := c.length
    let co : Int := ((840 / n : Nat) : Int)
    Val.times (if n % 2 = 1 then co else -co) (compProd s d c k p)))).lapsed 840

/-- Every element of levels 1 to m as (level, flat index), in ascending level and index (R322). -/
def sigIndices (d m : Nat) : List (Nat × Nat) :=
  (List.range m).flatMap (fun k => (List.range (d ^ (k + 1))).map (fun p => (k + 1, p)))

/-! ## Ticks (R268, R320) -/

/-- The rows of a shape (R267). -/
def shpRows (shp : Nat) : Nat := 32 * 2 ^ shpMCode shp
where
  /-- The M code. -/
  shpMCode (shp : Nat) : Nat := shp / 8

/-- The K of a shape. -/
def shpDepth (shp : Nat) : Nat := 32 * 2 ^ (shp % 8)

/-- K divided by the MAC rate of the wider type (R268). -/
def macTicks (a b : Ty) (k : Nat) : Nat :=
  match max (tyWidth a) (tyWidth b) with
  | 4 => k / 4
  | 6 => k / 2
  | 8 => k / 2
  | 16 => k
  | _ => 4 * k

/-- The ticks of `tmma` and `tmmq` in each half (R268). -/
def matTicks (quant span wide : Bool) (a b : Ty) (rows k : Nat) : Nat :=
  let p := ceilDiv rows (if wide then 128 else 64)
  p * macTicks a b k + (if quant then (if span then 40 else 24) else (if span then 32 else 16))

/-- The ticks of a signature instruction (R320), numbered 0 `sigz` to 3 `siglog`. -/
def sigTicks (k d m : Nat) : Nat :=
  let sumK (f : Nat → Nat) : Nat := (List.range m).foldl (fun s i => s + ceilDiv (f (i + 1) * d ^ (i + 1)) 512) 0
  match k with
  | 0 => 8 * sigTiles d m + 2
  | 1 => 16 + sumK (fun i => i)
  | 2 => 16 + sumK (fun i => i + 1)
  | _ => 16 + sumK (fun i => 2 ^ (i - 1))

/-- The charge of an operation of t ticks on each half (R269): ceil(t * 1000 / 850) + 40. -/
def halfCost (t : Nat) : Nat := ceilDiv (t * 1000) 850 + 40

end Sys2Proof.Machine
end

