-- ==== Sys2Proof/Machine/Tile.lean ====
section
/-!
DEFINITION. Tile operations, class 5 (14 R262 to R283), and the signature accumulator (17 R317 to R327): issue, the
queues of the array halves, execution, parking and spanned instances.
-/
namespace Sys2Proof.Machine

/-! ## Tile storage (R262) -/

/-- The key of element e of a tile register. -/
def tileKey (core slot : Nat) (wide : Bool) (z e : Nat) : Nat :=
  if wide then 65536 * (2 * core + z / 16) + 4096 * (z % 16) + e else 65536 * (2 * core + slot) + 4096 * z + e

/-- An element of a tile that an operation names. -/
def State.tileAt (s : State) (o : TileOp) (z e : Nat) : Nat := (Map.get 0#32 s.tiles (tileKey o.core o.slot o.wide z e)).toNat
/-- The element's error bit. -/
def State.tileBad (s : State) (o : TileOp) (z e : Nat) : Bool := s.tileErr.contains (tileKey o.core o.slot o.wide z e)
/-- One byte of a tile as a packed operand. -/
def State.tileByte (s : State) (o : TileOp) (z n : Nat) : Nat := s.tileAt o z (n / 4) / 256 ^ (n % 4) % 256
/-- Writes an element; a write clears its error bit. -/
def State.setTile (s : State) (o : TileOp) (z e v : Nat) : State :=
  let k := tileKey o.core o.slot o.wide z e
  { s with tiles := Map.set 0#32 s.tiles k (BitVec.ofNat 32 v), tileErr := s.tileErr.filter (fun j => j != k) }
/-- Writes a list of elements (tile, element, value). -/
def State.setTiles (s : State) (o : TileOp) (ws : List (Nat × Nat × Nat)) : State :=
  ws.foldl (fun t w => t.setTile o w.1 w.2.1 w.2.2) s

/-! ## The fields of an operation -/

/-- M. -/
def TileOp.rowsM (o : TileOp) : Nat := shpRows o.args.shp
/-- K. -/
def TileOp.depthK (o : TileOp) : Nat := shpDepth o.args.shp
/-- ACC. -/
def TileOp.accF (o : TileOp) : Bool := bitOf o.args.md 0
/-- SCL of `tmma`, ASG of `tmmq`. -/
def TileOp.f1 (o : TileOp) : Bool := bitOf o.args.md 1
/-- BSG of `tmmq`. -/
def TileOp.f2 (o : TileOp) : Bool := bitOf o.args.md 2
/-- SPAN. -/
def TileOp.spanF (o : TileOp) : Bool := bitOf o.args.md 3
/-- Tiles of the operation's signature (R318). -/
def TileOp.sigT (o : TileOp) : Nat := sigTiles o.sigdim o.sigdepth
/-- A run of tiles from a base. -/
def tileRun (z n : Nat) : List Nat := (List.range n).map (fun i => z + i)

/-- The tiles an operation reads. -/
def TileOp.readsZ (o : TileOp) : List Nat :=
  match o.kind with
  | .tld | .tzero | .sigz => []
  | .tst | .tcvt | .tmerge => [o.args.za]
  | .tadd => [o.args.za, o.args.zb]
  | .tmma | .tmmq => (if o.follower then [] else [o.args.zb]) ++ (if o.accF then [o.args.zd] else [])
  | .sigx => tileRun o.args.zd o.sigT
  | .sigj => tileRun o.args.za o.sigT ++ tileRun o.args.zb o.sigT
  | .siglog => tileRun o.args.za o.sigT

/-- The tiles an operation writes. -/
def TileOp.writesZ (o : TileOp) : List Nat :=
  match o.kind with
  | .tst | .tmerge => []
  | .sigz | .sigx | .sigj | .siglog => tileRun o.args.zd o.sigT
  | _ => [o.args.zd]

/-- The tiles whose numbers the instruction gives (R143, R321). -/
def TileOp.namedZ (o : TileOp) : List Nat :=
  let run (z : Nat) : List Nat := if 16 < o.sigT then [z] else tileRun z o.sigT
  match o.kind with
  | .tst | .tmerge => [o.args.za]
  | .tcvt => [o.args.zd, o.args.za]
  | .tadd => [o.args.zd, o.args.za, o.args.zb]
  | .tmma | .tmmq => if o.follower then [o.args.zd] else [o.args.zd, o.args.zb]
  | .sigz | .sigx => run o.args.zd
  | .sigj => run o.args.zd ++ run o.args.za ++ run o.args.zb
  | .siglog => run o.args.zd ++ run o.args.za
  | _ => [o.args.zd]

/-- The array halves an operation uses (R263, R320). -/
def TileOp.halvesUsed (o : TileOp) : List Nat :=
  if o.wide then
    match o.kind with
    | .tmma | .tmmq => [0, 1]
    | .tst | .tmerge => [o.args.za / 16]
    | .sigz | .sigx | .sigj | .siglog =>
      let zs := o.readsZ ++ o.writesZ
      (if zs.any (fun z => decide (z < 16)) then [0] else []) ++ (if zs.any (fun z => decide (16 ≤ z)) then [1] else [])
    | _ => [o.args.zd / 16]
  else [o.slot]

/-- The ticks of an operation (R268, R320). -/
def TileOp.ticks (o : TileOp) : Nat :=
  match o.kind with
  | .tld | .tst => o.rowsM / 2 + 8
  | .tzero => o.rowsM / 16 + 2
  | .tcvt | .tadd => o.rowsM / 4 + 4
  | .tmerge => o.rowsM / 4 + 8
  | .tmma => matTicks false o.spanF o.wide o.args.ty o.args.bt o.rowsM o.depthK
  | .tmmq => matTicks true o.spanF o.wide o.args.ty o.args.bt o.rowsM o.depthK
  | .sigz => sigTicks 0 o.sigdim o.sigdepth
  | .sigx => sigTicks 1 o.sigdim o.sigdepth
  | .sigj => sigTicks 2 o.sigdim o.sigdepth
  | .siglog => sigTicks 3 o.sigdim o.sigdepth

/-- The charges of an operation (R269): each half, and the tiers of its memory rows, those of ACC alone for `tmerge`. -/
def State.tileCosts (s : State) (o : TileOp) : Costs :=
  let hs : Costs := o.halvesUsed.map (fun h => ⟨.half o.core h, halfCost o.ticks, 0⟩)
  let rows := if o.kind = .tmerge then o.rows.drop 1 else o.rows
  let items := (List.range rows.length).filterMap (fun i =>
    let p := rows.getD i {}
    match p.place with
    | .phys pa _ typ _ => some (s.physItem o.ctx typ pa i false p.size)
    | .peer fa => some { s.peerItem o.ctx fa i with bytes := p.size }
    | _ => none)
  hs ++ costsOf items

/-! ## Memory rows (R272, R278) -/

/-- An address of a tile instruction, through its window (R66, R270): a private window raises protection, and `tmerge`
reaches only dome pages. -/
def State.tileAccess (s : State) (x : Group) (k : Nat) (w : Want) (dome : Bool) (row : Nat) (o : Int) (size : Nat) : LaneAcc :=
  let c := s.laneAccess x .window k dome w row o size
  match c.res with
  | .ok (.stack _) => { c with res := .cause cProt }
  | .missing _ => if (x.win k).typ = 7 then { c with res := .cause cProt } else c
  | .cause e => if (x.win k).typ = 7 ∧ e ≠ cNoncan ∧ e ≠ cUnset ∧ e ≠ cMisal then { c with res := .cause cProt } else c
  | _ => c

/-- The bytes of an element of `tld` and `tst`. -/
def rowElem (t : Ty) : Nat := if t = .n32 then 4 else 2

/-- The accesses of `tld` and `tst`: each row in pieces of 16 bytes, ascending; a piece's `lane` is its row. -/
def State.rowAccesses (s : State) (x : Group) (a : TArgs) (w : Want) : List LaneAcc :=
  let n := 2 * rowElem a.ty
  (List.range (shpRows a.shp)).flatMap (fun (i : Nat) =>
    (List.range n).map (fun (j : Nat) =>
      s.tileAccess x a.win w false i (sext 16 a.im + (i : Int) * sext 64 (x.sr a.ss).toNat + 16 * (j : Int)) 16))

/-- The accesses of `tmerge`: the object's first 128 bytes, then each row of ACC. -/
def State.mergeAccesses (s : State) (x : Group) (a : TArgs) : List LaneAcc :=
  (List.range (shpRows a.shp + 1)).map (fun (i : Nat) =>
    let o := sext 16 a.im + 128 * (i : Int)
    let c := s.tileAccess x a.win .wr true (i - 1) o 128
    match c.res with
    | .ok _ => match (s.tileAccess x a.win .rd true (i - 1) o 128).res with
      | .cause e => { c with res := .cause e }
      | _ => c
    | _ => c)

/-! ## The gathered operand (R275, R277) -/

/-- The element width of the A operand, and the bytes of its row: elements, then scales or parameter words. -/
def TileOp.rowBytesA (o : TileOp) (k : Nat) : Nat :=
  let base := k * tyWidth o.args.ty / 8
  let extra := match o.kind with
    | .tmma => if o.f1 then k / 32 else 0
    | _ => if o.f1 then 0 else 4 * (k / qGroup o.fmt)
  (base + extra + 3) / 4 * 4

/-- The first byte beyond the B scales or parameter words, and the first byte of them, as scratch offsets. -/
def TileOp.scaleRange (o : TileOp) : Option (Int × Int) :=
  let lo := (o.sval.toNat : Int) + sext 16 o.args.im
  match o.kind with
  | .tmma => if o.f1 then some (lo, lo + (o.depthK : Int)) else none
  | _ => if o.f2 then none else some (lo, lo + 128 * ((o.depthK / qGroup o.fmt : Nat) : Int))

/-- The participants of a launch's cluster in a spire (R281): the core slots that it holds, ascending; in wide mode a
core counts once. -/
def State.spanParts (s : State) (l spire : Nat) : List Nat :=
  let ps := s.blocks.flatMap (fun kv =>
    if kv.2.launch = l ∧ spireOf kv.2.core0 = spire then
      (List.range kv.2.span).map (fun i => if kv.2.wide then 2 * (kv.2.core0 + i) else 2 * (kv.2.core0 + i) + kv.2.slot)
    else [])
  (List.range 32).filterMap (fun i => let p := 32 * spire + i; if ps.contains p then some p else none)

/-- The participant an operation issues for: its core's slot, or its core in wide mode (R281). -/
def TileOp.part (o : TileOp) : Nat := if o.wide then 2 * o.core else 2 * o.core + o.slot

/-- The operation is issued by its cluster's leader (R281). -/
def State.leads (s : State) (o : TileOp) : Bool := (s.spanParts o.launch (spireOf o.core)).head? == some o.part

/-- The operation whose fields govern this one (R282): itself, or, for a participant that does not lead, the operation of its
leader in the instance that it joins, where the leader has issued it. -/
def State.rulerOf (s : State) (o : TileOp) : Option TileOp :=
  if o.follower then
    let n := match (s.lau o.launch).spans.find? (fun e => e.1 == o.part) with | some e => e.2 | none => 0
    (s.tileOps.find? (fun kv => kv.2.launch == o.launch && kv.2.span == some n && spireOf kv.2.core == spireOf o.core && s.leads kv.2)).map (fun kv => kv.2)
  else some o

/-- An operation with the fields that a governing one gives it (R282). -/
def TileOp.under (o ld : TileOp) : TileOp := { o with args := { o.args with shp := ld.args.shp, ty := ld.args.ty, bt := ld.args.bt, md := ld.args.md } }

/-- The cause that the gathered operand raises at issue: the base misaligned, or a byte outside the block's scratch. The
B scales of a spanned operation are the leader's alone (R282). Of a participant whose leader has not issued, no field says how
long a row is, and the base alone is checked: DESIGN CHOICE (log 171). -/
def State.gatherCause (s : State) (o : TileOp) : Option Nat :=
  if o.sval.toNat % 4 ≠ 0 then some cMisal
  else match s.rulerOf o with
    | none => none
    | some ld =>
      let p := o.under ld
      let ra := p.rowBytesA p.depthK
      if (p.vec.take p.rowsM).any (fun g => decide (o.scrSize < o.sval.toNat + (g.toNat + 1) * ra)) then some cScr
      else match (if o.follower then none else o.scaleRange) with
        | some (lo, hi) => if lo < 0 ∨ (o.scrSize : Int) < hi then some cScr else none
        | none => none

/-- A K below the quantisation group in a `tmmq` with an asymmetric operand (R270, R277). -/
def State.depthCause (s : State) (o : TileOp) : Option Nat :=
  match s.rulerOf o with
  | some ld => let p := o.under ld; if !(p.f1 && p.f2) && decide (p.depthK < qGroup p.fmt) then some cMalf else none
  | none => none

/-! ## Issue (R263, R270) -/

/-- The operations waiting in a half. -/
def State.halfQueue (s : State) (core h : Nat) : List Nat := Map.get [] s.halves (2 * core + h)

/-- The operation as it is captured at issue. -/
def State.tileOpOf (s : State) (x : Group) (kind : TileKind) (a : TArgs) (vec : List W32) : TileOp :=
  let o : TileOp :=
    { kind := kind, args := a, group := s.cur, launch := x.launch, ctx := x.ctx, opNo := x.tileNo, core := x.core, slot := x.slot
      wide := (s.blockOf x).wide, fmt := x.head.fmt, sval := x.sr a.ss, vec := vec, sigdim := x.head.sigdim
      sigdepth := x.head.sigdepth, scrBase := s.scrOff x 0, scrSize := s.scrSize x, pc := x.head.vpc, lpos := x.head.pos
      rgn := x.rgnWord, seq := x.seq }
  { o with follower := o.spanF && !(s.leads o) }

/-- The n-th spanned operation of its participant joins instance n (R281). -/
def Launch.joinSpan (l : Launch) (p : Nat) : Launch × Nat :=
  match l.spans.find? (fun e => e.1 == p) with
  | some e => ({ l with spans := l.spans.map (fun d => if d.1 = p then (p, d.2 + 1) else d) }, e.2)
  | none => ({ l with spans := (p, 1) :: l.spans }, 0)

/-- The watch hits of the rows of `tld`, `tst` and `tmerge` (R438). -/
def State.tileHits (s : State) (x : Group) (o : TileOp) : List Hit :=
  (s.ctx o.ctx).hitsOf (if o.kind = .tld then 62 else 61) (s.hitBase o.group x 3 o.pc o.lpos false) (o.rows.map (fun p => (p.lane, p.va, p.size)))

/-- A checked operation is charged and enters the T counter and its queues; the lane queue moves on (R263). -/
def State.tileEnter (s : State) (x : Group) (o : TileOp) (cs : Costs) (e : Bool) : State :=
  let k := s.tileOps.fresh
  let id := s.clock + 1
  let (l, sp) := if o.spanF then (let r := (s.lau x.launch).joinSpan o.part; (r.1, some r.2)) else (s.lau x.launch, none)
  let o1 := { o with opId := id, charge := id, span := sp, watch := s.tileHits x o }
  let s1 := (((s.fillTlb (.core x.core) x.ctx o.rows).heat x.ctx false o.rows).addCharges x.ctx id cs).setLau x.launch l
  let hs := o.halvesUsed.foldl (fun m h => m.put (2 * o.core + h) (Map.get [] m (2 * o.core + h) ++ [k])) s1.halves
  let s2 := { s1 with clock := id, tileOps := s1.tileOps.put k o1, halves := hs }
  s2.setGrp s.cur (({ x with tileNo := x.tileNo + 1 }.enter .t id).popLane e)

/-- Uncorrectable data in the registers that a tile instruction reads (R395): entries of vector registers by key, for their lanes,
and scalar registers, for the group. -/
def State.tileData (s : State) (x : Group) (vkeys sregs : List Nat) : Option State :=
  let f := maskOf (fun l => vkeys.any (fun k => k % 32 == l && x.verr.contains k))
  let t := s.postGrp s.cur .fault 4 cData 0 6
  if f ≠ 0#32 then some (t.trapLanes s.cur cData f)
  else if sregs.any (fun r => x.serr.contains r) then some (t.laneCause x 0 cData)
  else none

/-- A tile instruction at the head of the lane queue: the causes in the order of R270 and R321, a full queue, then the
check, then its entry. `pre` is a cause ranked after convergence, `addr` one of the addresses; `acc` the access code of a
missing page; `vkeys` and `sregs` what it reads. -/
def State.tileIssue (s : State) (x : Group) (o0 : TileOp) (conv : Bool) (pre addr : Option Nat) (rows : List LaneAcc) (acc : Nat)
    (vkeys sregs : List Nat) : State :=
  let bad := rows.find? (fun c => match c.res with | .ok _ => false | _ => true)
  if o0.namedZ.any (fun z => decide ((if o0.wide then 32 else 16) ≤ z)) then s.laneCause x 0 cRange
  else if conv && x.head.mask != 0xFFFFFFFF#32 then s.laneCause x 0 cConv
  else
    match pre, s.tileData x vkeys sregs, addr with
    | some c, _, _ => s.laneCause x 0 c
    | none, some t, _ => t
    | none, none, some c => s.laneCause x 0 c
    | none, none, none =>
      match bad with
      | some c =>
        (match c.res with
         | .cause e => s.laneCause x 0 e
         | _ => s.pageFault s.cur (missingOf acc rows) x.queue.head? (fun t => t.laneCause (t.grp t.cur) 0 cPage))
      | none =>
        let ps : List Part := rows.filterMap (fun c => match c.res with
          | .ok p => some { lane := c.lane, va := c.va, place := p, size := c.size }
          | _ => none)
        let o := { o0 with rows := ps }
        if o.halvesUsed.any (fun h => decide (16 ≤ (s.halfQueue o.core h).length)) then s
        else
          let cs := s.tileCosts o
          match s.issueCheck x.ctx x.strict (s.inWindow x) cs with
          | .tooLarge => s.laneCause x 0 cVlarge
          | .bound => s.laneCause x 0 cVbound
          | .stall => s
          | .ok => if 31 ≤ x.count .t then s else s.tileEnter x o cs o.args.e

/-- A tile instruction with its group checks (R265, R270). Uncorrectable sources are raised after the causes that rank before
them, by `tileIssue` (R159). -/
def tileGo (s : State) (vregs sregs : List Nat) (k : Group → State) : Out :=
  laneGo s 0 (fun x => !x.interval) (fun _ => []) (fun _ => vregs) [] k sregs

/-- Every lane of a list of vector registers, as keys. -/
def allKeys (rs : List Nat) : List Nat := rs.flatMap (fun r => (List.range 32).map (fun l => 32 * r + l))

/-- `tld` (R272). -/
def execTld (a : TArgs) (s : State) : Out :=
  tileGo s [] [a.ss] (fun x0 =>
    let x := s.refill x0 a.win
    let s0 := s.setGrp s.cur x
    s0.tileIssue x (s0.tileOpOf x .tld a []) false none none (s0.rowAccesses x a .rd) 0 [] [a.ss])

/-- `tst` (R272). -/
def execTst (a : TArgs) (s : State) : Out :=
  tileGo s [] [a.ss] (fun x0 =>
    let x := s.refill x0 a.win
    let s0 := s.setGrp s.cur x
    s0.tileIssue x (s0.tileOpOf x .tst a []) false none none (s0.rowAccesses x a .wr) 1 [] [a.ss])

/-- `tzero` (R273). -/
def execTzero (a : TArgs) (s : State) : Out :=
  tileGo s [] [] (fun x => s.tileIssue x (s.tileOpOf x .tzero a []) false none none [] 0 [] [])

/-- `tcvt` (R273). -/
def execTcvt (a : TArgs) (s : State) : Out :=
  tileGo s [] [] (fun x => s.tileIssue x (s.tileOpOf x .tcvt a []) false none none [] 0 [] [])

/-- `tadd` (R273). -/
def execTadd (a : TArgs) (s : State) : Out :=
  tileGo s [] [] (fun x => s.tileIssue x (s.tileOpOf x .tadd a []) false none none [] 0 [] [])

/-- The registers of an index vector (R275). -/
def idxRegs (a : TArgs) : List Nat := (List.range (shpRows a.shp / 32)).map (fun i => a.vx + i)

/-- The index vector as captured. That of a spanned operation holds 128 rows, since the leader says how many there are (R282). -/
def Group.idxVec (x : Group) (a : TArgs) : List W32 :=
  (List.range (if bitOf a.md 3 then 128 else shpRows a.shp)).map (fun i => x.vr (a.vx + i / 32) (i % 32))

/-- `tmma` (R274 to R276). -/
def execTmma (a : TArgs) (s : State) : Out :=
  tileGo s (idxRegs a) [a.ss] (fun x =>
    let o := s.tileOpOf x .tmma a (x.idxVec a)
    s.tileIssue x o true none (s.gatherCause o) [] 0 (allKeys (idxRegs a)) [a.ss])

/-- `tmmq` (R277). -/
def execTmmq (a : TArgs) (s : State) : Out :=
  tileGo s (idxRegs a) [a.ss] (fun x =>
    let o := s.tileOpOf x .tmmq a (x.idxVec a)
    s.tileIssue x o true (s.depthCause o) (s.gatherCause o) [] 0 (allKeys (idxRegs a)) [a.ss])

/-- `tmerge` (R278, R279). -/
def execTmerge (a : TArgs) (s : State) : Out :=
  tileGo s [] [a.ss] (fun x0 =>
    let x := s.refill x0 a.win
    let s0 := s.setGrp s.cur x
    s0.tileIssue x (s0.tileOpOf x .tmerge a []) false none none (s0.mergeAccesses x a) 1 [] [a.ss])

/-- A signature beyond 16 tiles is malformed (R321). -/
def TileOp.sigCause (o : TileOp) : Option Nat := if 16 < o.sigT then some cMalf else none

/-- `sigz` (R323). -/
def execSigz (a : TArgs) (s : State) : Out :=
  tileGo s [] [] (fun x => let o := s.tileOpOf x .sigz a []; s.tileIssue x o false o.sigCause none [] 0 [] [])

/-- `sigx` (R324): the increment is lanes 0 to d - 1 of `v[VX]`, whatever the mask holds. -/
def execSigx (a : TArgs) (s : State) : Out :=
  tileGo s [a.vx] [] (fun x =>
    let o := s.tileOpOf x .sigx a ((List.range x.head.sigdim).map (fun l => x.vr a.vx l))
    s.tileIssue x o false o.sigCause none [] 0 ((List.range x.head.sigdim).map (fun l => 32 * a.vx + l)) [])

/-- `sigj` (R325). -/
def execSigj (a : TArgs) (s : State) : Out :=
  tileGo s [] [] (fun x => let o := s.tileOpOf x .sigj a []; s.tileIssue x o false o.sigCause none [] 0 [] [])

/-- `siglog` (R326). -/
def execSiglog (a : TArgs) (s : State) : Out :=
  tileGo s [] [] (fun x => let o := s.tileOpOf x .siglog a []; s.tileIssue x o false o.sigCause none [] 0 [] [])

end Sys2Proof.Machine
end

