-- ==== Sys2Proof/Machine/TileRun.lean ====
section
/-!
DEFINITION. The execution of tile operations (14 R264, R269, R271 to R283, 17 R322 to R326): what each reads and writes,
and the steps that start, park, resume and complete them.
-/
namespace Sys2Proof.Machine

/-! ## Rounding in order, with the lanes' generators (R115) -/

/-- Values rounded one after another, each with its lane's stochastic state. -/
def roundSeq : List W32 → List (Nat × (W32 → Rounded)) → List Nat × List W32
  | ls, [] => ([], ls)
  | ls, (lane, f) :: t =>
    let r := f (ls.getD lane 1#32)
    let (vs, out) := roundSeq (if r.lfsr = ls.getD lane 1#32 then ls else ls.set lane r.lfsr) t
    (r.bits :: vs, out)

/-- A value that is not rounded. -/
def fixedVal (v : Nat) (l : W32) : Rounded := ⟨v, 0#32, l⟩

/-- What an operation leaves: the state, the causes found while it ran (R271), the group's generators. -/
structure TileDone where
  st : State
  causes : List Nat := []
  lfsr : List W32 := []
  /-- The places of the uncorrectable data that it read: address and location code (R402, R406). -/
  recs : List (Nat × Nat) := []
  deriving DecidableEq, Repr

/-- The group of an operation. -/
def State.ownerOf (s : State) (o : TileOp) : Group := s.grp o.group

/-- The causes of an operation that met uncorrectable data. -/
def dataCause (bad : Bool) : List Nat := if bad then [cData] else []

/-- A list with each element once. -/
def once (l : List (Nat × Nat)) : List (Nat × Nat) := l.foldl (fun r e => if r.contains e then r else r ++ [e]) []

/-- The record of an uncorrectable tile element, or none. -/
def tileRec (bad : Bool) : List (Nat × Nat) := if bad then [(0, 7)] else []

/-! ## Loads and stores of rows (R272) -/

/-- Reads a piece of memory for an operation. -/
def State.tileRead (s : State) (o : TileOp) (p : Place) (size : Nat) : Done :=
  s.performAt o.group (s.ownerOf o) .load 0#32 { place := p, size := size }

/-- Writes a piece of memory for an operation. -/
def State.tileWrite (s : State) (o : TileOp) (p : Place) (size v : Nat) : State :=
  (s.performAt o.group (s.ownerOf o) .store 0#32 { place := p, size := size, x := v }).st

/-- The `f32` word that `tld` makes of an element: the word, or the exact value of a halfword. -/
def loadElem (t : Ty) (v : Nat) : Nat := if t = .n32 then v else (roundVal .f32 .rne 0 0#32 (decodeVal t 0 v)).bits

/-- `tld` (R272): elements that depend on uncorrectable data are written as 0 (R271). -/
def State.tldRun (s : State) (o : TileOp) : TileDone :=
  let eb := rowElem o.args.ty
  let per := 16 / eb
  let ws := (o.rows.zipIdx).flatMap (fun pi =>
    let r := s.tileRead o pi.1.place 16
    (List.range per).map (fun j =>
      let v := r.val / 2 ^ (8 * eb * j) % 2 ^ (8 * eb)
      (o.args.zd, pi.2 * per + j, if r.bad then 0 else loadElem o.args.ty v)))
  { st := s.setTiles o ws, causes := dataCause (o.rows.any (fun p => (s.tileRead o p.place 16).bad)), lfsr := (s.ownerOf o).lfsr
    recs := once ((o.rows.filter (fun p => (s.tileRead o p.place 16).bad)).map (fun p => s.errAt o.ctx p.place)) }

/-- The number that a list of elements of n bytes makes, lowest first. -/
def packLE (n : Nat) : List Nat → Nat
  | [] => 0
  | v :: t => v % 2 ^ (8 * n) + 2 ^ (8 * n) * packLE n t

/-- `tst` (R272): draws ascend by row, then column; a row that depends on uncorrectable data is not written (R271). -/
def State.tstRun (s : State) (o : TileOp) : TileDone :=
  let t := o.args.ty
  let eb := rowElem t
  let per := 16 / eb
  let marked (i : Nat) : Bool := (List.range 32).any (fun j => s.tileBad o o.args.za (32 * i + j))
  let badRow (i : Nat) : Bool := marked i || (List.range 32).any (fun j => o.mism.contains (32 * i + j))
  let rows := (List.range o.rowsM).filter (fun i => !(badRow i))
  let fs := rows.flatMap (fun i => (List.range 32).map (fun j =>
    let v := s.tileAt o o.args.za (32 * i + j)
    (j, fun l => if t = .n32 then fixedVal v l
      else roundVal t (modeOf o.args.rm o.fmt) (fmtFZ o.fmt) l (decodeVal .f32 (fmtFZ o.fmt) v))))
  let (vs, ls) := roundSeq (s.ownerOf o).lfsr fs
  let st := rows.zipIdx.foldl (fun (u : State) ri =>
    ((o.rows.filter (fun p => p.lane == ri.1)).zipIdx).foldl (fun w pj =>
      w.tileWrite o pj.1.place 16 (packLE eb ((vs.drop (32 * ri.2 + per * pj.2)).take per))) u) s
  { st := st.clearParts o.ctx (o.rows.filter (fun p => rows.contains p.lane)), causes := dataCause ((List.range o.rowsM).any badRow)
    lfsr := ls, recs := tileRec ((List.range o.rowsM).any marked) }

/-! ## Clearing, converting, adding (R273) -/

/-- `tzero`. -/
def State.tzeroRun (s : State) (o : TileOp) : TileDone :=
  { st := s.setTiles o ((List.range (32 * o.rowsM)).map (fun e => (o.args.zd, e, 0))), lfsr := (s.ownerOf o).lfsr }

/-- 16 elements of w bits at a time as 32-bit words (R110). -/
def packTile (w : Nat) : Nat → List Nat → List Nat
  | 0, _ => []
  | n + 1, vs =>
    let x := ((vs.take 16).zipIdx).foldl (fun a vi => a + vi.1 % 2 ^ w * 2 ^ (w * vi.2)) 0
    (List.range (w / 2)).map (fun i => x / 2 ^ (32 * i) % 2 ^ 32) ++ packTile w n (vs.drop 16)

/-- One conversion of `tcvt`: the flags are discarded. -/
def tcvtElem (o : TileOp) (v : Nat) (l : W32) : Rounded :=
  let rm := modeOf o.args.rm o.fmt
  let fz := fmtFZ o.fmt
  if o.args.ty = .i32 ∧ o.args.bt = .i32 then fixedVal v l
  else
    let x : Val := if o.args.ty = .i32 then .fin (Exact.ofInt (sext 32 v)) else decodeVal .f32 fz v
    if o.args.bt = .i32 then
      let r := toInt .i32 rm l x
      ⟨wrap 32 r.val, 0#32, r.lfsr⟩
    else roundVal o.args.bt rm fz l x

/-- `tcvt`: every source element is read before any is written. -/
def State.tcvtRun (s : State) (o : TileOp) : TileDone :=
  let es := List.range (32 * o.rowsM)
  let (vs, ls) := roundSeq (s.ownerOf o).lfsr (es.map (fun e =>
    (e % 32, if s.tileBad o o.args.za e then fixedVal 0 else tcvtElem o (s.tileAt o o.args.za e))))
  let words := packTile (tyWidth o.args.bt) (2 * o.rowsM) vs
  { st := s.setTiles o (words.zipIdx.map (fun wi => (o.args.zd, wi.2, wi.1)))
    causes := dataCause (es.any (fun e => s.tileBad o o.args.za e)), lfsr := ls
    recs := tileRec (es.any (fun e => s.tileBad o o.args.za e)) }

/-- `tadd`. -/
def State.taddRun (s : State) (o : TileOp) : TileDone :=
  let es := List.range (32 * o.rowsM)
  let bad (e : Nat) : Bool := s.tileBad o o.args.za e || s.tileBad o o.args.zb e
  let (vs, ls) := roundSeq (s.ownerOf o).lfsr (es.map (fun e =>
    (e % 32,
      if bad e then fixedVal 0
      else
        let a := s.tileAt o o.args.za e
        let b := s.tileAt o o.args.zb e
        if o.args.ty = .i32 then fixedVal ((a + b) % 2 ^ 32)
        else fun l => fAdd ⟨.f32, modeOf o.args.rm o.fmt, fmtFZ o.fmt, l⟩ a b)))
  { st := s.setTiles o (vs.zipIdx.map (fun vi => (o.args.zd, vi.2, vi.1))), causes := dataCause (es.any bad), lfsr := ls, recs := tileRec (es.any bad) }

/-! ## Matrix products (R276, R277, R282) -/

/-- A byte of the block's scratch of an operation. -/
def State.gatherByte (s : State) (o : TileOp) (n : Nat) : Nat := if n < o.scrSize then s.scrRead o.core (o.scrBase + n) 1 else 0

/-- The uncorrectable bytes of a range of the block's scratch. -/
def State.gatherBad (s : State) (o : TileOp) (n k : Nat) : Bool := s.scrBad o.core (o.scrBase + n) k

/-- An element of B: row k, column j of the packed operand in the leader's ZB. -/
def State.bElem (s : State) (ld : TileOp) (k j : Nat) : Nat := packedElem (tyWidth ld.args.bt) (32 * k + j) (s.tileByte ld ld.args.zb)

/-- Column j of B has an element with its error bit set. -/
def State.bBad (s : State) (ld : TileOp) (j : Nat) : Bool :=
  let w := tyWidth ld.args.bt
  (List.range ld.depthK).any (fun k =>
    let e := (32 * k + j) * w
    s.tileBad ld ld.args.zb (e / 32) || s.tileBad ld ld.args.zb ((e + w - 1) / 32))

/-- The scratch offset of scale or parameter number u of column j of B. -/
def TileOp.bScaleAt (ld : TileOp) (size u j : Nat) : Nat :=
  ((ld.sval.toNat : Int) + sext 16 ld.args.im + ((size * (32 * u + j) : Nat) : Int)).toNat

/-- A scale or parameter word of column j of B stands in scratch with uncorrectable data. -/
def State.scaleBad (s : State) (o ld : TileOp) (j : Nat) : Bool :=
  match o.kind with
  | .tmma => ld.f1 && (List.range (ld.depthK / 32)).any (fun u => s.gatherBad ld (ld.bScaleAt 1 u j) 1)
  | _ => !ld.f2 && (List.range (ld.depthK / qGroup o.fmt)).any (fun u => s.gatherBad ld (ld.bScaleAt 4 u j) 4)

/-- A little-endian word of the block's scratch. -/
def State.gatherWord (s : State) (o : TileOp) (n : Nat) : Nat :=
  (List.range 4).foldl (fun a i => a + s.gatherByte o (n + i) * 256 ^ i) 0

/-- One element of `tmma` (R276). -/
def State.mmaAt (s : State) (o ld : TileOp) (row acc j : Nat) : Nat :=
  let a := ld.args.ty
  let w := tyWidth a
  let k := ld.depthK
  let scl := ld.f1
  mmaElem a ld.args.bt (fmtFZ o.fmt) k
    (fun i => packedElem w i (fun n => s.gatherByte o (row + n)))
    (fun i => s.bElem ld i j)
    (fun u => if scl then s.gatherByte o (row + k * w / 8 + u) else 127)
    (fun u => if scl then s.gatherByte ld (ld.bScaleAt 1 u j) else 127) acc

/-- The parameter word of group u of an A row, and of column j of B (R277). -/
def State.paramA (s : State) (o ld : TileOp) (row u : Nat) : Nat := s.gatherWord o (row + ld.depthK * tyWidth ld.args.ty / 8 + 4 * u)
/-- The parameter word of B. -/
def State.paramB (s : State) (ld : TileOp) (u j : Nat) : Nat := s.gatherWord ld (ld.bScaleAt 4 u j)

/-- One element of `tmmq` (R277). -/
def State.mmqAt (s : State) (o ld : TileOp) (row acc j : Nat) : Nat :=
  let a := ld.args.ty
  let w := tyWidth a
  let getA (i : Nat) : Nat := packedElem w i (fun n => s.gatherByte o (row + n))
  let getB (i : Nat) : Nat := s.bElem ld i j
  if ld.f1 && ld.f2 then iElem a ld.args.bt ld.depthK getA getB acc
  else
    qElem a ld.args.bt ld.f1 ld.f2 (fmtFZ o.fmt) (qGroup o.fmt) ld.depthK getA getB
      (fun u => if ld.f1 then 0 else s.paramA o ld row u) (fun u => if ld.f2 then 0 else s.paramB ld u j) acc

/-- The elements that a matrix operation writes, B and its scales from the leader's issue (R282); and whether it met
uncorrectable data. -/
def State.matWrites (s : State) (o ld : TileOp) : List (Nat × Nat × Nat) × Bool :=
  let ra := (o.under ld).rowBytesA ld.depthK
  let cols := List.range 32
  let badB := cols.map (fun j => s.bBad ld j || s.scaleBad o ld j)
  let rows := (List.range ld.rowsM).map (fun i =>
    let row := o.sval.toNat + (o.vec.getD i 0#32).toNat * ra
    (i, row, s.gatherBad o row ra))
  let badAt (i : Nat) (ba : Bool) (j : Nat) : Bool := ba || badB.getD j false || (ld.accF && s.tileBad o o.args.zd (32 * i + j))
  (rows.flatMap (fun r => cols.map (fun j =>
    let e := 32 * r.1 + j
    let acc := if ld.accF then s.tileAt o o.args.zd e else 0
    (o.args.zd, e, if badAt r.1 r.2.2 j then 0 else if o.kind = .tmma then s.mmaAt o ld r.2.1 acc j else s.mmqAt o ld r.2.1 acc j))),
   rows.any (fun r => cols.any (badAt r.1 r.2.2)))

/-- A parameter word that a `tmmq` used is malformed (R271, R112). -/
def State.paramBad (s : State) (o ld : TileOp) : Bool :=
  if o.kind = .tmmq ∧ !(ld.f1 && ld.f2) then
    let ra := (o.under ld).rowBytesA ld.depthK
    let us := List.range (ld.depthK / qGroup o.fmt)
    (!ld.f1 && (List.range ld.rowsM).any (fun i => us.any (fun u =>
      qWordBad ld.args.ty (s.paramA o ld (o.sval.toNat + (o.vec.getD i 0#32).toNat * ra) u)))) ||
    (!ld.f2 && us.any (fun u => (List.range 32).any (fun j => qWordBad ld.args.bt (s.paramB ld u j))))
  else false

/-- The causes of a matrix operation. -/
def State.matCauses (s : State) (o ld : TileOp) : List Nat :=
  dataCause (s.matWrites o ld).2 ++ (if s.paramBad o ld then [cMalf] else [])

/-- The records of the uncorrectable data that a matrix operation reads: in tiles, in scratch. -/
def State.matRecs (s : State) (o ld : TileOp) : List (Nat × Nat) :=
  if (s.matWrites o ld).2 then
    let cols := List.range 32
    let ra := (o.under ld).rowBytesA ld.depthK
    tileRec (cols.any (s.bBad ld) || (ld.accF && (List.range (32 * ld.rowsM)).any (s.tileBad o o.args.zd))) ++
    (if cols.any (s.scaleBad o ld) || (List.range ld.rowsM).any (fun i => s.gatherBad o (o.sval.toNat + (o.vec.getD i 0#32).toNat * ra) ra)
      then [(0, 5)] else [])
  else []

/-- `tmma`, `tmmq`. -/
def State.matRun (s : State) (o : TileOp) : TileDone :=
  { st := s.setTiles o (s.matWrites o o).1, causes := s.matCauses o o, lfsr := (s.ownerOf o).lfsr
    recs := s.matRecs o o }

/-! ## Ticketed merges (R278, R279) -/

/-- The place of a merge object. -/
def TileOp.object (o : TileOp) : Place := match o.rows with | p :: _ => p.place | [] => .phys 0 0 5 0

/-- TURN of the object (R279). -/
def State.turnOf (s : State) (o : TileOp) : Nat := (s.tileRead o o.object 8).val

/-- One element merged. -/
def mergeElem (t : Ty) (first : Bool) (acc z : Nat) : Nat :=
  if first then z
  else if t = .f32 then accAdd acc (decodeVal .f32 0 z)
  else (acc + z) % 2 ^ 32

/-- The line of the object cannot be read: TURN and STATUS are uncorrectable (R271). -/
def State.objectBad (s : State) (o : TileOp) : Bool := (s.tileRead o o.object 8).bad

/-- `tmerge` whose turn has come, or was past when it read TURN. With ticket 0 it reads no row of ACC. An object that cannot be
read is not written. -/
def State.tmergeRun (s : State) (o : TileOp) : TileDone :=
  let n := o.sval.toNat
  let ls := (s.ownerOf o).lfsr
  if s.objectBad o then { st := s, causes := [cData], lfsr := ls, recs := [s.errAt o.ctx o.object] }
  else if o.stale then
    let v := (s.tileRead o (o.object.plus 8) 8).val
    { st := s.tileWrite o (o.object.plus 8) 8 (if v % 2 = 0 then v + 1 else v), lfsr := ls }
  else
    let old (ip : Part × Nat) : Bool := n != 0 && (s.tileRead o ip.1.place 128).bad
    let marked (ip : Part × Nat) : Bool := (List.range 32).any (fun j => s.tileBad o o.args.za (32 * ip.2 + j))
    let bad (ip : Part × Nat) : Bool := old ip || marked ip || (List.range 32).any (fun j => o.mism.contains (32 * ip.2 + j))
    let rows := (o.rows.drop 1).zipIdx
    let st := rows.foldl (fun (u : State) ip =>
      if bad ip then u
      else
        let old := (u.tileRead o ip.1.place 128).val
        u.tileWrite o ip.1.place 128 (packLE 4 ((List.range 32).map (fun j =>
          mergeElem o.args.ty (n == 0) (old / 2 ^ (32 * j) % 2 ^ 32) (s.tileAt o o.args.za (32 * ip.2 + j)))))) s
    { st := st.tileWrite o o.object 8 ((n + 1) % 2 ^ 64), causes := dataCause (rows.any bad), lfsr := ls
      recs := once ((rows.filter old).map (fun ip => s.errAt o.ctx ip.1.place)) ++ tileRec (rows.any marked) }

/-! ## Signatures (R322 to R326) -/

/-- An element of level k of the signature at a base tile, as a value. -/
def State.sigVal (s : State) (o : TileOp) (z k p : Nat) : Val :=
  let at_ := sigPlace o.sigdim k p
  decodeVal .f32 (fmtFZ o.fmt) (s.tileAt o (z + at_.1) at_.2)

/-- Every element of the destination computed and rounded once, in ascending level and index (R322). -/
def State.sigRun (s : State) (o : TileOp) (f : Nat → Nat → Val) : TileDone :=
  let d := o.sigdim
  let ks := sigIndices d o.sigdepth
  let (vs, ls) := roundSeq (s.ownerOf o).lfsr (ks.map (fun kp =>
    (kp.2 % 32, fun l => roundVal .f32 (modeOf o.args.rm o.fmt) (fmtFZ o.fmt) l (f kp.1 kp.2))))
  { st := s.setTiles o ((ks.zip vs).map (fun kv =>
      let at_ := sigPlace d kv.1.1 kv.1.2
      (o.args.zd + at_.1, at_.2, kv.2))), lfsr := ls }

/-- What a tile operation does. -/
def State.tileRun (s : State) (o : TileOp) : TileDone :=
  match o.kind with
  | .tld => s.tldRun o
  | .tst => s.tstRun o
  | .tzero => s.tzeroRun o
  | .tcvt => s.tcvtRun o
  | .tadd => s.taddRun o
  | .tmma | .tmmq => s.matRun o
  | .tmerge => s.tmergeRun o
  | .sigz =>
    { st := s.setTiles o ((sigIndices o.sigdim o.sigdepth).map (fun kp =>
        let at_ := sigPlace o.sigdim kp.1 kp.2
        (o.args.zd + at_.1, at_.2, 0))), lfsr := (s.ownerOf o).lfsr }
  | .sigx => s.sigRun o (sigxElem (s.sigVal o o.args.zd) (fun i => decodeVal .f32 (fmtFZ o.fmt) (o.vec.getD i 0#32).toNat) o.sigdim)
  | .sigj => s.sigRun o (sigjElem (s.sigVal o o.args.za) (s.sigVal o o.args.zb) o.sigdim)
  | .siglog => s.sigRun o (siglogElem (s.sigVal o o.args.za) o.sigdim)

/-! ## The steps of the array's queues -/

/-- A context's engines run: it is RUNNING, or VACATING before its halt. -/
def State.ctxRuns (s : State) (c : Nat) : Bool := (s.ctx c).st == .running || (s.ctx c).st == .vacating

/-- An operation leaves the queues of its halves. -/
def State.leaveHalves (s : State) (k : Nat) (o : TileOp) : State :=
  { s with halves := o.halvesUsed.foldl (fun m h => Map.set [] m (2 * o.core + h) ((Map.get [] m (2 * o.core + h)).filter (fun j => j != k))) s.halves }

/-- An operation takes the front of its halves. -/
def State.frontHalves (s : State) (k : Nat) (o : TileOp) : State :=
  { s with halves := o.halvesUsed.foldl (fun m h => m.put (2 * o.core + h) (k :: Map.get [] m (2 * o.core + h))) s.halves }

/-- Puts an operation. -/
def State.setTileOp (s : State) (k : Nat) (o : TileOp) : State := { s with tileOps := s.tileOps.put k o }

/-- A half performs nothing now. -/
def State.halvesIdle (s : State) (o : TileOp) : Bool :=
  o.halvesUsed.all (fun h => match s.halfQueue o.core h with
    | j :: _ => (match Map.find s.tileOps j with | some p => p.phase != .running | none => true)
    | [] => true)

/-- Two lists of tiles meet. -/
def anyIn (a b : List Nat) : Bool := a.any (fun z => b.contains z)

/-- An operation shares a tile register with an earlier one that reads or writes it, and one of the two writes it. -/
def TileOp.follows (o p : TileOp) : Bool := anyIn o.writesZ p.readsZ || anyIn (o.readsZ ++ o.writesZ) p.writesZ

/-- The operation waits behind a parked one that shares its tiles (R269); one whose context is off the machine is withdrawn. -/
def State.behindParked (s : State) (k : Nat) (o : TileOp) : Bool :=
  s.tileOps.any (fun kv => decide (kv.1 < k) && (kv.2.phase == .parked || kv.2.phase == .waiting) && s.ctxRuns kv.2.ctx &&
    kv.2.core == o.core && (o.wide || kv.2.slot == o.slot) && o.follows kv.2)

/-- An earlier operation of the group that is still queued or runs, in the other half of a wide core, shares its tiles: the group's
later operation sees its writes (R264). -/
def State.behindOwn (s : State) (o : TileOp) : Bool :=
  o.wide && s.tileOps.any (fun kv => kv.2.group == o.group && decide (kv.2.opNo < o.opNo) && (kv.2.phase == .queued || kv.2.phase == .running) &&
    o.follows kv.2)

/-- The gather unit's requests to scratch are served after the older ones of lanes in the same banks (R71). -/
def State.gatherClear (s : State) (o : TileOp) : Bool :=
  (match o.kind with | .tmma | .tmmq => false | _ => true) ||
  !(s.groups.any (fun kv => kv.2.core == o.core && (o.wide || kv.2.slot == o.slot) && kv.2.residence == .resident && kv.2.pend.any (fun q =>
    decide (q.id < o.opId) && q.parts.any (fun b => !b.banks.isEmpty && s.open_ kv.2 q b))))

/-- The operation's sources may be read: every earlier access of its group has been performed (R97), and every line it
touches can be served. -/
def State.tileSources (s : State) (o : TileOp) : Bool :=
  (s.ownerOf o).pend.all (fun p => decide (o.seq ≤ p.seq)) && o.rows.all (s.served o.ctx)

/-- The operation stands at the head of its half or halves and may start. -/
def State.tileReady (s : State) (k : Nat) (o : TileOp) : Bool :=
  o.phase == .queued && o.halvesUsed.all (fun h => (s.halfQueue o.core h).head? == some k) && s.ctxRuns o.ctx &&
  s.tileSources o && !(s.behindParked k o) && !(s.behindOwn o)

/-- An operation parks: it leaves its queues and releases its charges (R269). -/
def State.parkOp (s : State) (k : Nat) (o : TileOp) : State :=
  (((s.leaveHalves k o).release o.ctx o.charge)).setTileOp k { o with phase := .parked }

/-- The operations of a spanned instance. -/
def State.instanceOf (s : State) (o : TileOp) : List (Nat × TileOp) :=
  s.tileOps.filter (fun kv => kv.2.launch == o.launch && kv.2.span == o.span && spireOf kv.2.core == spireOf o.core)

/-- Every participant has issued its operation of the instance (R281). -/
def State.gathered (s : State) (o : TileOp) : Bool :=
  (s.spanParts o.launch (spireOf o.core)).all (fun p => (s.instanceOf o).any (fun kv => kv.2.part == p))

/-- TILE_OP_START (R263): a `tmerge` whose turn has not come, and a spanned operation whose instance lacks a participant,
park (R269). -/
def execTileOpStart (k : Nat) (s : State) : Out :=
  .next (match Map.find s.tileOps k with
    | none => s
    | some o =>
      if !(s.tileReady k o) then s
      else if o.spanF then (if s.gathered o then s else s.parkOp k o)
      else if o.kind = .tmerge ∧ s.objectBad o = false ∧ s.turnOf o < o.sval.toNat then s.parkOp k o
      else s.setTileOp k { o with phase := .running, stale := o.kind == .tmerge && decide (o.sval.toNat < s.turnOf o) })

/-- An operation is complete: it leaves its queues and the T counter, its charge is released, the causes it found wait
for a covering `wcnt` (R263, R271), its watch hits can be posted. -/
def State.finishTile (s : State) (k : Nat) (o : TileOp) (causes : List Nat) (lfsr : List W32) : State :=
  let s1 := (s.leaveHalves k o).release o.ctx o.charge
  let c := s1.ctx o.ctx
  let s2 := s1.setCtx o.ctx { c with hits := c.hits ++ (if o.phase = .running then o.watch else []) }
  let x := s2.grp o.group
  let y := { x.finishOp o.opId with deferred := x.deferred ++ causes.map (fun c => ⟨c, o.opNo⟩), lfsr := lfsr }
  { s2.setGrp o.group y with tileOps := s2.tileOps.del k }

/-- The records of uncorrectable data that an operation read (R406). -/
def State.postData (s : State) (g : Nat) (recs : List (Nat × Nat)) : State := recs.foldl (fun t r => t.postGrp g .fault 4 cData r.1 r.2) s

/-- What an operation does, with the elements of its tile result that mismatched twice written as 0 (R405, R271). Signature
operations meet none of the causes of R271 (R321). -/
def State.tileDone (s : State) (o : TileOp) : TileDone :=
  let r := s.tileRun o
  match o.kind with
  | .tst | .tmerge | .sigz | .sigx | .sigj | .siglog => r
  | _ => if o.mism.isEmpty then r
    else { r with st := r.st.setTiles o (o.mism.map (fun e => (o.args.zd, e, 0))), causes := r.causes ++ dataCause (r.causes.isEmpty) }

/-- TILE_OP_COMPLETE (R263): the operation's effect, whole, then its completion. A parked operation of a cancelled launch
completes without any write (R269). -/
def execTileOpComplete (k : Nat) (s : State) : Out :=
  .next (match Map.find s.tileOps k with
    | none => s
    | some o =>
      if o.phase = .running then
        if !(o.rows.all (s.served o.ctx)) || !(o.spanF || s.gatherClear o) then s
        else if o.spanF then s.finishTile k o [] (s.ownerOf o).lfsr
        else let r := s.tileDone o; (r.st.postData o.group r.recs).finishTile k o r.causes r.lfsr
      else if (o.phase == .parked || o.phase == .waiting) && s.cancelled o.launch then s.finishTile k o [] (s.ownerOf o).lfsr
      else s)

/-- A resumed operation is checked again and, where it fits and its halves are free, runs (R269). -/
def State.recheck (s : State) (k : Nat) (o : TileOp) : State :=
  let cs := s.tileCosts o
  if s.halvesIdle o && s.ctxRuns o.ctx && s.issueCheck o.ctx false true cs == .ok then
    ((s.addCharges o.ctx o.charge cs).frontHalves k o).setTileOp k { o with phase := .running }
  else s.setTileOp k { o with phase := .waiting }

/-- TMERGE_RESUME (R279): TURN is the ticket of a parked merge. One that TURN has passed stays parked. -/
def execTmergeResume (k : Nat) (s : State) : Out :=
  .next (match Map.find s.tileOps k with
    | none => s
    | some o => if o.kind = .tmerge ∧ o.phase = .parked ∧ (s.objectBad o = true ∨ o.sval.toNat = s.turnOf o) then s.recheck k o else s)

/-- The resumed operations of an instance are charged and take the front of their halves; none where one does not fit. -/
def State.chargeAll : State → List (Nat × TileOp) → Option State
  | s, [] => some s
  | s, (k, o) :: t =>
    if o.phase = .queued then (s.setTileOp k { o with phase := .running }).chargeAll t
    else
      let cs := s.tileCosts o
      if s.halvesIdle o && s.issueCheck o.ctx false true cs == .ok then
        (((s.addCharges o.ctx o.charge cs).frontHalves k o).setTileOp k { o with phase := .running }).chargeAll t
      else none

/-- A spanned instance runs in every participant at once (R281, R282): the leader's B is read before any participant
writes. Where a participant's engine cannot take it, the parked ones wait at their engines. -/
def State.startSpan (s : State) (o : TileOp) : State :=
  let is := s.instanceOf o
  let may (kv : Nat × TileOp) : Bool :=
    kv.2.phase == .parked || kv.2.phase == .waiting || s.tileReady kv.1 kv.2
  if !(s.gathered o) || !(is.all may) || !(is.all (fun kv => s.tileSources kv.2 && s.gatherClear kv.2)) || !(s.ctxRuns o.ctx) then s
  else
    match is.find? (fun kv => s.leads kv.2) with
    | none => s
    | some (_, ld) =>
      match s.chargeAll is with
      | none => is.foldl (fun t kv => if kv.2.phase = .parked then t.setTileOp kv.1 { kv.2 with phase := .waiting } else t) s
      | some t =>
        let ws := is.map (fun kv => (kv.2, (s.matWrites kv.2 ld).1, s.matCauses kv.2 ld))
        let t1 := is.foldl (fun (u : State) kv => u.postData kv.2.group (s.matRecs kv.2 ld)) t
        ws.foldl (fun (u : State) w =>
          let v := u.setTiles w.1 w.2.1
          let x := v.grp w.1.group
          v.setGrp w.1.group { x with deferred := x.deferred ++ w.2.2.map (fun c => ⟨c, w.1.opNo⟩) }) t1

/-- SPAN_INSTANCE_START (R281). -/
def execSpanInstanceStart (k : Nat) (s : State) : Out :=
  .next (match Map.find s.tileOps k with
    | some o => if o.spanF && (o.phase == .parked || o.phase == .queued) then s.startSpan o else s
    | none => s)

/-- PARKED_OP_RECHECK (R269): a resumed operation that waits at its engine tries again. -/
def execParkedOpRecheck (k : Nat) (s : State) : Out :=
  .next (match Map.find s.tileOps k with
    | some o => if o.phase = .waiting then (if o.spanF then s.startSpan o else s.recheck k o) else s
    | none => s)

end Sys2Proof.Machine
end

