-- ==== Sys2Proof/Machine/Copy.lean ====
section
/-!
DEFINITION. Copies (15 R284 to R292): the issue of `cpy` and `cpy2d`, their costs, and the steps of the copy engine.
-/
namespace Sys2Proof.Machine

/-! ## Ranges (R285 to R287) -/

/-- The base address of row i. -/
def rowAt (base : Nat) (stride : W64) (i : Nat) : Int := (base : Int) + (i : Int) * sext 64 stride.toNat

/-- The bounding range [lo, hi) of the rows from a base; empty for no byte. -/
def Copy.bounds (c : Copy) (base : Nat) (stride : W64) : Int × Int :=
  if c.rows = 0 ∨ c.n = 0 then (base, base)
  else
    let z := rowAt base stride (c.rows - 1)
    (min (base : Int) z, max (base : Int) z + (c.n : Int))

/-- The source range. -/
def Copy.srcRange (c : Copy) : Int × Int := c.bounds c.src c.sstride
/-- The destination range. -/
def Copy.dstRange (c : Copy) : Int × Int := c.bounds c.dst c.dstride
/-- The bytes of a copy. -/
def Copy.total (c : Copy) : Nat := c.rows * c.n

/-- Two ranges have a byte in common. -/
def rangesMeet (a b : Int × Int) : Bool := decide (a.1 < b.2) && decide (b.1 < a.2)

/-- Is there a j below k with lo < base + j * step < hi? -/
def anyRowIn (base step : Int) (k : Nat) (lo hi : Int) : Bool :=
  if k = 0 then false
  else if step = 0 then decide (lo < base) && decide (base < hi)
  else
    let b := if step < 0 then base + ((k : Int) - 1) * step else base
    let t := if step < 0 then -step else step
    let j0 := max 0 ((lo + 1 - b + t - 1).fdiv t)
    let j1 := min ((k : Int) - 1) ((hi - 1 - b).fdiv t)
    decide (j0 ≤ j1)

/-- The destination rows overlap each other, or a source row (R286). -/
def Copy.selfOverlap (c : Copy) : Bool :=
  (decide (2 ≤ c.rows) && decide ((sext 64 c.dstride.toNat).natAbs < c.n)) ||
  (rangesMeet c.srcRange c.dstRange && (List.range c.rows).any (fun i =>
    let d := rowAt c.dst c.dstride i
    anyRowIn (c.src : Int) (sext 64 c.sstride.toNat) c.rows (d - (c.n : Int)) (d + (c.n : Int))))

/-- The spaces of R64: 0 global, 1 private, 2 scratch; none for an address that is not canonical. -/
def spaceOf (a : Int) : Option Nat :=
  if a < 0 ∨ 2 ^ 57 ≤ a then none
  else if inScratch a.toNat then some 2 else if inPrivate a.toNat then some 1 else some 0

/-- The space of a range; none where a byte is not canonical or the range crosses from one space into another (R286). -/
def rangeSpace (r : Int × Int) : Option Nat :=
  match spaceOf r.1, spaceOf (r.2 - 1) with
  | some a, some b => if a = b then some a else none
  | _, _ => none

/-- A range holds a byte. -/
def hasBytes (r : Int × Int) : Bool := decide (r.1 < r.2)

/-- The address causes of a set of ranges, in the order of R286: address-noncanonical, scratch-bound for a scratch of
the given size, protection for a private byte. -/
def rangesCause (scr : Nat) (rs : List (Int × Int)) : Option Nat :=
  let qs := rs.filter hasBytes
  if qs.any (fun r => rangeSpace r == none) then some cNoncan
  else if qs.any (fun r => rangeSpace r == some 2 && decide ((scr : Int) < (r.2 - 2 ^ 48 * 0x1FF))) then some cScr
  else if qs.any (fun r => rangeSpace r == some 1) then some cProt
  else none

/-- The outstanding copies of a context: those whose status is 0 (R287). -/
def State.outstanding (s : State) (c : Nat) : List (Nat × Copy) := s.copies.filter (fun kv => kv.2.ctx == c && kv.2.status == 0)

/-- A copy meets an outstanding one (R287). -/
def State.copyMeets (s : State) (c : Copy) : Bool :=
  (s.outstanding c.ctx).any (fun kv =>
    rangesMeet c.dstRange kv.2.srcRange || rangesMeet c.dstRange kv.2.dstRange || rangesMeet c.srcRange kv.2.dstRange)

/-- The causes of a copy at issue, in the order of R286; `limit` is the bound on its row bytes. -/
def State.copyCause (s : State) (c : Copy) (limit scr : Nat) : Option Nat :=
  if limit < c.n ∨ 65535 < c.rows ∨ 2 ^ 36 < c.total then some cMalf
  else if c.total = 0 then none
  else if c.selfOverlap then some cMalf
  else
    match rangesCause scr [c.srcRange, c.dstRange] with
    | some e => some e
    | none => if s.copyMeets c then some cOverlap else none

/-! ## Costs (R289, R130) -/

/-- An endpoint as it is priced: the largest latency, the least floor (none for scratch), the resources. -/
structure EndPt where
  lat : Nat := 0
  floor : Option Nat := none
  res : List Resource := []
  deriving DecidableEq, Repr

/-- A piece of an endpoint added to it. -/
def EndPt.join (e : EndPt) (lat floor : Nat) (rs : List Resource) : EndPt :=
  { lat := Nat.max e.lat lat
    floor := some (match e.floor with | some f => Nat.min f floor | none => floor)
    res := e.res ++ rs.filter (fun r => !e.res.contains r) }

/-- The bytes that the entry which ended a walk covers (R373). -/
def walkSize (m : List Host.Cell) (va : Nat) : Nat → Nat → Nat
  | 0, _ => 65536
  | level + 1, table =>
    let w := BitVec.ofNat 64 (getLE m (table + 8 * (va / 2 ^ (21 + 9 * level) % 512)) 8)
    if w.getLsbD 63 && !(w.getLsbD 62) && tableOk w level then walkSize m va level (bits w.toNat 51 8 * 256)
    else 2 ^ (21 + 9 * level)

/-- The virtual channels of the lines of a range of fabric addresses. -/
def rangeVcs (fa n : Nat) : List Nat :=
  (List.range (Nat.min 16 ((fa % 128 + n + 127) / 128))).foldl (fun (a : List Nat) i =>
    let v := fabricVc (fa / 128 * 128 + 128 * i)
    if a.contains v then a else a ++ [v]) []

/-- What the bytes from an address up to `hi` of the space of context t add to an endpoint, at the floors of context c, and
how many bytes one entry covers. A page that is not resident counts as host. -/
def State.pageEnd (s : State) (u : TlbUnit) (c t va hi : Nat) (e : EndPt) : EndPt × Nat :=
  let host : EndPt := e.join (tierLat 3) ((s.ctx c).floor 4 3) [.tier 4 3]
  match s.xlate u t va with
  | .leaf l =>
    let k := pageSize l.large - va % pageSize l.large
    match leafPlace l va with
    | .phys pa _ typ _ => (e.join (tierLat typ) (s.floorOf c typ pa) [s.resOf typ pa], k)
    | .peer fa =>
      match s.routeOf (fa / 2 ^ 40) with
      | some (port, hops) =>
        (e.join (1200 * hops) (Map.get 0#64 (s.ctx c).ffab port).toNat ((rangeVcs fa (Nat.min k (hi - va))).map (fun v => .fabric port v)), k)
      | none => (e.join 1200 0 [.fabric 15 0], k)
    | _ => (host, k)
  | _ =>
    let z := walkSize s.mem va 4 (s.ctx t).ptroot.toNat
    (host, z - va % z)

/-- The pages of a range, one entry at a time. -/
def State.spanEnd (s : State) (u : TlbUnit) (c t hi : Nat) : Nat → Nat → EndPt → EndPt
  | 0, _, e => e
  | fuel + 1, va, e =>
    if hi ≤ va then e
    else
      let (e1, k) := s.pageEnd u c t va hi e
      s.spanEnd u c t hi fuel (va + k) e1

/-- An endpoint of a virtual range, as a die looks it up; scratch has no latency, no floor and no resource. -/
def State.endOf (s : State) (die c t : Nat) (r : Int × Int) : EndPt :=
  if !(hasBytes r) || rangeSpace r == some 2 then {}
  else s.spanEnd (.die die) c t r.2.toNat ((r.2 - r.1).toNat / 65536 + 2) r.1.toNat {}

/-- The copy channel that holds the least charge of a context on a die; ties go to the lower number (R130). -/
def Ctx.channel (x : Ctx) (die : Nat) : Nat :=
  ((List.range 8).foldl (fun (b : Nat × Nat) n =>
    let k := x.chargeOn (.channel die n)
    if k < b.2 then (n, k) else b) (0, x.chargeOn (.channel die 0))).1

/-- The full cost of moving b bytes between two endpoints, on the channel and on every resource touched (R289). -/
def State.moveCosts (s : State) (c die : Nat) (src dst : EndPt) (b : Nat) : Costs :=
  let f := match src.floor, dst.floor with
    | some x, some y => Nat.min x y
    | some x, none => x
    | none, some y => y
    | none, none => 64
  let amt := if f = 0 then noService else src.lat + dst.lat + ceilDiv b f
  let rs := src.res ++ dst.res.filter (fun r => !src.res.contains r)
  ⟨.channel die ((s.ctx c).channel die), amt, f⟩ :: rs.map (fun r => ⟨r, amt, f⟩)

/-- What a copy would charge for what is left of it. -/
def State.copyCosts (s : State) (c : Copy) : Costs :=
  if c.total = 0 then [] else s.moveCosts c.ctx c.die (s.endOf c.die c.ctx c.ctx c.srcRange) (s.endOf c.die c.ctx c.ctx c.dstRange) (c.total - c.moved)

/-! ## Issue (R284) -/

/-- One record for each watchpoint that the reads or the writes of an operation match (R439). -/
def mergeHits (a b : List Hit) : List Hit :=
  (List.range 8).flatMap (fun n =>
    match a.find? (fun h => h.wp == n), b.find? (fun h => h.wp == n) with
    | some h, some k => [{ h with addr := Nat.min h.addr k.addr, size := Nat.max h.size k.size }]
    | some h, none => [h]
    | none, some k => [k]
    | none, none => [])

/-- The rows of a copy from a base, as ranges for watchpoints. -/
def Copy.rowRanges (c : Copy) (base : Nat) (stride : W64) : List (Nat × Nat × Nat) :=
  (List.range c.rows).map (fun i => (0, (rowAt base stride i).toNat, c.n))

/-- The watch hits of a copy. -/
def State.copyHits (s : State) (base : Hit) (c : Copy) : List Hit :=
  if c.n = 0 then [] else
  mergeHits ((s.ctx c.ctx).hitsOf 62 base (c.rowRanges c.src c.sstride)) ((s.ctx c.ctx).hitsOf 61 base (c.rowRanges c.dst c.dstride))

/-- The copy that an instruction describes, as captured at issue. -/
def State.copyOf (s : State) (g : Nat) (x : Group) (a : AArgs) (two : Bool) : Copy :=
  { ctx := x.ctx, launch := some x.launch, group := some g, gid := x.gid, src := (x.sr a.sb).toNat, dst := (x.sr a.sa).toNat
    n := (x.sr a.sc).toNat, rows := if two then (x.sr a.ss).toNat else 1
    sstride := if two then x.sr (a.ss + 1) else 0#64, dstride := if two then x.sr (a.ss + 2) else 0#64
    die := dieOfCore x.core, core := x.core, scrBase := s.scrOff x 0, pc := x.pc.toNat, rgn := x.rgnWord, seq := x.seq }

/-- A copy is charged and handed to its engine; its handle is written, and it enters the C counter (R284 step 3). -/
def State.startCopy (s : State) (x : Group) (d : Nat) (c : Copy) (cs : Costs) : State :=
  let k := s.copies.fresh
  let id := s.clock + 1
  let zero : Bool := c.total == 0
  let w := s.copyHits (s.hitBase s.cur x 2 c.pc 0 false) c
  let s1 := if zero then { s with clock := id }
    else { (s.addCharges x.ctx id cs) with clock := id, copies := s.copies.put k { c with opId := id, charge := id, handle := x.hseq, watch := w } }
  let y0 := { x with hseq := x.hseq + 1, handles := x.handles.put x.hseq ⟨1, k, b2n zero⟩ }.enter .c id
  let y := if zero then y0.finishOp id else y0
  s1.setGrp s.cur (y.setSr d (handleWord 1 (s.lau x.launch).lid x.gid x.hseq)).adv

/-- The issue of a copy: the causes of R286, the table of R287, the vacate check, the counter (R98), the start. The scalar
thread waits until the queued lane instructions that access memory have issued, so that the copy takes its place behind them
(R85, log 37). -/
def State.issueCopy (s : State) (x : Group) (d limit : Nat) (c : Copy) : State :=
  if s.memQueued x then s
  else
    match s.copyCause c limit (s.scrSize x) with
    | some e => s.trapGroup s.cur e
    | none =>
      if c.total ≠ 0 ∧ 256 ≤ (s.outstanding x.ctx).length then s.setGrp s.cur { x with stalled := true }
      else
        let cs := s.copyCosts c
        s.checkedIssue x cs .c {} (s.startCopy x d c cs)

/-- `cpy` (R285). -/
def execCpy (a : AArgs) (s : State) : Out :=
  scalarGo s [a.sa, a.sb, a.sc] [a.sd] [] (fun x => s.issueCopy x a.sd (2 ^ 36) (s.copyOf s.cur x a false))

/-- `cpy2d` (R285). -/
def execCpy2d (a : AArgs) (s : State) : Out :=
  scalarGo s [a.sa, a.sb, a.sc, a.ss, a.ss + 1, a.ss + 2] [a.sd] []
    (fun x => s.issueCopy x a.sd (2 ^ 24) (s.copyOf s.cur x a true))

/-- COPY_OVERLAP_STALL_END (R287): an entry of the table is free; the group issues its copy again. -/
def execCopyOverlapStallEnd (g : Nat) (s : State) : Out :=
  .next (match Map.find s.groups g with
    | some x => if x.stalled && decide ((s.outstanding x.ctx).length < 256) then s.setGrp g { x with stalled := false } else s
    | none => s)

/-! ## The engine (R288, R290, R291) -/

/-- The group fields that a copy's accesses use. -/
def Copy.who (c : Copy) : Group := { ctx := c.ctx, core := c.core }

/-- Where a byte address of a copy leads. -/
def State.copyPlace (s : State) (c : Copy) (va : Nat) (w : Want) : Res :=
  if inScratch va then .ok (.scratch c.core (c.scrBase + apOff va)) else s.resolveGlobal (.die c.die) c.ctx (va % 2 ^ 57) w

/-- The addresses of the next byte: source, destination, and the bytes left in its row. -/
def Copy.next (c : Copy) : Nat × Nat × Nat :=
  let i := c.moved / c.n
  let k := c.moved % c.n
  ((rowAt c.src c.sstride i + (k : Int)).toNat, (rowAt c.dst c.dstride i + (k : Int)).toNat, c.n - k)

/-- Every earlier access of the issuing group has been performed (R97). -/
def State.copySources (s : State) (c : Copy) : Bool :=
  match c.group with
  | some g => (s.grp g).pend.all (fun p => decide (c.seq ≤ p.seq))
  | none => true

/-- The engine moves this copy now. -/
def State.copyRuns (s : State) (c : Copy) : Bool := c.status == 0 && !c.suspended && s.ctxRuns c.ctx && s.copySources c

/-- The frame of a place counts one line access of the copy engine (R387). -/
def State.heatCopy (s : State) (c : Copy) (p : Place) (va : Nat) : State :=
  if va % 128 = 0 ∨ c.moved % c.n = 0 then s.heat c.ctx false [{ va := va, place := p, size := 1 }] else s

/-- The record of uncorrectable data in a copy's source, once for each of its lines (R291, R406). -/
def State.postCopyBad (s : State) (c : Copy) (e : Nat × Nat) : State :=
  if c.skipLines.contains (e.1 / 128) && e.1 != 0 then s
  else match c.launch with
    | some l => s.post c.ctx .fault 4 cData (s.lau l).lid c.gid e.1 e.2
    | none => s.post c.ctx .fault 4 cData 0xFFFF 0xFFFF e.1 e.2

/-- The last byte of a line that lies whole in the present row has been written, and none of the line was left out: the record of
the line, as an uncorrectable one, is cleared (R391, R406). -/
def State.clearCopied (s : State) (c : Copy) (da z : Nat) (q : Place) : State :=
  let row := (rowAt c.dst c.dstride (c.moved / c.n)).toNat
  let lo := (da + z) - 128
  if (da + z) % 128 = 0 ∧ row ≤ lo ∧ (match c.lastBad with | some b => decide (b < lo) || decide (da + z ≤ b) | none => true) = true then
    match q with
    | .phys pa page _ gen => s.clearLines (homeOf c.ctx page gen pa s.moves / 128 * 128) 128
    | _ => s
  else s

/-- Moves one piece, of which up to `n` bytes are counted as moved: 8 bytes at once where source and destination are aligned
alike and the row holds them, else one (R288). Bytes of a piece that stands written are only counted. None where the engine
must stop: a page that is missing or forbidden, or a line that cannot be served now. -/
def State.movePiece (s : State) (k : Nat) (c : Copy) (n : Nat) : Option (State × Nat) :=
  let count (t : State) (d : Copy) (z : Nat) : State × Nat :=
    let m := Nat.min z n
    let d1 := { d with moved := d.moved + m, ahead := z - m }
    (({ t with copies := t.copies.put k d1 }).releaseMoved c.ctx c.charge (d.moved - d.costedAt) (d1.moved - d.costedAt), m)
  if c.ahead ≠ 0 then some (count s c c.ahead)
  else
    let (sa, da, left) := c.next
    match s.copyPlace c sa .rd, s.copyPlace c da .wr with
    | .ok p, .ok q =>
      let z := if sa % 8 = 0 ∧ da % 8 = 0 ∧ 8 ≤ left ∧ (match p with | .scratch core off => s.scrBad core off 8 | _ => false) = false then 8 else 1
      let src : Part := { va := sa, place := p, size := z }
      let dst : Part := { va := da, place := q, size := z }
      if !(s.served c.ctx src) || !(s.served c.ctx dst) then none
      else
        let s1 := (s.heatCopy c p sa).heatCopy c q da
        let r := s1.performAt 0 c.who .load 0#32 src
        let e := s1.errAt c.ctx p
        let b := { c with begun := true }
        if r.bad then
          some (count (s1.postCopyBad c e) { b with
            skipLines := c.skipLines ++ [e.1 / 128], lastBad := some da, firstBad := match c.firstBad with | some a => some a | none => some da } z)
        else some (count (((s1.performAt 0 c.who .store 0#32 { dst with x := r.val }).st).clearCopied c da z q) b z)
    | _, _ => none

/-- Moves pieces until the given number of bytes has moved, or the engine must stop. -/
def State.moveBytes (s : State) (k : Nat) : Nat → Nat → State
  | 0, _ => s
  | fuel + 1, left =>
    let c := Map.get {} s.copies k
    if left ≠ 0 ∧ c.moved < c.total then
      match s.movePiece k c left with
      | some (t, z) => t.moveBytes k fuel (left - z)
      | none => s
    else s

/-- COPY_BYTE_TRANSFER (R288). -/
def execCopyByteTransfer (k n : Nat) (s : State) : Out :=
  .next (match Map.find s.copies k with
    | some c => if s.copyRuns c then s.moveBytes k n n else s
    | none => s)

/-- What stops the engine at the next byte: the source first, then the destination. -/
def State.copyBlock (s : State) (c : Copy) : Option (Res × Nat) :=
  if c.moved < c.total then
    let (sa, da, _) := c.next
    match s.copyPlace c sa .rd with
    | .ok _ =>
      (match s.copyPlace c da .wr with
       | .ok _ => none
       | r => some (r, 1))
    | r => some (r, 0)
  else none

/-- A copy ends with a status: its entry of the table is free, its charge is released, its handle and its counter, or the
words of its packet, say so (R291, R361). -/
def State.endCopy (s : State) (k : Nat) (c : Copy) (status : Nat) : State :=
  let s1 := { (s.release c.ctx c.charge) with copies := s.copies.del k }
  let x := s1.ctx c.ctx
  let s2 := s1.setCtx c.ctx { x with hits := x.hits ++ (if c.moved = 0 then [] else c.watch) }
  let s3 := match c.group with
    | some g => (s2.setGrp g ((s2.grp g).finishOp c.opId)).setHandle g c.handle status
    | none => s2
  match c.packet with
  | some (q, i, sig, sigv, st) =>
    let s4 := s3.vWrite c.ctx st 8 status
    (if sig = 0 then s4 else s4.vAdd c.ctx sig sigv).finishPacket c.ctx q i
  | none => s3

/-- The `%lid` that records of a copy carry. -/
def State.copyLid (s : State) (c : Copy) : Nat := match c.launch with | some l => (s.lau l).lid | none => 0xFFFF

/-- The handle word of a copy; 0 for a packet. -/
def State.copyHandle (s : State) (c : Copy) : Nat :=
  match c.group with
  | some _ => (handleWord 1 (s.copyLid c) c.gid c.handle).toNat
  | none => 0

/-- A copy fails: the record of copy-failed, then status 3 (R291, R402). -/
def State.failCopy (s : State) (k : Nat) (c : Copy) (cause : Nat) : State :=
  let at_ := match c.firstBad with | some a => a | none => c.next.2.1
  (s.post c.ctx .fault 3 cause (s.copyLid c) c.gid (s.copyHandle c) at_).endCopy k c 3

/-- COPY_SUSPEND (R290): the next byte's page is not resident. With FQSIZE = 0 the fault is declined when it arises
(R398). -/
def execCopySuspend (k : Nat) (s : State) : Out :=
  .next (match Map.find s.copies k with
    | some c =>
      if s.copyRuns c then
        match s.copyBlock c with
        | some (.missing pg, acc) =>
          let x := s.ctx c.ctx
          if x.fq.size = 0#64 then (s.setCtx c.ctx { x with fq := { x.fq with lost := x.fq.lost + 1 } }).failCopy k c cPage
          else
            let s1 := (s.release c.ctx c.charge).postPage c.ctx pg (s.copyLid c) c.gid (4 + acc)
            { s1 with copies := s1.copies.put k { c with suspended := true, pfPage := some pg } }
        | _ => s
      else s
    | none => s)

/-- COPY_RESUME (R290): the page is mapped; the engine goes on once the remaining cost fits. -/
def execCopyResume (k : Nat) (s : State) : Out :=
  .next (match Map.find s.copies k with
    | some c =>
      if c.suspended && c.pfPage.isNone && (s.ctx c.ctx).st == .running then
        let cs := s.copyCosts c
        if s.issueCheck c.ctx false true cs == .ok then
          { (s.addCharges c.ctx c.charge cs) with copies := s.copies.put k { c with suspended := false, costedAt := c.moved } }
        else s
      else s
    | none => s)

/-- COPY_COMPLETE (R288): every byte has been written. -/
def execCopyComplete (k : Nat) (s : State) : Out :=
  .next (match Map.find s.copies k with
    | some c => if s.copyRuns c && c.moved == c.total && c.firstBad.isNone then s.endCopy k c 1 else s
    | none => s)

/-- COPY_FAIL (R291): a page reached during the copy forbids it, or a source byte was uncorrectable. -/
def execCopyFail (k : Nat) (s : State) : Out :=
  .next (match Map.find s.copies k with
    | some c =>
      if s.copyRuns c then
        if c.moved = c.total then (if c.firstBad.isSome then s.failCopy k c cData else s)
        else
          match s.copyBlock c with
          | some (.cause e, _) => s.failCopy k c e
          | _ => s
      else s
    | none => s)

end Sys2Proof.Machine
end

