-- ==== Sys2Proof/Machine/Flit.lean ====
section
/-!
DEFINITION. Flits and packets of the fabric as bytes (26 R412), what a port sends and holds for replay (R413), end-to-end
numbers (R414).
-/
namespace Sys2Proof.Machine

/-- One bit of the CRC. -/
def crcBit (c : Nat) : Nat := if 2 ^ 63 ≤ c then (2 * c) % 2 ^ 64 ^^^ 0x42F0E1EBA9EA3693 else 2 * c

/-- One byte of the CRC. -/
def crcByte (c : Nat) (b : Byte) : Nat :=
  crcBit (crcBit (crcBit (crcBit (crcBit (crcBit (crcBit (crcBit (c ^^^ (b.toNat * 2 ^ 56)))))))))

/-- CRC-64 with the ECMA-182 polynomial (R412), most significant bit first, from 0. PRESUMED: the form of the standard of
that name. -/
def crc64 (bs : List Byte) : Nat := bs.foldl crcByte 0

/-- The fields of a flit header (R412). -/
structure FlitHead where
  lane : Nat
  vc : Nat
  ackv : Bool
  nak : Bool
  ack : Nat
  seq : Nat
  deriving DecidableEq, Repr

/-- A header as a word. -/
def FlitHead.word (h : FlitHead) : Nat :=
  h.lane * 2 ^ 30 + h.vc * 2 ^ 26 + b2n h.ackv * 2 ^ 25 + b2n h.nak * 2 ^ 24 + h.ack * 2 ^ 12 + h.seq

/-- A header read from a word. -/
def flitHeadOf (w : Nat) : FlitHead := ⟨bits w 31 30, bits w 29 26, bitOf w 25, bitOf w 24, bits w 23 12, bits w 11 0⟩

/-- A flit of at most 240 payload bytes, the rest zero. -/
def flitOf (h : FlitHead) (payload : List Byte) : List Byte :=
  let bs := leBytes 8 h.word ++ payload ++ List.replicate (240 - payload.length) 0#8
  bs ++ leBytes 8 (crc64 bs)

/-- The 96-bit header of a packet (R412), little-endian. -/
def FReq.head (r : FReq) : List Byte := leBytes 12 (r.op * 2 ^ 92 + r.src * 2 ^ 80 + r.e2e * 2 ^ 64 + r.addr * 2 ^ 12 + r.arg)

/-- A packet: its header and its data. -/
def FReq.bytes (r : FReq) : List Byte := r.head ++ r.data

/-- A packet header read. -/
def freqOf (w : Nat) : FReq := { op := bits w 95 92, src := bits w 91 80, e2e := bits w 79 64, addr := bits w 63 12, arg := bits w 11 0 }

/-- Bytes of an atomic's operand (R251, R412): 4, or 8 with W; twice that for a compare and swap. DEDUCED. -/
def FReq.atomWidth (r : FReq) : Nat := if bitOf r.arg 4 then 8 else 4

/-- The data bytes that follow a header, given the answer's length for a response. -/
def FReq.dataLen (r : FReq) (answer : Nat) : Nat :=
  match r.op with
  | 1 => r.arg % 128 + 1
  | 2 => if r.arg % 16 = 7 then 2 * r.atomWidth else r.atomWidth
  | 3 => 128
  | 6 => answer
  | _ => 0

/-- A reserved OP or a reserved bit is set (R412). -/
def FReq.reserved (r : FReq) : Bool :=
  decide (8 ≤ r.op) || ((r.op == 0 || r.op == 1) && decide (128 ≤ r.arg)) || (r.op == 2 && decide (32 ≤ r.arg)) ||
  (r.op == 3 && decide (512 ≤ r.arg)) || (r.op == 4 && bitOf r.arg 11)

/-- The flits that carry bytes from a port, each kept for replay until it is acknowledged (R413). -/
def State.transmitFlits (s : State) (port lane vc : Nat) : Nat → List Byte → State
  | 0, _ => s
  | fuel + 1, bs =>
    if bs = [] then s
    else
      let p := Map.get {} s.ports port
      let f := flitOf ⟨lane, vc, true, p.nak, (p.rxSeq + 4095) % 4096, p.txSeq⟩ (bs.take 240)
      { s with ports := s.ports.put port { p with txSeq := (p.txSeq + 1) % 4096, nak := false, replay := p.replay ++ [f] } }.transmitFlits
        port lane vc fuel (bs.drop 240)

/-- A packet leaves on a lane of a channel. -/
def State.transmit (s : State) (port lane vc : Nat) (r : FReq) : State := s.transmitFlits port lane vc (r.bytes.length / 240 + 1) r.bytes

/-- The packets of a request: a chunk goes as one write of 128 bytes for each of its lines (R412, R421), with end-to-end
numbers that end at that of the request. -/
def FReq.packets (r : FReq) : List FReq :=
  if r.op = 3 then
    let n := Nat.max 1 (ceilDiv r.data.length 128)
    (List.range n).map (fun i =>
      let d := (r.data.drop (128 * i)).take 128
      { r with e2e := (r.e2e + 65536 - (n - 1 - i)) % 65536, arg := i, data := d ++ List.replicate (128 - d.length) 0#8 })
  else [r]

/-- The lane of a request (R412, R423). -/
def FReq.lane (r : FReq) : Nat := if r.op = 4 then 2 else if r.op = 6 ∨ r.op = 7 then 1 else 0

/-- A request leaves, and is kept until it is acknowledged end to end (R414). -/
def State.sendReq (s : State) (e : Sent) : State :=
  e.req.packets.foldl (fun t r => t.transmit e.port r.lane e.vc r) { s with sent := s.sent ++ [e] }

end Sys2Proof.Machine
end

