-- ==== Sys2Proof/Machine/Coll.lean ====
section
/-!
DEFINITION. Collectives (15 R293 to R299, 17 R329, 26 R420 to R425, 27 R427, R428): the communicator record, the issue of
`coll`, the chunks of an instance on this rank, their slots, their combination, completion and failure.
-/
namespace Sys2Proof.Machine

/-! ## Communicators (R420, R421) -/

/-- Communicator k of a context; none where its record has V = 0 or the identifier is 8 or more. -/
def State.readComm (s : State) (c k : Nat) : Option Comm :=
  let a := (s.ctx c).commbase.toNat + 512 * k
  let rd (o n : Nat) : Nat := s.vRead c (a + o) n
  if 8 ≤ k ∨ bitOf (rd 0 4) 0 = false then none
  else
    let r := rd 4 2
    some { r := r, rank := rd 6 2, root := rd 8 2, prio := bits (rd 0 4) 2 1, kdesc := rd 0x10 8, bid := rd 0x18 4
           slotBase := rd 0x20 8, peerTab := rd 0x28 8, idx := k
           parents := (List.range (Nat.min r 256)).map (fun i => rd (0x100 + i) 1) }

/-- The reserved fields of communicator k's record and of its peers' entries are zero (R4, R420). -/
def State.commClean (s : State) (c k : Nat) (m : Comm) : Bool :=
  let a := (s.ctx c).commbase.toNat + 512 * k
  let zero (o n : Nat) : Bool := (List.range n).all (fun i => s.vRead c (o + i) 1 == 0)
  s.vRead c a 4 / 8 == 0 && zero (a + 0x00A) 6 && zero (a + 0x01C) 4 && zero (a + 0x030) 208 &&
  (List.range m.r).all (fun i =>
    let p := m.peerTab + 16 * i
    s.vRead c p 4 / 4096 == 0 && zero (p + 7) 9)

/-- The path from a rank up the tree, the rank first, within a number of steps. -/
def Comm.climb (m : Comm) : Nat → Nat → List Nat
  | 0, v => [v]
  | n + 1, v => if v = m.root then [v] else v :: m.climb n (m.parents.getD v v)

/-- The path from a rank to the root. -/
def Comm.path (m : Comm) (v : Nat) : List Nat := m.climb m.r v

/-- A rank lies in the subtree of another. -/
def Comm.under (m : Comm) (a v : Nat) : Bool := (m.path v).contains a

/-- The parent of the own rank; none at the root. -/
def Comm.parent (m : Comm) : Option Nat := if m.rank = m.root then none else some (m.parents.getD m.rank m.root)

/-- The children of a rank, ascending. -/
def Comm.kidsOf (m : Comm) (v : Nat) : List Nat :=
  (List.range m.r).filter (fun u => u != m.root && u != v && m.parents.getD u m.root == v)

/-- The children of the own rank. -/
def Comm.kids (m : Comm) : List Nat := m.kidsOf m.rank

/-- The next hop from the own rank toward another. -/
def Comm.hop (m : Comm) (b : Nat) : Option Nat :=
  match m.kids.find? (fun u => m.under u b) with
  | some u => some u
  | none => m.parent

/-- The own rank lies on the tree path from a to b. -/
def Comm.onPath (m : Comm) (a b : Nat) : Bool :=
  let v := m.rank
  if m.under v a && m.under v b then !(m.kids.any (fun u => m.under u a && m.under u b))
  else m.under v a || m.under v b

/-- The record is that of a communicator: counts in range, PARENT a tree rooted at ROOT (R420). -/
def Comm.valid (m : Comm) : Bool :=
  decide (1 ≤ m.r) && decide (m.r ≤ 256) && decide (m.rank < m.r) && decide (m.root < m.r) &&
  (List.range m.r).all (fun v => v == m.root || (decide (m.parents.getD v m.r < m.r) && (m.path v).contains m.root))

/-- The rank tree is ordered (R329). -/
def Comm.ordered (m : Comm) : Bool :=
  (List.range m.r).all (fun v =>
    let sub := (List.range m.r).filter (fun u => m.under v u)
    sub.all (fun u => decide (v ≤ u)) && decide (sub.foldl Nat.max 0 + 1 = v + sub.length))

/-- The check of a chunk (R423): R, ROOT, PARENT, kind, count and type. -/
def CollJoin.check (j : CollJoin) : List Nat :=
  [j.rec_.r, j.rec_.root] ++ j.rec_.parents ++ [j.args.md, j.count, tyCode j.args.ty]

/-- Where a peer is reached: through a port with a hop count, with the export index of its slot area; or on this device,
as a communicator of a context; or not at all. -/
inductive Peer where
  | remote (dev port hops index : Nat)
  | here (ctx comm : Nat)
  | none
  deriving DecidableEq, Repr

/-- Peer k of a communicator (R414, R417, R418, R420). -/
def State.peerOf (s : State) (c : Nat) (m : Comm) (k : Nat) : Peer :=
  let dev := s.vRead c (m.peerTab + 16 * k) 2 % 4096
  let index := s.vRead c (m.peerTab + 16 * k + 4) 4 % 2 ^ 24
  if dev = s.devid.toNat % 4096 then
    let e := s.readLE (s.expbase.toNat + 8 * index) 8
    let va := bits e 40 0 * 65536
    if s.expsize.toNat ≤ index ∨ bitOf e 63 = false then .none
    else
      match (List.range 8).find? (fun j => match s.readComm (bits e 59 56) j with
        | some n => n.slotBase == va
        | none => false) with
      | some j => .here (bits e 59 56) j
      | none => .none
  else
    match s.routeOn dev (8 + m.idx) with
    | some (port, hops) => .remote dev port hops index
    | none => .none

/-! ## Buffers and segments (R293, R427) -/

/-- Element bytes. -/
def CollJoin.width (j : CollJoin) : Nat := tyWidth j.args.ty / 8
/-- Tiles of a signature. -/
def CollJoin.sigT (j : CollJoin) : Nat := sigTiles j.sigdim j.sigdepth
/-- Parts of the buffer. -/
def CollJoin.parts (j : CollJoin) : Nat := if j.args.md = 3 ∨ j.args.md = 5 ∨ j.args.md = 7 then j.rec_.r else 1
/-- Bytes of a part. -/
def CollJoin.partBytes (j : CollJoin) : Nat :=
  match j.args.md with
  | 3 => j.count / j.rec_.r * j.width
  | 8 => 0
  | 9 => 16384 * j.sigT
  | _ => j.count * j.width
/-- Bytes of the buffer. -/
def CollJoin.bytes (j : CollJoin) : Nat := j.parts * j.partBytes
/-- Segments of a part. -/
def CollJoin.segs (j : CollJoin) : Nat := if j.args.md = 8 then 1 else ceilDiv j.partBytes 65536
/-- The buffer offset of a segment. -/
def CollJoin.segAt (j : CollJoin) (p g : Nat) : Nat := p * j.partBytes + 65536 * g
/-- The bytes of a segment. -/
def CollJoin.segLen (j : CollJoin) (g : Nat) : Nat := Nat.min 65536 (j.partBytes - 65536 * g)
/-- Every segment of every part, ascending. -/
def CollJoin.keys (j : CollJoin) : List (Nat × Nat) :=
  (List.range j.parts).flatMap (fun p => (List.range j.segs).map (fun g => (p, g)))

/-- The name of a chunk: direction, part, destination, segment. -/
def chunkName (up : Bool) (part dst seg : Nat) : Nat := ((part * 256 + dst) * 2 ^ 44 + seg) * 2 + b2n up

/-- A reduction: its value goes up the tree and is combined (R297). -/
def isReduction (md : Nat) : Bool := decide (md < 5) || md == 8 || md == 9

/-- A step: a chunk, and the ranks of the hop it is sent to at once (R422). -/
structure CStep where
  up : Bool := false
  part : Nat := 0
  dst : Nat := 0
  seg : Nat := 0
  tos : List Nat := []
  deriving DecidableEq, Repr

/-- The name of the chunk of a step. -/
def CStep.name (t : CStep) : Nat := chunkName t.up t.part t.dst t.seg

/-- A step to one rank, where there is one. -/
def stepTo (up : Bool) (p d g : Nat) (dest_ : Option Nat) : List CStep :=
  match dest_ with
  | some k => [{ up := up, part := p, dst := d, seg := g, tos := [k] }]
  | none => []

/-- The chunks that the own rank sends for an instance (R427). -/
def CollJoin.steps (j : CollJoin) : List CStep :=
  let m := j.rec_
  let down (pg : Nat × Nat) : List CStep := if m.kids = [] then [] else [{ part := pg.1, seg := pg.2, tos := m.kids }]
  let up (pg : Nat × Nat) : List CStep := stepTo true pg.1 0 pg.2 m.parent
  match j.args.md with
  | 3 => j.keys.flatMap up ++ j.keys.flatMap (fun pg =>
      if pg.1 ≠ m.rank ∧ m.under m.rank pg.1 = true then stepTo false pg.1 0 pg.2 (m.hop pg.1) else [])
  | 4 => j.keys.flatMap up
  | 5 => (j.keys.filter (fun pg => m.under m.rank pg.1)).flatMap up ++ j.keys.flatMap down
  | 6 => j.keys.flatMap down
  | 7 => (List.range j.segs).flatMap (fun g => (List.range m.r).flatMap (fun a => (List.range m.r).flatMap (fun b =>
      if a ≠ b ∧ b ≠ m.rank ∧ m.onPath a b = true then stepTo false a b g (m.hop b) else [])))
  | _ => j.keys.flatMap up ++ j.keys.flatMap down

/-- The chunks that the own rank receives: the sender of the hop, and the chunk. -/
def CollJoin.receipts (j : CollJoin) : List (Nat × CStep) :=
  let m := j.rec_
  let ups : List (Nat × CStep) := j.keys.flatMap (fun pg => m.kids.map (fun u => (u, { up := true, part := pg.1, seg := pg.2 })))
  let downs : List (Nat × CStep) := match m.parent with
    | some p => j.keys.map (fun pg => (p, { part := pg.1, seg := pg.2 }))
    | none => []
  match j.args.md with
  | 3 => ups ++ downs.filter (fun e => m.under m.rank e.2.part)
  | 4 => ups
  | 5 => ups.filter (fun e => m.under e.1 e.2.part) ++ downs
  | 6 => downs
  | 7 => (List.range j.segs).flatMap (fun g => (List.range m.r).flatMap (fun a => (List.range m.r).flatMap (fun b =>
      if a ≠ b ∧ a ≠ m.rank ∧ m.onPath a b = true then
        match m.hop a with
        | some u => [(u, { part := a, dst := b, seg := g })]
        | none => []
      else [])))
  | _ => ups ++ downs

/-- The number of children of the own rank below a given one. -/
def Comm.kidIndex (m : Comm) (u : Nat) : Nat := (m.kids.filter (fun v => decide (v < u))).length

/-- A chunk has been taken. -/
def Coll.hasGot (i : Coll) (src : Nat) (t : CStep) : Bool :=
  if t.up && isReduction i.lead.args.md then decide (i.lead.rec_.kidIndex src < Map.get 0 i.got (chunkName true t.part 0 t.seg))
  else (Map.find i.have_ t.name).isSome


/-! ## The engine's accesses -/

/-- The fields that the engine's accesses use. -/
def Coll.eng (i : Coll) : Copy := { ctx := i.ctx, core := i.lead.core, die := dieOfCore i.lead.core, scrBase := i.scrBase }

/-- Puts an instance. -/
def State.putColl (s : State) (k : Nat) (i : Coll) : State := { s with colls := s.colls.put k i }

/-- Bytes as the engine reads them, or the cause that ends the collective (R299). -/
def State.engRead (s : State) (c : Copy) (va : Nat) (w : Want) : Nat → Except Nat (List Byte)
  | 0 => .ok []
  | n + 1 =>
    match s.copyPlace c va w with
    | .ok p =>
      let r := s.performAt 0 c.who .load 0#32 { place := p, size := 1 }
      if r.bad && w == .rd then .error cData
      else
        match s.engRead c (va + 1) w n with
        | .ok t => .ok (BitVec.ofNat 8 r.val :: t)
        | .error e => .error e
    | .missing _ => .error cPage
    | .cause e => .error e

/-- The line and the location code of the first byte of a range that reads as uncorrectable (R402, R406). -/
def State.badAt (s : State) (c : Copy) (va : Nat) : Nat → Nat × Nat
  | 0 => (0, 4)
  | n + 1 =>
    match s.copyPlace c va .rd with
    | .ok p => if (s.performAt 0 c.who .load 0#32 { place := p, size := 1 }).bad then s.errAt c.ctx p else s.badAt c (va + 1) n
    | _ => s.badAt c (va + 1) n

/-- Bytes written by the engine, once every place of them is known to be writable. -/
def State.engWrite (s : State) (c : Copy) (va : Nat) : List Byte → State
  | [] => s
  | b :: t =>
    (match s.copyPlace c va .wr with
     | .ok p => (s.performAt 0 c.who .store 0#32 { place := p, size := 1, x := b.toNat }).st
     | _ => s).engWrite c (va + 1) t

/-- Every line of a range can be served now (R382, R100). -/
def State.engServed (s : State) (c : Copy) (va n : Nat) : Bool :=
  (List.range n).all (fun i => match s.copyPlace c (va + i) .rd with
    | .ok p => s.served c.ctx { place := p, size := 1 }
    | _ => true)

/-- The bytes of tiles from a base. -/
def State.tileBytes (s : State) (core slot : Nat) (wide : Bool) (z n : Nat) : List Byte :=
  (List.range n).flatMap (fun t => (List.range 4096).flatMap (fun e =>
    leBytes 4 (Map.get 0#32 s.tiles (tileKey core slot wide (z + t) e)).toNat))

/-- An element of a run of tiles carries its error bit. -/
def State.tilesBad (s : State) (core slot : Nat) (wide : Bool) (z n : Nat) : Bool :=
  s.tileErr.any (fun k => (List.range n).any (fun t =>
    let lo := tileKey core slot wide (z + t) 0
    decide (lo ≤ k) && decide (k < lo + 4096)))

/-- The own value of a segment. -/
def State.ownSeg (s : State) (i : Coll) (p g : Nat) : Except Nat (List Byte) :=
  let j := i.lead
  if j.args.md = 8 then .ok []
  else if j.args.til then .ok ((i.own.drop (j.segAt p g)).take (j.segLen g))
  else s.engRead i.eng (j.buf + j.segAt p g) .rd (j.segLen g)

/-- A segment is written to the buffer, or kept for the tile; none where a cause ends the collective. -/
def State.writeSeg (s : State) (i : Coll) (p g : Nat) (bs : List Byte) : Except Nat (State × Coll) :=
  let j := i.lead
  let o := j.segAt p g
  if bs = [] then .ok (s, i)
  else if j.args.til then .ok (s, { i with out := i.out.put o bs })
  else
    match s.engRead i.eng (j.buf + o) .wr bs.length with
    | .ok old => .ok (s.engWrite i.eng (j.buf + o) bs, { i with old := i.old.put o old })
    | .error e => .error e

/-! ## Combination (R297) -/

/-- Elements of w bytes combined in pairs; the function also takes the element's index. -/
def zipElems (w : Nat) (f : Nat → Nat → Nat → Nat) : Nat → Nat → List Byte → List Byte → List Byte
  | 0, _, _, _ => []
  | n + 1, i, x, y => leBytes w (f i (leNat (x.take w)) (leNat (y.take w))) ++ zipElems w f n (i + 1) (x.drop w) (y.drop w)

/-- A free 32-bit value. -/
def freeWord (n : Nat) : W32 := maskOf (fun l => Config.freeChoice (n + l))

/-- One element: `add`, `min` or `max`. A stochastic rounding takes a free draw: the spec names no generator. -/
def CollJoin.combine (j : CollJoin) (free i x y : Nat) : Nat :=
  let t := j.args.ty
  match j.args.md with
  | 1 => if tyIsInt t then iMin t x y else (fMinMax false t (fmtFZ j.fmt) x y).1
  | 2 => if tyIsInt t then iMax t x y else (fMinMax true t (fmtFZ j.fmt) x y).1
  | _ => if tyIsInt t then iAdd t x y else (fAdd ⟨t, modeOf j.args.rm j.fmt, fmtFZ j.fmt, freeWord (free + 32 * i)⟩ x y).bits

/-- The 32-bit words of a list of bytes. -/
def wordsOf : Nat → List Byte → List Nat
  | 0, _ => []
  | n + 1, bs => leNat (bs.take 4) :: wordsOf n (bs.drop 4)

/-- Signatures joined, the first on the left, each element rounded to nearest even (R329). -/
def CollJoin.sigJoin (j : CollJoin) (a b : List Byte) : List Byte :=
  let n := 4096 * j.sigT
  let wa := wordsOf n a
  let wb := wordsOf n b
  let fz := fmtFZ j.fmt
  let idx (k p : Nat) : Nat := let z := sigPlace j.sigdim k p; 4096 * z.1 + z.2
  let v (ws : List Nat) (k p : Nat) : Val := decodeVal .f32 fz (ws.getD (idx k p) 0)
  ((sigIndices j.sigdim j.sigdepth).foldl (fun (ws : List Nat) kp =>
    ws.set (idx kp.1 kp.2) (roundVal .f32 .rne fz 0#32 (sigjElem (v wa) (v wb) j.sigdim kp.1 kp.2)).bits) wa).flatMap (leBytes 4)

/-! ## Issue (R284, R293 to R296, R299) -/

/-- What a chunk of b bytes on the hop to a peer would charge, read from a virtual range (R299). -/
def State.chunkCosts (s : State) (c die comm : Nat) (m : Comm) (dest_ b : Nat) (src : Int × Int) : Costs :=
  match s.peerOf c m dest_ with
  | .remote _ port hops _ =>
    let f := (Map.get 0#64 (s.ctx c).ffab port).toNat
    [⟨.fabric port (8 + comm), if f = 0 then noService else 1200 * hops + ceilDiv b f, f⟩]
  | .here c2 k2 =>
    let base : Nat := match s.readComm c2 k2 with | some n => n.slotBase + 524288 * m.rank | none => 0
    s.moveCosts c die (s.endOf die c c src) (s.endOf die c c2 ((base : Int), ((base + 65536 : Nat) : Int))) b
  | .none => []

/-- The ranks to which the own rank sends chunks of a kind. -/
def CollJoin.sendsTo (j : CollJoin) : List Nat :=
  let m := j.rec_
  let up := match m.parent with | some p => [p] | none => []
  match j.args.md with
  | 4 => up
  | 6 => m.kids
  | _ => up ++ m.kids

/-- The price of a `coll`: its largest chunk on each first hop (R299). -/
def State.collPrice (s : State) (c die : Nat) (j : CollJoin) : Costs :=
  let b := if j.args.md = 8 then 128 else Nat.min 65536 j.bytes
  let src : Int × Int := if j.args.til then (0, 0) else ((j.buf : Int), ((j.buf + b : Nat) : Int))
  j.sendsTo.flatMap (fun dest_ => s.chunkCosts c die j.comm j.rec_ dest_ b src)

/-- A broken limit of R293 or R329. -/
def CollJoin.broken (j : CollJoin) (wide : Bool) : Bool :=
  (j.args.md == 3 && j.count % j.rec_.r != 0) ||
  (j.args.md == 9 && (j.args.sc != 0 || decide (16 < j.sigT) || decide ((if wide then 32 else 16) < j.args.zt + j.sigT) || !j.rec_.ordered)) ||
  (j.args.til && j.args.md != 9 && decide (16384 < (if j.args.md = 5 ∨ j.args.md = 7 then j.rec_.r else 1) * j.count * j.width))

/-- The causes of the barrier object (R295). -/
def objectCause (va scr : Nat) : Option Nat :=
  if 2 ^ 57 ≤ va ∨ inScratch va = false then some cProt
  else if va % 16 ≠ 0 then some cMisal
  else if scr < apOff va + 16 then some cScr
  else none

/-- What an instruction and its group give to an instance, the record of its communicator read. -/
def State.collJoinOf (s : State) (x : Group) (a : AArgs) (m : Comm) : CollJoin :=
  { group := s.cur, gid := x.gid, seq := x.seq, args := a, comm := (x.sr a.sb).toNat, rec_ := m, buf := (x.sr a.sa).toNat
    count := (x.sr a.sc).toNat, fmt := x.fmt, sigdim := x.sigdim, sigdepth := x.sigdepth, core := x.core, slot := x.slot
    pc := x.pc.toNat, rgn := x.rgnWord }

/-- The causes of `coll` in the order of R296, or what it gives. -/
def State.collCheck (s : State) (x : Group) (a : AArgs) : Except Nat CollJoin :=
  let b := s.blockOf x
  match s.readComm x.ctx (x.sr a.sb).toNat with
    | none => .error cMalf
    | some m =>
      let j := s.collJoinOf x a m
      if !m.valid || !(s.commClean x.ctx (x.sr a.sb).toNat m) || m.kdesc != (s.lau x.launch).lr.kdesc || m.bid != b.bid || j.broken b.wide then .error cMalf
      else
        match objectCause (x.sr a.ss).toNat (s.scrSize x) with
        | some e => .error e
        | none =>
          if a.til ∨ a.md = 8 then .ok j
          else
            match rangesCause (s.scrSize x) [((j.buf : Int), ((j.buf + j.bytes : Nat) : Int))] with
            | some e => .error e
            | none => .ok j

/-- The object's 16 bytes as they stand at a place. -/
def State.objNow (s : State) (core off : Nat) : Nat := s.scrRead core off 16

/-- A field of the object's 16 bytes. -/
def objField (w off n : Nat) : Nat := w / 2 ^ (8 * off) % 2 ^ (8 * n)

/-- A place as an instance knows it, after the engine has written a field of the object that lies at `core` and `at_`. -/
def objSeen (core at_ off n v : Nat) (q : Nat × Nat × Nat) : Nat × Nat × Nat :=
  if q.1 = core ∧ q.2.1 = at_ then (q.1, q.2.1, q.2.2 - objField q.2.2 off n * 2 ^ (8 * off) + v * 2 ^ (8 * off)) else q

/-- The engine writes a field of the object at one place. Where the program has written it since the engine last did, it
holds either value afterwards (R295). Every instance of the object sees the write as the engine's. -/
def State.objPut (s : State) (p : Nat × Nat × Nat) (off n v : Nat) : State × (Nat × Nat × Nat) :=
  let keep : Bool := objField (s.objNow p.1 p.2.1) off n != objField p.2.2 off n && Config.freeChoice s.freeCtr
  let s1 := { s with freeCtr := s.freeCtr + 1 }
  let s2 := if keep then s1 else s1.scrWrite p.1 (p.2.1 + off) (leBytes n v)
  let seen := objSeen p.1 p.2.1 off n (objField (s2.objNow p.1 p.2.1) off n)
  ({ s2 with colls := s2.colls.each (fun i => { i with places := i.places.map seen }) }, seen p)

/-- The engine writes a field of the barrier object, on each core of the block. -/
def State.objWrite (s : State) (i : Coll) (off n v : Nat) : State × Coll :=
  let (s1, ps) := i.places.foldl (fun (a : State × List (Nat × Nat × Nat)) p =>
    let (t, q) := a.1.objPut p off n v
    (t, a.2 ++ [q])) (s, [])
  (s1, { i with places := ps })

/-- The object on each core of a block. -/
def State.objPlaces (s : State) (x : Group) (obj : Nat) : List (Nat × Nat × Nat) :=
  let b := s.blockOf x
  (List.range b.span).map (fun n =>
    let core := b.core0 + n
    let off := s.scrOff { x with core := core } obj
    (core, off, s.objNow core off))

/-- The watch hits of the bytes a collective writes here (R438). -/
def State.collHits (s : State) (x : Group) (j : CollJoin) : List Hit :=
  let m := j.rec_
  let r : Nat × Nat := match j.args.md with
    | 3 => (m.rank * j.partBytes, j.partBytes)
    | 4 => (0, if m.rank = m.root then j.bytes else 0)
    | 6 => (0, if m.rank = m.root then 0 else j.bytes)
    | _ => (0, j.bytes)
  if j.args.til ∨ r.2 = 0 then []
  else (s.ctx x.ctx).hitsOf 61 (s.hitBase s.cur x 4 j.pc 0 false) [(0, j.buf + r.1, r.2)]

/-- A group joins instance n of the object, n the number of its earlier `coll`s naming it (R294); its handle is written
and it enters the K counter. -/
def State.joinColl (s : State) (x : Group) (a : AArgs) (j0 : CollJoin) : State :=
  let obj := apOff (x.sr a.ss).toNat
  let n := Map.get 0 x.collN obj
  let id := s.clock + 1
  let j := { j0 with opId := id, hseq := x.hseq, watch := s.collHits x j0 }
  let found := s.colls.find? (fun kv => kv.2.block == x.block && kv.2.obj == obj && kv.2.inst == n && !kv.2.started)
  let k := match found with | some kv => kv.1 | none => s.colls.fresh
  let i0 : Coll := match found with
    | some kv => kv.2
    | none => { ctx := x.ctx, launch := x.launch, block := x.block, obj := obj, places := s.objPlaces x obj, inst := n
                wide := (s.blockOf x).wide }
  let i1 := { i0 with joined := i0.joined ++ [j] }
  let (s1, i2) := s.objWrite i1 8 4 i1.joined.length
  let y := ({ x with hseq := x.hseq + 1, handles := x.handles.put x.hseq ⟨2, k, 0⟩, collN := x.collN.put obj (n + 1) }).enter .k id
  ({ s1 with clock := id }.putColl k i2).setGrp s.cur (y.setSr a.sd (handleWord 2 (s.lau x.launch).lid x.gid x.hseq)).adv

/-- A `coll` names a tile register that its group does not have (R143). -/
def State.collRange (s : State) (a : AArgs) (x : Group) : Option Nat :=
  if a.til ∧ (if (s.blockOf x).wide then 32 else 16) ≤ a.zt then some cRange else none

/-- `coll` (R293): its causes, its price against the bound, the counter, the join. The scalar thread waits until the queued
lane instructions that access memory have issued (R85, log 37). -/
def execColl (a : AArgs) (s : State) : Out :=
  scalarGoIf s (s.collRange a) [a.sa, a.sb, a.sc, a.ss] [a.sd] [] (fun x =>
    if s.memQueued x then s
    else
      match s.collCheck x a with
      | .error e => s.trapGroup s.cur e
      | .ok j =>
        if (s.ctx x.ctx).checkBound - 700 < (s.collPrice x.ctx (dieOfCore x.core) j).top then s.trapGroup s.cur cVlarge
        else if 31 ≤ x.count .k then s
        else s.joinColl x a j)

/-! ## The start of an instance (R294) -/

/-- The joined group with the lowest `%gid`. -/
def Coll.leader (i : Coll) : Option CollJoin :=
  i.joined.foldl (fun (b : Option CollJoin) j =>
    match b with
    | some k => if j.gid < k.gid then some j else b
    | none => some j) none

/-- Every group of the block that has not ended has joined, and what the joined groups wrote before is performed. -/
def State.collReady (s : State) (i : Coll) : Bool :=
  s.groups.all (fun kv => kv.2.block != i.block || kv.2.launch != i.launch || kv.2.residence == .ended ||
    i.joined.any (fun j => j.group == kv.1)) &&
  i.joined.all (fun j => (s.grp j.group).pend.all (fun p => decide (j.seq ≤ p.seq)))

/-- COLL_INSTANCE_START (R294, R295): the leader's fields govern; ARR is reset; a tile operand is read. -/
def execCollInstanceStart (k : Nat) (s : State) : Out :=
  .next (match Map.find s.colls k with
    | none => s
    | some i =>
      match i.leader with
      | none => s
      | some j =>
        if i.started || !(s.collReady i) || (s.ctx i.ctx).st != .running then s
        else
          let c := s.ctx i.ctx
          let n := Map.get 0 c.commSeq j.comm
          let tiles := if j.args.md = 9 then j.sigT else 1
          let i1 := { i with
            started := true, lead := j, seqNo := n, scrBase := s.scrOff (s.grp j.group) 0
            own := if j.args.til then s.tileBytes j.core j.slot i.wide j.args.zt tiles else []
            failed := if j.args.til && s.tilesBad j.core j.slot i.wide j.args.zt tiles then some cData else none }
          let x := s.lau i.launch
          let s1 := (s.setCtx i.ctx { c with commSeq := c.commSeq.put j.comm (n + 1) }).setLau i.launch { x with collComms := j.comm :: x.collComms }
          let s0 := if i1.failed.isSome then s1.post i.ctx .fault 4 cData x.lid j.gid 0 7 else s1
          let (s2, i2) := s0.objWrite i1 8 4 0
          s2.putColl k i2)

/-! ## Slots (R421, R423) -/

/-- The counter block entry of a peer. -/
def Comm.counter (m : Comm) (k : Nat) : Nat := m.slotBase + 524288 * m.r + 8 * k

/-- A slot of a peer is free to be written (R421). -/
def State.slotFree (s : State) (c comm : Nat) (m : Comm) (k : Nat) : Bool :=
  let sent := s.vRead c (m.counter k) 4
  let freed := Map.get 0 (s.ctx c).notified (256 * comm + k)
  decide ((sent + 2 ^ 32 - freed % 2 ^ 32) % 2 ^ 32 < 8)

/-- The chunks that wait in the slots of a sender. -/
def State.waiting (s : State) (c comm src : Nat) : List SlotChunk :=
  s.slotChunks.filter (fun w => w.ctx == c && w.comm == comm && w.src == src)

/-- The slot where the next chunk of a sender goes: chunks arrive in slots 0 to 7 in turn. -/
def State.nextSlot (s : State) (c comm : Nat) (m : Comm) (src : Nat) : Nat :=
  let n := s.vRead c (m.counter src + 4) 4 + (s.waiting c comm src).length
  m.slotBase + 524288 * src + 65536 * (n % 8)

/-- A chunk is stored in its slot. -/
def State.storeChunk (s : State) (c comm : Nat) (m : Comm) (src : Nat) (msg : Chunk) : State :=
  let s1 := s.vWriteBytes c (s.nextSlot c comm m src) msg.data
  { s1 with slotChunks := s1.slotChunks ++ [{ ctx := c, comm := comm, src := src, msg := msg }] }

/-- A sent chunk of an instance has arrived: its charge is released; at the root the slot that held the result is
released once nothing sent from it is on its way. Answers the ranks whose slots are to be released. -/
def State.arriveSent (s : State) (k name dst : Nat) : State × List Nat :=
  match Map.find s.colls k with
  | none => (s, [])
  | some i =>
    match i.sent.find? (fun e => e.key == name && e.dst == dst && !e.arrived) with
    | none => (s, [])
    | some e =>
      let sent := i.sent.map (fun f => if f.key = name ∧ f.dst = dst then { f with arrived := true } else f)
      let still := sent.any (fun f => f.key == name && !f.arrived)
      let hs := i.held.filter (fun h => h.1 == name)
      let s1 := (s.release i.ctx e.charge).putColl k { i with sent := sent, held := if still then i.held else i.held.filter (fun h => h.1 != name) }
      (s1, if still then [] else hs.map (fun h => h.2))

/-- The oldest chunk on its way to a rank of a communicator. -/
def State.oldestSent (s : State) (c comm dst : Nat) : Option (Nat × Nat) :=
  let go := s.colls.foldl (fun (b : Option (Nat × Nat × Nat)) kv =>
    let i := kv.2
    if i.started && i.ctx == c && i.lead.comm == comm then
      match i.sent.find? (fun e => e.dst == dst && !e.arrived) with
      | some e => (match b with
        | some (q, _, _) => if i.seqNo < q then some (i.seqNo, kv.1, e.key) else b
        | none => some (i.seqNo, kv.1, e.key))
      | none => b
    else b) none
  go.map (fun b => b.2)

/-- One more slot is known to be free at a peer, whose oldest chunk on its way has then arrived; the ranks whose slots
are to be released in turn. -/
def State.noteFreed (s : State) (c comm src : Nat) : State × List Nat :=
  let x := s.ctx c
  let key := 256 * comm + src
  let s1 := s.setCtx c { x with notified := x.notified.put key ((Map.get 0 x.notified key + 1) % 2 ^ 32) }
  match s1.oldestSent c comm src with
  | some (k, name) => s1.arriveSent k name src
  | none => (s1, [])

/-- A packet without data goes to a device on a virtual channel: a slot release or a fail notice (R412, R414). -/
def State.sendNotice (s : State) (dev port vc op addr arg : Nat) : State :=
  let key := 16 * dev + vc
  let e2e := (Map.get 0 s.e2eNext key + 1) % 65536
  { s with e2eNext := s.e2eNext.put key e2e }.sendReq
    { dst := dev, vc := vc, e2e := e2e, port := port, req := { op := op, src := s.devid.toNat % 4096, e2e := e2e, addr := addr, arg := arg } }

/-- A slot of a sender is released: FREED counts it, and a notice goes to the sender (R423). A sender on this device
learns it at once. -/
def State.releaseSlot (s : State) (c comm : Nat) (m : Comm) (src : Nat) : Nat → State
  | 0 => s
  | n + 1 =>
    let a := m.counter src + 4
    let s1 := s.vWrite c a 4 ((s.vRead c a 4 + 1) % 2 ^ 32)
    match s1.peerOf c m src with
    | .here c2 k2 =>
      let (s2, more) := s1.noteFreed c2 k2 m.rank
      (match s2.readComm c2 k2 with
       | some m2 => more.foldl (fun t r => t.releaseSlot c2 k2 m2 r n) s2
       | none => s2)
    | .remote dev port _ index => s1.sendNotice dev port (8 + comm) 4 (dev * 2 ^ 40 + index * 65536) (m.rank + 256 * comm)
    | .none => s1

/-- A chunk of a sent step has arrived at its receiver (R298). -/
def State.chunkArrived (s : State) (k name dst : Nat) : State :=
  match Map.find s.colls k with
  | none => s
  | some i =>
    let (s1, more) := s.arriveSent k name dst
    more.foldl (fun t r => t.releaseSlot i.ctx i.lead.comm i.lead.rec_ r 4) s1

/-- Takes the head of a sender's chunks out of its slot. -/
def State.dropHead (s : State) (c comm src : Nat) : State :=
  let rec go : List SlotChunk → List SlotChunk
    | [] => []
    | w :: t => if w.ctx == c && w.comm == comm && w.src == src then t else w :: go t
  { s with slotChunks := go s.slotChunks }

/-- The open instance of a number in a communicator. -/
def State.instOf (s : State) (c comm n : Nat) : Option Nat :=
  (s.colls.find? (fun kv => kv.2.started && kv.2.ctx == c && kv.2.lead.comm == comm && kv.2.seqNo == n)).map (fun kv => kv.1)

/-- The instance of a number has ended here. -/
def State.instOver (s : State) (c comm n : Nat) : Bool :=
  decide (n < Map.get 0 (s.ctx c).commSeq comm) && (s.instOf c comm n).isNone

/-- The chunks at the head of a sender's slots whose instance has ended here, by failure, are dropped and their slots
released (R423). -/
def State.drain (s : State) (c comm : Nat) (m : Comm) (src : Nat) : State :=
  let dead := (s.waiting c comm src).takeWhile (fun w => s.instOver c comm w.msg.inst)
  dead.foldl (fun t _ => (t.dropHead c comm src).releaseSlot c comm m src 4) s

/-- A chunk that has arrived is stored, and dropped at once where its instance has ended here. -/
def State.takeIn (s : State) (c comm : Nat) (m : Comm) (src : Nat) (msg : Chunk) : State := (s.storeChunk c comm m src msg).drain c comm m src

/-! ## Departure (R422, R425, R428) -/

/-- The data of a step, once it is at hand; none before, an error where a cause ends the collective. -/
def State.stepData (s : State) (i : Coll) (t : CStep) : Option (Except Nat (List Byte)) :=
  let j := i.lead
  let m := j.rec_
  let own : Option (Except Nat (List Byte)) := some (s.ownSeg i t.part t.seg)
  let recv (up : Bool) (d : Nat) : Option (Except Nat (List Byte)) := (Map.find i.have_ (chunkName up t.part d t.seg)).map Except.ok
  let key := chunkName true t.part 0 t.seg
  let full := if j.args.md = 9 then chunkName true 0 0 (j.segs - 1) else key
  let reduced : Option (Except Nat (List Byte)) :=
    if Map.get 0 i.got full = m.kids.length then
      (match Map.find i.red key with
       | some bs => some (.ok bs)
       | none => own)
    else none
  match j.args.md with
  | 5 => if t.up then (if t.part = m.rank then own else recv true 0)
         else if m.rank = m.root then (if t.part = m.rank then own else recv true 0) else recv false 0
  | 6 => if m.rank = m.root then own else recv false 0
  | 7 => if t.part = m.rank then some (s.ownSeg i t.dst t.seg) else recv false t.dst
  | _ => if t.up then reduced else if m.rank = m.root then reduced else recv false 0

/-- An earlier instance of the communicator still has a chunk to send to a rank. Instances keep their order on each hop,
which keeps every chain of waits ending at a chunk that can move (R424). DEDUCED. -/
def State.earlierSends (s : State) (i : Coll) (dest_ : Nat) : Bool :=
  s.colls.any (fun kv =>
    let e := kv.2
    e.started && e.failed.isNone && e.ctx == i.ctx && e.lead.comm == i.lead.comm && decide (e.seqNo < i.seqNo) &&
      e.lead.steps.any (fun t => t.tos.contains dest_ && !(e.sent.any (fun f => f.key == t.name))))

/-- The next step that an instance can send: not sent, its data at hand, every slot it needs free (R422, R428). -/
def State.nextStep (s : State) (i : Coll) : Option CStep :=
  if !i.started || i.failed.isSome || (s.ctx i.ctx).st != .running then none
  else
    i.lead.steps.find? (fun t => !(i.sent.any (fun e => e.key == t.name)) && (s.stepData i t).isSome &&
      t.tos.all (fun dest_ => s.slotFree i.ctx i.lead.comm i.lead.rec_ dest_ && !(s.earlierSends i dest_)))

/-- The engine of a die prefers one instance's communicator to another's (R425). -/
def State.prefers (s : State) (a b : Coll) : Bool :=
  let last (i : Coll) : Nat := Map.get 0 (s.ctx i.ctx).commLast i.lead.comm
  if a.lead.rec_.prio ≠ b.lead.rec_.prio then decide (b.lead.rec_.prio < a.lead.rec_.prio)
  else if last a ≠ last b then decide (last a < last b)
  else if a.ctx ≠ b.ctx then decide (a.ctx < b.ctx)
  else if a.lead.comm ≠ b.lead.comm then decide (a.lead.comm < b.lead.comm)
  else decide (a.seqNo < b.seqNo)

/-- The virtual range that a chunk is read from: the buffer, or the slot of a forwarded or reduced segment (R299). -/
def Coll.readFrom (i : Coll) (t : CStep) : Int × Int :=
  let j := i.lead
  let m := j.rec_
  let slot (r : Nat) : Int × Int := (((m.slotBase + 524288 * r : Nat) : Int), ((m.slotBase + 524288 * r + 65536 : Nat) : Int))
  let ownRange : Int × Int := if j.args.til ∨ j.args.md = 8 then (0, 0) else
    let p := if j.args.md = 7 then t.dst else t.part
    (((j.buf + j.segAt p t.seg : Nat) : Int), ((j.buf + j.segAt p t.seg + j.segLen t.seg : Nat) : Int))
  if isReduction j.args.md && (t.up || m.rank == m.root) then (match m.kids.getLast? with | some u => slot u | none => ownRange)
  else if (Map.find i.have_ t.name).isSome || (Map.find i.have_ (chunkName true t.part 0 t.seg)).isSome then
    (match m.parent with | some p => slot p | none => slot (m.kids.headD 0))
  else ownRange

/-- The part of the buffer that holds the own data of a step. -/
def Coll.ownPart (i : Coll) (t : CStep) : Nat := if i.lead.args.md = 7 then t.dst else t.part

/-- The lines of the buffer that a step may read can be served now (R382, R407). -/
def State.stepServed (s : State) (i : Coll) (t : CStep) : Bool :=
  let j := i.lead
  j.args.til || j.args.md == 8 || s.engServed i.eng (j.buf + j.segAt (i.ownPart t) t.seg) (j.segLen t.seg)

/-- The record of uncorrectable data in the own value of a segment (R299, R406). -/
def State.postSeg (s : State) (i : Coll) (p g e : Nat) : State :=
  let j := i.lead
  if e = cData then
    let b := s.badAt i.eng (j.buf + j.segAt p g) (j.segLen g)
    s.post i.ctx .fault 4 cData (s.lau i.launch).lid j.gid b.1 b.2
  else s

/-- One chunk leaves: it takes its slot, is charged, and is on its way; to a rank of this device it is copied at once. None
where it does not fit. -/
def State.sendChunk (s : State) (k : Nat) (i : Coll) (t : CStep) (data : List Byte) (dest_ : Nat) : Option State :=
  let j := i.lead
  let m := j.rec_
  let b := if j.args.md = 8 then 128 else data.length
  let msg : Chunk := ⟨i.seqNo, t.up, t.part, t.seg, t.dst, j.check, data⟩
  let cs := s.chunkCosts i.ctx (dieOfCore j.core) j.comm m dest_ b (i.readFrom t)
  let count (u : State) : State := u.vWrite i.ctx (m.counter dest_) 4 ((u.vRead i.ctx (m.counter dest_) 4 + 1) % 2 ^ 32)
  let note (u : State) (charge : Nat) (arrived : Bool) : State :=
    let i1 := Map.get i u.colls k
    u.putColl k { i1 with sent := i1.sent ++ [⟨t.name, dest_, charge, arrived⟩] }
  if s.issueCheck i.ctx false true cs != .ok then none
  else
    match s.peerOf i.ctx m dest_ with
    | .none => none
    | .here c2 k2 =>
      (match s.readComm c2 k2 with
       | some m2 =>
         if s.vMapped c2 (s.nextSlot c2 k2 m2 m.rank) data.length then
           some (note (((count s).chargeNow i.ctx cs).takeIn c2 k2 m2 m.rank msg) 0 true)
         else none
       | none => none)
    | .remote dev port _ index =>
      let id := s.clock + 1
      let sent := s.vRead i.ctx (m.counter dest_) 4
      let vc := 8 + j.comm
      let key := 16 * dev + vc
      let e2e := (Map.get 0 s.e2eNext key + ceilDiv b 128) % 65536
      let req : FReq := { op := 3, src := s.devid.toNat % 4096, e2e := e2e, data := data
                          addr := dev * 2 ^ 40 + (index + 8 * m.rank + sent % 8) * 65536 }
      let s1 := count ({ (s.addCharges i.ctx id cs) with clock := id, e2eNext := s.e2eNext.put key e2e })
      some (note (s1.sendReq { dst := dev, vc := vc, e2e := e2e, port := port, req := req, coll := some (k, t.name, dest_) }) id false)

/-- The chunks of a step leave together, or none does (R422). -/
def State.sendAll (s : State) (k : Nat) (i : Coll) (t : CStep) (data : List Byte) : List Nat → Option State
  | [] => some s
  | dest_ :: rest =>
    match s.sendChunk k i t data dest_ with
    | some s1 => s1.sendAll k i t data rest
    | none => none

/-- CHUNK_DEPART (R299, R422, R425): the next step of an instance, where its engine prefers no other that could go. A
step to a rank that cannot be reached ends the collective. -/
def execChunkDepart (k : Nat) (s : State) : Out :=
  .next (match Map.find s.colls k with
    | none => s
    | some i =>
      match s.nextStep i with
      | none => s
      | some t =>
        if s.colls.any (fun kv => kv.1 != k && dieOfCore kv.2.lead.core == dieOfCore i.lead.core && (s.nextStep kv.2).isSome && s.prefers kv.2 i) then s
        else if t.tos.any (fun dest_ => s.peerOf i.ctx i.lead.rec_ dest_ == .none) then s.putColl k { i with failed := some 1 }
        else
          if !(s.stepServed i t) then s
          else match s.stepData i t with
          | some (.ok bs) =>
            (match s.sendAll k i t bs t.tos with
             | some s1 =>
               let c := s1.ctx i.ctx
               { s1.setCtx i.ctx { c with commLast := c.commLast.put i.lead.comm (s1.clock + 1) } with clock := s1.clock + 1 }
             | none => s)
          | some (.error e) => (s.postSeg i (i.ownPart t) t.seg e).putColl k { i with failed := some e }
          | none => s)

/-! ## Arrival and combination (R419, R423, R297) -/

/-- A virtual channel pauses on a port for a missing page (R419). -/
def State.pauseVc (s : State) (port vc c page : Nat) : State :=
  let p := Map.get {} s.ports port
  match Map.find p.paused vc with
  | some _ => s
  | none =>
    { (s.post c .fault 6 0 0xFFFF 0xFFFF page (port + 16 * vc)) with ports := s.ports.put port { p with paused := p.paused.put vc (page, c) } }

/-- The first page of a range that is not mapped. -/
def State.firstMissing (s : State) (c va : Nat) : Nat → Nat
  | 0 => va / 65536 * 65536
  | n + 1 => if (s.ctxPa c va).isSome then s.firstMissing c (va + 1) n else va / 65536 * 65536

/-- CHUNK_ARRIVE (R421, R423, R419): a chunk from a rank on another device reaches its slot; a page that is missing pauses
its channel; while the channel is paused nothing of it is delivered. -/
def execChunkArrive (c comm src : Nat) (msg : Chunk) (s : State) : Out :=
  .next (match s.readComm c comm with
    | none => s
    | some m =>
      match s.peerOf c m src with
      | .remote _ port _ _ =>
        if (Map.find (Map.get {} s.ports port).paused (8 + comm)).isSome then s
        else if 8 ≤ (s.waiting c comm src).length ∨ 65536 < msg.data.length then s
        else
          let a := s.nextSlot c comm m src
          if s.vMapped c a msg.data.length then s.takeIn c comm m src msg
          else s.pauseVc port (8 + comm) c (s.firstMissing c a msg.data.length)
      | _ => s)

/-- A chunk's turn has come (R297): children ascending in a reduction; in `alltoall` once what stood there has been sent. -/
def Coll.turn (i : Coll) (src : Nat) (msg : Chunk) : Bool :=
  let md := i.lead.args.md
  if msg.up && isReduction md then Map.get 0 i.got (chunkName true msg.part 0 msg.seg) == i.lead.rec_.kidIndex src
  else if md = 7 ∧ msg.dst = i.lead.rec_.rank then i.sent.any (fun e => e.key == chunkName false msg.dst msg.part msg.seg)
  else true

/-- An error of a step of the engine ends the collective. -/
def State.failWith (s : State) (k : Nat) (i : Coll) (e : Nat) : State := s.putColl k { i with failed := some e }

/-- The name of the down chunk that the root sends from the slot of a segment's last child, if any. -/
def Coll.heldName (i : Coll) (part seg : Nat) : Option Nat :=
  let m := i.lead.rec_
  let n := chunkName false part 0 seg
  if m.rank = m.root && (decide (i.lead.args.md < 3) || i.lead.args.md == 9 || (i.lead.args.md == 3 && part != m.rank)) then some n else none

/-- The root's result of a segment is written where its kind says (R293, R427). -/
def State.rootWrite (s : State) (i : Coll) (part seg : Nat) (bs : List Byte) : Except Nat (State × Coll) :=
  if i.lead.args.md = 3 ∧ part ≠ i.lead.rec_.rank then .ok (s, i) else s.writeSeg i part seg bs

/-- A child's chunk combined into the own value (R297). -/
def State.combineUp (s : State) (k : Nat) (i : Coll) (src : Nat) (msg : Chunk) : State :=
  let j := i.lead
  let m := j.rec_
  let key := chunkName true msg.part 0 msg.seg
  let n := Map.get 0 i.got key + 1
  let cur : Except Nat (List Byte) := match Map.find i.red key with
    | some bs => .ok bs
    | none => s.ownSeg i msg.part msg.seg
  match cur with
  | .error e => (s.postSeg i msg.part msg.seg e).failWith k i e
  | .ok bs =>
    let w := j.width
    let v := if j.args.md = 8 then [] else zipElems w (j.combine s.freeCtr) (bs.length / w) 0 bs msg.data
    let i1 := { i with red := i.red.put key v, got := i.got.put key n }
    let s1 := { (s.dropHead i.ctx j.comm src) with freeCtr := s.freeCtr + 32 * (bs.length / w) }
    let last : Bool := n == m.kids.length && m.rank == m.root
    match (if last then s1.rootWrite i1 msg.part msg.seg v else .ok (s1, i1)) with
    | .error e => s.failWith k i e
    | .ok (s2, i2) =>
      match (if last then i2.heldName msg.part msg.seg else none) with
      | some h => s2.putColl k { i2 with held := (h, src) :: i2.held }
      | none => (s2.putColl k i2).releaseSlot i.ctx j.comm m src 4

/-- Splits whole signature data into its segments, by name. -/
def CollJoin.split (j : CollJoin) (bs : List Byte) : Map (List Byte) :=
  (List.range j.segs).foldl (fun mp g => Map.put mp (chunkName true 0 0 g) ((bs.drop (65536 * g)).take (j.segLen g))) []

/-- A segment of a child's signature: kept until all have come, then joined on the right (R297, R329). -/
def State.combineSig (s : State) (k : Nat) (i : Coll) (src : Nat) (msg : Chunk) : State :=
  let j := i.lead
  let m := j.rec_
  let stash := i.have_.put (chunkName true 1 src msg.seg) msg.data
  let s1 := s.dropHead i.ctx j.comm src
  let key (g : Nat) : Nat := chunkName true 0 0 g
  if msg.seg + 1 < j.segs then
    (s1.putColl k { i with have_ := stash, got := i.got.put (key msg.seg) (Map.get 0 i.got (key msg.seg) + 1) }).releaseSlot i.ctx j.comm m src 4
  else
    let mine := if i.red = [] then i.own else (List.range j.segs).flatMap (fun g => Map.get [] i.red (key g))
    let theirs := (List.range j.segs).flatMap (fun g => Map.get [] stash (chunkName true 1 src g))
    let v := j.split (j.sigJoin mine theirs)
    let n := Map.get 0 i.got (key msg.seg) + 1
    let last : Bool := n == m.kids.length && m.rank == m.root
    let i1 := { i with have_ := stash, red := v, got := i.got.put (key msg.seg) n
                       out := if last then (List.range j.segs).foldl (fun o g => Map.put o (65536 * g) (Map.get [] v (key g))) i.out else i.out }
    match (if last then i1.heldName 0 msg.seg else none) with
    | some h => s1.putColl k { i1 with held := (h, src) :: i1.held }
    | none => (s1.putColl k i1).releaseSlot i.ctx j.comm m src 4

/-- A chunk that is kept or passed on: written where it belongs, its slot released (R427). -/
def State.takeChunk (s : State) (k : Nat) (i : Coll) (src : Nat) (msg : Chunk) : State :=
  let j := i.lead
  let m := j.rec_
  let i1 := { i with have_ := i.have_.put (chunkName msg.up msg.part msg.dst msg.seg) msg.data }
  let here : Bool := match j.args.md with
    | 3 => msg.part == m.rank
    | 5 => msg.part != m.rank
    | 7 => msg.dst == m.rank
    | _ => true
  match (if here then s.writeSeg i1 msg.part msg.seg msg.data else .ok (s, i1)) with
  | .error e => s.failWith k i e
  | .ok (s1, i2) => ((s1.dropHead i.ctx j.comm src).putColl k i2).releaseSlot i.ctx j.comm m src 4

/-- The rank whose chunk an instance can take now. -/
def State.ripe (s : State) (k : Nat) (i : Coll) : Option (Nat × SlotChunk) :=
  (i.lead.rec_.kids ++ (match i.lead.rec_.parent with | some p => [p] | none => [])).findSome? (fun src =>
    match s.waiting i.ctx i.lead.comm src with
    | w :: _ => if s.instOf i.ctx i.lead.comm w.msg.inst = some k ∧ i.turn src w.msg = true then some (src, w) else none
    | [] => none)

/-- CHUNK_COMBINE (R423): the chunk whose turn has come; a check that differs fails the instance. -/
def execChunkCombine (k : Nat) (s : State) : Out :=
  .next (match Map.find s.colls k with
    | none => s
    | some i =>
      if !i.started || i.failed.isSome || (s.ctx i.ctx).st != .running then s
      else
        match s.ripe k i with
        | none => s
        | some (src, w) =>
          let msg := w.msg
          let known : Bool := i.lead.receipts.any (fun e => e.1 == src && e.2.up == msg.up && e.2.part == msg.part && e.2.dst == msg.dst &&
            e.2.seg == msg.seg && !(i.hasGot src e.2))
          let len : Bool := msg.data.length == (if i.lead.args.md = 8 then 0 else i.lead.segLen msg.seg)
          if msg.check ≠ i.lead.check ∨ known = false ∨ len = false then s.failWith k i 1
          else if !(i.lead.args.til || i.lead.args.md == 8) && !(s.engServed i.eng (i.lead.buf + i.lead.segAt msg.part msg.seg) msg.data.length) then s
          else if msg.up && isReduction i.lead.args.md then
            (if i.lead.args.md = 9 then s.combineSig k i src msg else s.combineUp k i src msg).drain i.ctx i.lead.comm i.lead.rec_ src
          else (s.takeChunk k i src msg).drain i.ctx i.lead.comm i.lead.rec_ src)

/-- A slot release of a rank is counted (R421). -/
def State.slotReleased (s : State) (c comm src : Nat) : State :=
  match s.readComm c comm with
  | none => s
  | some m =>
    match s.peerOf c m src with
    | .remote _ _ _ _ =>
      let (s1, more) := s.noteFreed c comm src
      more.foldl (fun t r => t.releaseSlot c comm m r 4) s1
    | _ => s

/-- A fail notice of a rank for the instance of a number (R423): kept until that instance has ended here. -/
def State.failTold (s : State) (c comm src n : Nat) : State :=
  if (s.readComm c comm).isSome && !(s.instOver c comm n) then { s with failNotes := s.failNotes ++ [⟨c, comm, src, n⟩] } else s

/-- The oldest open instance of a communicator, else the next to start. -/
def State.oldestInst (s : State) (c comm : Nat) : Nat :=
  s.colls.foldl (fun n kv => if kv.2.started && kv.2.ctx == c && kv.2.lead.comm == comm then Nat.min n kv.2.seqNo else n)
    (Map.get 0 (s.ctx c).commSeq comm)

/-- The instance number nearest to the next one of a communicator whose low 12 bits a notice carries. -/
def State.instNear (s : State) (c comm low : Nat) : Nat :=
  let n := Map.get 0 (s.ctx c).commSeq comm
  let d := (low + 4096 - n % 4096) % 4096
  if d < 2048 then n + d else n + d - 4096

/-- SLOT_RELEASE_NOTICE (R421): one more slot of a peer is free. -/
def execSlotReleaseNotice (c comm src : Nat) (s : State) : Out := .next (s.slotReleased c comm src)

/-- FAIL_NOTICE (R423): a tree neighbour has failed; the step names no instance, and the oldest is meant. DEDUCED. -/
def execFailNotice (c comm src : Nat) (s : State) : Out := .next (s.failTold c comm src (s.oldestInst c comm))

/-! ## Completion and failure (R298, R299) -/

/-- Every chunk has been received, and every chunk sent has arrived. -/
def Coll.allDone (i : Coll) : Bool :=
  i.lead.receipts.all (fun e => i.hasGot e.1 e.2) &&
  i.lead.steps.all (fun t => t.tos.all (fun dest_ => i.sent.any (fun e => e.key == t.name && e.dst == dest_ && e.arrived)))

/-- The tile result is written: for a signature, its elements alone (R329). -/
def State.collTiles (s : State) (i : Coll) : State :=
  let j := i.lead
  let put (u : State) (idx v : Nat) : State :=
    let key := tileKey j.core j.slot i.wide (j.args.zt + idx / 4096) (idx % 4096)
    { u with tiles := Map.set 0#32 u.tiles key (BitVec.ofNat 32 v), tileErr := u.tileErr.filter (fun e => e != key) }
  if j.args.md = 9 then
    let ws := i.out.flatMap (fun kv => (wordsOf (kv.2.length / 4) kv.2).zipIdx.map (fun wi => (kv.1 / 4 + wi.2, wi.1)))
    (sigIndices j.sigdim j.sigdepth).foldl (fun u kp =>
      let z := sigPlace j.sigdim kp.1 kp.2
      match Map.find ws (4096 * z.1 + z.2) with
      | some v => put u (4096 * z.1 + z.2) v
      | none => u) s
  else
    i.out.foldl (fun (u : State) kv =>
      kv.2.zipIdx.foldl (fun (t : State) bi =>
        let o := kv.1 + bi.2
        let key := tileKey j.core j.slot i.wide (j.args.zt + o / 16384) (o / 4 % 4096)
        let old := (Map.get 0#32 t.tiles key).toNat
        let sh := 8 * (o % 4)
        put t (4096 * (o / 16384) + o / 4 % 4096) (old - old / 2 ^ sh % 256 * 2 ^ sh + bi.1.toNat * 2 ^ sh)) u) s

/-- An instance ends on this rank: FLAGS, then PHASE := n + 1; every joined group's handle and K entry (R295, R298). -/
def State.endColl (s : State) (k : Nat) (i : Coll) (fail : Bool) : State :=
  let (s1, i1) := s.objWrite i 12 4 (b2n fail)
  let (s2, _) := s1.objWrite i1 0 8 (i.inst + 1)
  let s3 := i.joined.foldl (fun (t : State) j =>
    if (Map.find t.groups j.group).isSome then
      (t.setGrp j.group ((t.grp j.group).finishOp j.opId)).setHandle j.group j.hseq (if fail then 3 else 1)
    else t) s2
  let s4 := i.sent.foldl (fun (t : State) e => t.release i.ctx e.charge) s3
  let c := s4.ctx i.ctx
  { s4.setCtx i.ctx { c with hits := c.hits ++ i.lead.watch } with
    colls := s4.colls.del k
    failNotes := s4.failNotes.filter (fun f => !(f.ctx == i.ctx && f.comm == i.lead.comm && f.inst == i.seqNo)) }

/-- COLL_COMPLETE (R298). -/
def execCollComplete (k : Nat) (s : State) : Out :=
  .next (match Map.find s.colls k with
    | none => s
    | some i =>
      if i.started && i.failed.isNone && i.allDone && (s.ctx i.ctx).st == .running then (s.collTiles i).endColl k i false else s)

/-- The tree neighbours of the own rank. -/
def Comm.near (m : Comm) : List Nat := m.kids ++ (match m.parent with | some p => [p] | none => [])

/-- A fail notice to a tree neighbour (R423). Its ARG names the instance: DESIGN CHOICE. -/
def State.sendFail (s : State) (i : Coll) (dest_ : Nat) : State :=
  match s.peerOf i.ctx i.lead.rec_ dest_ with
  | .here c2 k2 => s.failTold c2 k2 i.lead.rec_.rank i.seqNo
  | .remote dev port _ index => s.sendNotice dev port (8 + i.lead.comm) 5 (dev * 2 ^ 40 + index * 65536) (i.seqNo % 4096)
  | .none => s

/-- Nothing here shows that a segment's chunk did not complete on every rank (R299): what this rank sends on of it has arrived,
and a rank of this device that the rank sends to has taken it. -/
def State.mayBeEverywhere (s : State) (i : Coll) (p g : Nat) : Bool :=
  i.lead.args.md == 7 || i.lead.steps.all (fun t => t.part != p || t.seg != g || t.tos.all (fun d =>
    i.sent.any (fun e => e.key == t.name && e.dst == d && e.arrived) &&
    (match s.peerOf i.ctx i.lead.rec_ d with
     | .here c2 k2 => (match s.instOf c2 k2 i.seqNo with
       | some n => (match Map.find s.colls n with
         | some e => e.lead.receipts.all (fun r => r.2.part != p || r.2.seg != g || e.hasGot r.1 r.2)
         | none => true)
       | none => true)
     | _ => true)))

/-- The segments of a failed instance hold what stood there, or, freely, what was written where its chunk may have completed
on every rank (R299). -/
def State.unwrite (s : State) (i : Coll) : State :=
  i.old.foldl (fun (t : State) kv =>
    let t1 := { t with freeCtr := t.freeCtr + 1 }
    let stays := (i.lead.keys.filter (fun pg => i.lead.segAt pg.1 pg.2 == kv.1)).all (fun pg => s.mayBeEverywhere i pg.1 pg.2)
    if stays && Config.freeChoice t.freeCtr then t1 else t1.engWrite i.eng (i.lead.buf + kv.1) kv.2) s

/-- A neighbour has told that the instance failed there. -/
def State.failSeen (s : State) (i : Coll) : Bool :=
  s.failNotes.any (fun f => f.ctx == i.ctx && f.comm == i.lead.comm && f.inst == i.seqNo && i.lead.rec_.near.contains f.src)

/-- An instance fails here (R299, R423): the neighbours are told, it ends with FAIL = 1 and status 3, and its chunks that
wait are dropped. -/
def State.failColl (s : State) (k : Nat) (i : Coll) : State :=
  let s1 := i.lead.rec_.near.foldl (fun (t : State) dest_ => t.sendFail i dest_) s
  let s2 := (s1.unwrite i).endColl k i true
  i.lead.rec_.near.foldl (fun (t : State) src => t.drain i.ctx i.lead.comm i.lead.rec_ src) s2

/-- COLL_FAIL (R299, R423). -/
def execCollFail (k : Nat) (s : State) : Out :=
  .next (match Map.find s.colls k with
    | none => s
    | some i =>
      if i.started && (i.failed.isSome || s.failSeen i) && (s.ctx i.ctx).st == .running &&
          (i.failed == some 1 || i.sent.all (fun e => e.arrived)) then s.failColl k i
      else s)

/-- An instance of a communicator starts and fails at once on this rank: a member's launch ended without joining it, or
what had joined it is gone (R299, R409). -/
def State.stillborn (s : State) (i : Coll) (comm : Nat) (m : Comm) : Coll :=
  { i with started := true, lead := { i.lead with comm := comm, rec_ := m }, seqNo := Map.get 0 (s.ctx i.ctx).commSeq comm, failed := some 1 }

/-- The instance is opened, so that COLL_FAIL ends it. -/
def State.openStillborn (s : State) (k : Nat) (i : Coll) (comm : Nat) (m : Comm) : State :=
  let c := s.ctx i.ctx
  let j := s.stillborn i comm m
  (s.setCtx i.ctx { c with commSeq := c.commSeq.put comm (j.seqNo + 1) }).putColl k j

/-- The instances that a context had joined fail for their peers, those that had not started too, and are gone here
(R409). -/
def State.abandonColls (s : State) (c : Nat) : State :=
  s.colls.foldl (fun (t : State) kv =>
    let i := kv.2
    if i.ctx ≠ c then t
    else
      let t1 : State := if i.started then t
        else match i.leader with
          | some j => t.openStillborn kv.1 i j.comm j.rec_
          | none => t
      match Map.find t1.colls kv.1 with
      | some e => if e.started then t1.failColl kv.1 { e with joined := [], places := [] } else { t1 with colls := t1.colls.del kv.1 }
      | none => t1) s

/-- A chunk or a notice of the next instance of a communicator has come: a peer has started it. -/
def State.nextStarted (s : State) (c k : Nat) : Bool :=
  let n := Map.get 0 (s.ctx c).commSeq k
  s.slotChunks.any (fun w => w.ctx == c && w.comm == k && decide (n ≤ w.msg.inst)) ||
  s.failNotes.any (fun f => f.ctx == c && f.comm == k && decide (n ≤ f.inst))

/-- The communicators of which a launch's block is a member and in which it leaves an instance unjoined as it ends (R299): it has
joined none, or a peer is known to have started one more. DEDUCED (log 106). -/
def State.missedComms (s : State) (x : Launch) : List (Nat × Comm) :=
  (List.range 8).filterMap (fun k =>
    match s.readComm x.ctx k with
    | some m =>
      if m.valid && s.commClean x.ctx k m && m.kdesc == x.lr.kdesc && decide (m.bid < x.b) &&
          (!(x.collComms.contains k) || s.nextStarted x.ctx k) then some (k, m) else none
    | none => none)

/-- The instances that a launch leaves unjoined as it ends (R299). -/
def State.leaveUnjoined (s : State) (l : Nat) (x : Launch) : State :=
  (s.missedComms x).foldl (fun (t : State) km =>
    let t1 := t.openStillborn t.colls.fresh { ctx := x.ctx, launch := l } km.1 km.2
    let y := t1.lau l
    t1.setLau l { y with collComms := km.1 :: y.collComms }) s

end Sys2Proof.Machine
end

