-- ==== Sys2Proof/Machine/LaneFlt.lean ====
section
/-!
DEFINITION. The floating-point instructions of the lanes, class 1 (12 R222 to R225), in element and in interval mode
(R241).
-/
namespace Sys2Proof.Machine

/-- `vfadd` (R222). -/
def execVfadd (a : LArgs) (s : State) : Out := fltBin s a fAdd ivFAdd

/-- `vfsub` (R222). -/
def execVfsub (a : LArgs) (s : State) : Out := fltBin s a fSub ivFSub

/-- `vfmul` (R222). -/
def execVfmul (a : LArgs) (s : State) : Out := fltBin s a fMul ivFMul

/-- `vfma` (R222). -/
def execVfma (a : LArgs) (s : State) : Out := fltTri s a fMa (ivFMa false false)

/-- `vfms` (R222). -/
def execVfms (a : LArgs) (s : State) : Out := fltTri s a fMs (ivFMa false true)

/-- `vfnma` (R222). -/
def execVfnma (a : LArgs) (s : State) : Out := fltTri s a fNma (ivFMa true false)

/-- A minimum or maximum of a lane (R223), and of an interval (R241). -/
def fltPick (s : State) (a : LArgs) (big : Bool) : Out :=
  laneBin s a
    (fun x _ p q => let r := fMinMax big a.ty x.fz p q; { words := elemWords a.ty a.vd r.1, flags := r.2 })
    (fun fz p q => ivlOp a.ty fz (fun as => ivBounds (fun y z => (fMinMax big a.ty 0 y z).1) (as.getD 0 ⟨0, 0⟩) (as.getD 1 ⟨0, 0⟩)) [p, q])

/-- `vfmin` (R223). -/
def execVfmin (a : LArgs) (s : State) : Out := fltPick s a false

/-- `vfmax` (R223). -/
def execVfmax (a : LArgs) (s : State) : Out := fltPick s a true

/-- `vfdiv` (R222). -/
def execVfdiv (a : LArgs) (s : State) : Out := fltBin s a fDiv ivFDiv

/-- `vfsqrt` (R222). -/
def execVfsqrt (a : LArgs) (s : State) : Out :=
  laneUn s a (fun x l p => LaneOut.ofRounded a.ty a.vd (fSqrt (x.fctx a.ty a.rm l) p) (x.seed l))
    (fun fz p => ivlOp a.ty fz (fun as => ivFSqrt (as.getD 0 ⟨0, 0⟩)) [p])

/-- `vfcmp` (R224): illegal in interval mode (R239). -/
def execVfcmp (a : LArgs) (s : State) : Out :=
  laneGo s a.msk (fun x => !x.interval)
    (fun x => x.regs a.ty a.va ++ x.bRegs a) (fun _ => []) (sRegsOf a)
    (fun x =>
      let m := x.active a.msk
      let r (l : Nat) : Bool × W32 := fCmp (a.md % 8) a.ty x.fz (x.elem a.ty a.va l) (x.opB a l)
      let y := x.putMask a.vd m (fun l => (r l).1)
      s.doneLane (y.raise ((lanesOf m).foldl (fun f l => f ||| (r l).2) 0#32)) a.e)

/-- `vfcls` (R225): one register, for `f64` too; no flag; illegal in interval mode (R239). -/
def execVfcls (a : LArgs) (s : State) : Out :=
  laneGo s a.msk (fun x => !x.interval)
    (fun x => x.regs a.ty a.va) (fun _ => [a.vd]) []
    (fun x =>
      s.doneLane (x.putLanes (x.active a.msk) (fun l => { words := [(a.vd, BitVec.ofNat 32 (fCls a.ty x.fz (x.elem a.ty a.va l)))] })) a.e)

end Sys2Proof.Machine
end

