-- ==== Sys2Proof/Machine/LaneInt.lean ====
section
/-!
DEFINITION. The integer instructions of the lanes, class 0 (12 R218 to R221), in element and in interval mode (R240).
-/
namespace Sys2Proof.Machine

/-- `vadd` (R218). -/
def execVadd (a : LArgs) (s : State) : Out := intBin s a iAdd (ivAdd a.ty)

/-- `vsub` (R218). -/
def execVsub (a : LArgs) (s : State) : Out := intBin s a iSub (ivSub a.ty)

/-- `vmul` (R218). -/
def execVmul (a : LArgs) (s : State) : Out := intBin s a iMul (ivMul a.ty)

/-- An instruction that answers only for point intervals (R240). -/
def ivPoints2 (a : LArgs) (f : Ty → Nat → Nat → Nat) (p q : Ivl) : Ivl :=
  ivPoints a.ty (fun xs => f a.ty (xs.getD 0 0) (xs.getD 1 0)) [p, q]

/-- `vmulh` (R218). -/
def execVmulh (a : LArgs) (s : State) : Out := intBin s a iMulh (ivPoints2 a iMulh)

/-- `vmad` (R219). -/
def execVmad (a : LArgs) (s : State) : Out :=
  laneTri s a (fun _ _ p q r => intOut a (iMad a.ty p q r))
    (fun fz p q r => ivlOp a.ty fz (fun as => ivMad a.ty (as.getD 0 ⟨0, 0⟩) (as.getD 1 ⟨0, 0⟩) (as.getD 2 ⟨0, 0⟩)) [p, q, r])

/-- `vmin` (R218). -/
def execVmin (a : LArgs) (s : State) : Out := intBin s a iMin (ivBounds (iMin a.ty))

/-- `vmax` (R218). -/
def execVmax (a : LArgs) (s : State) : Out := intBin s a iMax (ivBounds (iMax a.ty))

/-- `vand` (R218). -/
def execVand (a : LArgs) (s : State) : Out := intBin s a iAnd (ivPoints2 a iAnd)

/-- `vor` (R218). -/
def execVor (a : LArgs) (s : State) : Out := intBin s a iOr (ivPoints2 a iOr)

/-- `vxor` (R218). -/
def execVxor (a : LArgs) (s : State) : Out := intBin s a iXor (ivPoints2 a iXor)

/-- `vandn` (R218). -/
def execVandn (a : LArgs) (s : State) : Out := intBin s a iAndn (ivPoints2 a iAndn)

/-- `vshl` (R218). -/
def execVshl (a : LArgs) (s : State) : Out := intBin s a iShl (ivShl a.ty)

/-- `vshr` (R218). -/
def execVshr (a : LArgs) (s : State) : Out := intBin s a iShr (ivShift a.ty iShr)

/-- `vsra` (R218). -/
def execVsra (a : LArgs) (s : State) : Out := intBin s a iSra (ivShift a.ty iSra)

/-- `vclz` (R220). -/
def execVclz (a : LArgs) (s : State) : Out := intUn s a iClz (ivClz a.ty)

/-- A unary instruction that answers only for point intervals (R240). -/
def ivPoints1 (a : LArgs) (f : Ty → Nat → Nat) (p : Ivl) : Ivl :=
  ivPoints a.ty (fun xs => f a.ty (xs.getD 0 0)) [p]

/-- `vpopc` (R220). -/
def execVpopc (a : LArgs) (s : State) : Out := intUn s a iPopc (ivPoints1 a iPopc)

/-- `vbrev` (R220). -/
def execVbrev (a : LArgs) (s : State) : Out := intUn s a iBrev (ivPoints1 a iBrev)

/-- The offset and the width of a bit field, in `im` (R220). -/
def fieldOf (a : LArgs) : Nat × Nat := (bits a.im 5 0, bits a.im 12 6)

/-- `vbfe` (R220). -/
def execVbfe (a : LArgs) (s : State) : Out :=
  intUn s a (fun t p => iBfe t (fieldOf a).1 (fieldOf a).2 p) (ivPoints1 a (fun t p => iBfe t (fieldOf a).1 (fieldOf a).2 p))

/-- `vbfi` (R220): reads the old destination in every active lane. -/
def execVbfi (a : LArgs) (s : State) : Out :=
  laneGo s a.msk (fun x => !x.interval || ivRegs a a.ty [a.vd, a.va])
    (fun x => x.regs a.ty a.va ++ x.regs a.ty a.vd) (fun x => x.regs a.ty a.vd) []
    (fun x =>
      let m := x.active a.msk
      s.doneLane (x.putLanes m (fun l =>
        if x.interval then
          { words := ivlWords a.vd (ivlOp a.ty x.fz (fun as =>
              ivPoints a.ty (fun xs => iBfi (fieldOf a).1 (fieldOf a).2 (xs.getD 0 0) (xs.getD 1 0)) as) [x.ivl a.vd l, x.ivl a.va l]) }
        else intOut a (iBfi (fieldOf a).1 (fieldOf a).2 (x.elem a.ty a.vd l) (x.elem a.ty a.va l)))) a.e)

/-- `vcmp` (R221): illegal in interval mode (R239). -/
def execVcmp (a : LArgs) (s : State) : Out :=
  laneGo s a.msk (fun x => !x.interval)
    (fun x => x.regs a.ty a.va ++ x.bRegs a) (fun _ => []) (sRegsOf a)
    (fun x => s.doneLane (x.putMask a.vd (x.active a.msk) (fun l => iCmp (a.md % 8) a.ty (x.elem a.ty a.va l) (x.opB a l))) a.e)

/-- `vsel` (R221): a where the mask has 1, b where it has 0; `m0` selects a in every active lane. Bit-exact; in interval
mode the pair is moved whole (R240). -/
def execVsel (a : LArgs) (s : State) : Out :=
  laneGo s a.msk (fun x => !x.interval || ivRegs a a.ty [a.vd, a.va])
    (fun x => x.regs a.ty a.va ++ x.bRegs a) (fun x => x.regs a.ty a.vd) (sRegsOf a)
    (fun x =>
      let m := x.active a.msk
      s.doneLane (x.putLanes m (fun l =>
        let first : Bool := a.vc == 0 || (x.mask a.vc).getLsbD l
        if x.interval then { words := ivlWords a.vd (if first then x.ivl a.va l else x.ivlB a l) }
        else intOut a (if first then x.elem a.ty a.va l else x.opB a l))) a.e)

/-- `vmov` (R219): operand b unchanged. -/
def execVmov (a : LArgs) (s : State) : Out :=
  laneGo s a.msk (fun x => !x.interval || ivRegs a a.ty [a.vd])
    (fun x => x.bRegs a) (fun x => x.regs a.ty a.vd) (sRegsOf a)
    (fun x =>
      let m := x.active a.msk
      s.doneLane (x.putLanes m (fun l =>
        if x.interval then { words := ivlWords a.vd (x.ivlB a l) } else intOut a (x.opB a l))) a.e)

end Sys2Proof.Machine
end

