-- ==== Sys2Proof/Machine/LaneX.lean ====
section
/-!
DEFINITION. Conversions, special functions, butterflies, twiddles, complex and dot products (class 2, 12 R226 to R231),
and the cross-lane and mask instructions (class 7, 12 R232 to R238, R242).
-/
namespace Sys2Proof.Machine

/-! ## Class 2 -/

/-- A lane's new register words of a converted value (R226): a narrow result is inserted at its position. -/
def cvtWords (d : Ty) (vd q old v : Nat) : List (Nat × W32) :=
  if tyWidth d < 32 then [(vd, BitVec.ofNat 32 (insertAt old q (tyWidth d) v))] else elemWords d vd v

/-- `vcvt` (R226, R241). -/
def execVcvt (a : LArgs) (s : State) : Out :=
  let d := tyOf a.md
  let p := bits a.im 3 0
  let q := bits a.im 7 4
  let sat : Bool := bitOf a.im 8
  laneGo s a.msk
    (fun x => !x.interval || (ivRegs { a with md := 0 } a.ty [a.vd, a.va] && (d == .i32 || d == .n32 || d == .f32)))
    (fun x => x.regs a.ty a.va ++ (if tyWidth d < 32 then [a.vd] else [])) (fun x => x.regs d a.vd) []
    (fun x =>
      let m := x.active a.msk
      s.doneLane (x.putLanes m (fun l =>
        if x.interval then
          let v := x.ivl a.va l
          { words := ivlWords a.vd (if v.isNan a.ty then Ivl.nan d else (ivCvt d a.ty sat (v.flush a.ty x.fz)).flush d x.fz) }
        else
          let src := if tyIs64 a.ty then x.elem a.ty a.va l else element (x.vr a.va l).toNat p (tyWidth a.ty)
          let r := cvtElem d a.ty (modeOf a.rm x.head.fmt) x.fz sat (x.seed l) src
          { words := cvtWords d a.vd q (x.vr a.vd l).toNat r.bits, flags := r.flags
            lfsr := if r.lfsr = x.seed l then none else some r.lfsr })) a.e)

/-- A special function (R227, R241). -/
def sfuUn (s : State) (a : LArgs) (op : Sfu) : Out :=
  laneUn s a
    (fun x _ p =>
      let r := sfu op a.ty .rne x.fz (decodeVal a.ty x.fz p)
      { words := elemWords a.ty a.vd r.bits, flags := r.flags })
    (fun fz p => ivlOp a.ty fz (fun as =>
      match op with
      | .sin => ivSinCos false (as.getD 0 ⟨0, 0⟩)
      | .cos => ivSinCos true (as.getD 0 ⟨0, 0⟩)
      | o => ivSfu o (as.getD 0 ⟨0, 0⟩)) [p])

/-- `vexp2` (R227). -/
def execVexp2 (a : LArgs) (s : State) : Out := sfuUn s a .exp2

/-- `vlog2` (R227). -/
def execVlog2 (a : LArgs) (s : State) : Out := sfuUn s a .log2

/-- `vsin` (R227). -/
def execVsin (a : LArgs) (s : State) : Out := sfuUn s a .sin

/-- `vcos` (R227). -/
def execVcos (a : LArgs) (s : State) : Out := sfuUn s a .cos

/-- `vrcp` (R227). -/
def execVrcp (a : LArgs) (s : State) : Out := sfuUn s a .rcp

/-- `vrsq` (R227). -/
def execVrsq (a : LArgs) (s : State) : Out := sfuUn s a .rsq

/-- A pair of registers. -/
def pairOf (r : Nat) : List Nat := [r, r + 1]

/-- `vbfly` (R228). -/
def execVbfly (a : LArgs) (s : State) : Out :=
  laneGo s a.msk (fun x => !x.interval)
    (fun _ => pairOf a.va ++ pairOf a.vb ++ pairOf a.vc) (fun _ => [a.vd, a.vd + 1, a.vd + 2, a.vd + 3]) []
    (fun x =>
      s.doneLane (x.putLanes (x.active a.msk) (fun l =>
        let v (r : Nat) : Nat := (x.vr r l).toNat
        let o := butterfly x.fz (v a.va) (v (a.va + 1)) (v a.vb) (v (a.vb + 1)) (v a.vc) (v (a.vc + 1))
        { words := (List.range 4).map (fun i => (a.vd + i, BitVec.ofNat 32 (o.1.getD i 0))), flags := o.2 })) a.e)

/-- `vtwid` (R229): k from `vA`, N from operand b, as `n32`. -/
def execVtwid (a : LArgs) (s : State) : Out :=
  laneGo s a.msk (fun x => !x.interval)
    (fun _ => a.va :: (if a.sb then [] else [a.vb])) (fun _ => pairOf a.vd) (sRegsOf a)
    (fun x =>
      s.doneLane (x.putLanes (x.active a.msk) (fun l =>
        let n := if a.sb then x.sElem .n32 a.ss else (x.vr a.vb l).toNat
        let o := twiddle (x.vr a.va l).toNat n x.fz
        { words := [(a.vd, BitVec.ofNat 32 o.1), (a.vd + 1, BitVec.ofNat 32 o.2.1)], flags := o.2.2 })) a.e)

/-- `vcmul` (R230). -/
def execVcmul (a : LArgs) (s : State) : Out :=
  laneGo s a.msk (fun x => !x.interval)
    (fun _ => pairOf a.va ++ (if a.sb then [] else pairOf a.vb)) (fun _ => pairOf a.vd) (sRegsOf a)
    (fun x =>
      s.doneLane (x.putLanes (x.active a.msk) (fun l =>
        let br := if a.sb then bits (x.sr a.ss).toNat 31 0 else (x.vr a.vb l).toNat
        let bi := if a.sb then bits (x.sr a.ss).toNat 63 32 else (x.vr (a.vb + 1) l).toNat
        let o := cmul (modeOf a.rm x.head.fmt) x.fz (x.seed l) (a.md == 1) (x.vr a.va l).toNat (x.vr (a.va + 1) l).toNat br bi
        { words := [(a.vd, BitVec.ofNat 32 o.1), (a.vd + 1, BitVec.ofNat 32 o.2.1)], flags := o.2.2.1
          lfsr := if o.2.2.2 = x.seed l then none else some o.2.2.2 })) a.e)

/-- `vdot` (R231). -/
def execVdot (a : LArgs) (s : State) : Out :=
  laneGo s a.msk (fun x => !x.interval)
    (fun _ => [a.va, a.vc] ++ (if a.sb then [] else [a.vb])) (fun _ => [a.vd]) (sRegsOf a)
    (fun x =>
      s.doneLane (x.putLanes (x.active a.msk) (fun l =>
        let b := if a.sb then bits (x.sr a.ss).toNat 31 0 else (x.vr a.vb l).toNat
        let r := dot a.ty (modeOf a.rm x.head.fmt) x.fz (x.seed l) (x.vr a.va l).toNat b (x.vr a.vc l).toNat
        { words := [(a.vd, BitVec.ofNat 32 r.bits)], flags := r.flags
          lfsr := if r.lfsr = x.seed l then none else some r.lfsr })) a.e)

/-! ## Class 7 -/

/-- The source lane of a shuffle by a distance or an index (R232). -/
def shflLane (mode l d : Nat) : Nat :=
  match mode with
  | 0 => d % 32
  | 1 => if l < d then l else l - d
  | 2 => if 32 ≤ l + d then l else l + d
  | 3 => l ^^^ d
  | _ => (l + d) % 32

/-- The index pair of a lane in interval mode (R242): the lanes named, in ascending order of the index. -/
def shflRange (lo hi : Int) : List Nat :=
  (List.range (Nat.min 32 (hi - lo + 1).toNat)).map (fun (i : Nat) => ((lo + (i : Int)) % 32).toNat)

/-- `vshfl` (R232, R242). -/
def execVshfl (a : LArgs) (s : State) : Out :=
  let vecIdx : Bool := a.md == 0 && !a.sb
  laneGo s a.msk (fun x => !x.interval || ivRegs a a.ty [a.vd, a.va])
    (fun x => x.regs a.ty a.va ++ (if vecIdx then (if x.interval then pairOf a.vb else [a.vb]) else []))
    (fun x => x.regs a.ty a.vd) (sRegsOf a)
    (fun x =>
      let m := x.active a.msk
      let dist (l : Nat) : Nat :=
        if a.sb then bits (x.sr a.ss).toNat 4 0 else if a.md = 0 then (x.vr a.vb l).toNat % 32 else a.im % 32
      s.doneLane (x.putLanes m (fun l =>
        if x.interval then
          if vecIdx then
            let it : Ty := if a.ty = .i32 then .i32 else .n32
            let ix := x.ivl a.vb l
            if ix.isNan it then { words := ivlWords a.vd (Ivl.nan a.ty) }
            else
              match shflRange (intVal it ix.lo) (intVal it ix.hi) with
              | [] => { words := ivlWords a.vd (x.ivl a.va l) }
              | j :: t => { words := ivlWords a.vd (t.foldl (fun h i => ivHull a.ty h (x.ivl a.va i)) (x.ivl a.va j)) }
          else { words := ivlWords a.vd (x.ivl a.va (shflLane a.md l (dist l))) }
        else { words := elemWords a.ty a.vd (x.elem a.ty a.va (shflLane a.md l (dist l))) })) a.e)

/-- A value of a type as a scalar register: sign-extended for `i32`, else zero-extended (R233). -/
def toScalar (t : Ty) (v : Nat) : W64 := if t = .i32 then BitVec.ofInt 64 (sext 32 v) else BitVec.ofNat 64 v

/-- A group with a lane's stochastic state after a draw. -/
def Group.drawn (x : Group) (l : Nat) (v : W32) : Group :=
  if v = x.seed l then x else { x with lfsr := x.lfsr.set l v }

/-- `vred` (R233, R242): the lowest active lane draws; with no active lane the identity. -/
def execVred (a : LArgs) (s : State) : Out :=
  laneGo s a.msk (fun x => !x.interval || ivRegs a a.ty [a.va])
    (fun x => x.regs a.ty a.va) (fun _ => []) []
    (fun x =>
      let ls := lanesOf (x.active a.msk)
      let low := ls.headD 0
      if x.interval then
        let r := ivReduce (a.md % 8) a.ty x.fz (ls.map (x.ivl a.va))
        s.doneLane (x.setSr a.ss (BitVec.ofNat 64 (r.lo + 2 ^ 32 * r.hi))) a.e
      else
        let r := reduceList (a.md % 8) (x.fctx a.ty a.rm low) (ls.map (x.elem a.ty a.va))
        s.doneLane (((x.setSr a.ss (toScalar a.ty r.bits)).raise r.flags).drawn low r.lfsr) a.e) [a.ss]

/-- `vscan` (R234, R242): inclusive, or exclusive with `md`[3]. -/
def execVscan (a : LArgs) (s : State) : Out :=
  laneGo s a.msk (fun x => !x.interval || ivRegs a a.ty [a.vd, a.va])
    (fun x => x.regs a.ty a.va) (fun x => x.regs a.ty a.vd) []
    (fun x =>
      let m := x.active a.msk
      s.doneLane (x.putLanes m (fun l =>
        let ls := (lanesOf m).filter (fun j => decide (j < l) || (j == l && decide (a.md < 8)))
        if x.interval then { words := ivlWords a.vd (ivReduce (a.md % 8) a.ty x.fz (ls.map (x.ivl a.va))) }
        else LaneOut.ofRounded a.ty a.vd (reduceList (a.md % 8) (x.fctx a.ty a.rm l) (ls.map (x.elem a.ty a.va))) (x.seed l))) a.e)

/-- `vbcast` (R235, R242). -/
def execVbcast (a : LArgs) (s : State) : Out :=
  laneGo s a.msk (fun x => !x.interval || ivRegs a a.ty [a.vd, a.va])
    (fun x => if a.sb then [] else x.regs a.ty a.va) (fun x => x.regs a.ty a.vd) (sRegsOf a)
    (fun x =>
      s.doneLane (x.putLanes (x.active a.msk) (fun _ =>
        if x.interval then
          { words := ivlWords a.vd (if a.sb then Ivl.point (x.sElem a.ty a.ss) else x.ivl a.va (a.im % 32)) }
        else { words := elemWords a.ty a.vd (if a.sb then x.sElem a.ty a.ss else x.elem a.ty a.va (a.im % 32)) })) a.e)

/-- `vtos` (R236, R242): with no active lane `s[ss]` is unchanged. -/
def execVtos (a : LArgs) (s : State) : Out :=
  laneGo s a.msk (fun x => !x.interval || ivRegs a a.ty [a.va])
    (fun x => x.regs a.ty a.va) (fun _ => []) []
    (fun x =>
      let k := a.im % 32
      let v := if x.interval then BitVec.ofNat 64 ((x.ivl a.va k).lo + 2 ^ 32 * (x.ivl a.va k).hi) else toScalar a.ty (x.elem a.ty a.va k)
      s.doneLane (if x.active a.msk = 0#32 then x else x.setSr a.ss v) a.e) [a.ss]

/-- `vmsk` (R237): `nez` and `tov` are illegal in interval mode (R239). -/
def execVmsk (a : LArgs) (s : State) : Out :=
  laneGo s a.msk (fun x => !x.interval || (a.md != 5 && a.md != 7))
    (fun _ => if a.md = 5 then regsOf a.ty a.va else []) (fun _ => if a.md = 7 then [a.vd] else []) (sRegsOf a)
    (fun x =>
      let m := x.active a.msk
      let p (l : Nat) : Bool := (x.laneMask a.va).getLsbD l
      let q (l : Nat) : Bool := (x.laneMask a.vb).getLsbD l
      if a.md = 7 then
        s.doneLane (x.putLanes m (fun l => { words := [(a.vd, if p l then 0xFFFFFFFF#32 else 0#32)] })) a.e
      else
        s.doneLane (x.putMask a.vd m (fun l =>
          match a.md with
          | 0 => p l && q l
          | 1 => p l || q l
          | 2 => p l != q l
          | 3 => p l && !(q l)
          | 4 => !(p l)
          | 5 => x.elem a.ty a.va l != 0
          | _ => (x.sr a.ss).getLsbD l)) a.e)

/-- `vlid` (R238, R242): where the sum wraps in interval mode, the whole range (R239). -/
def execVlid (a : LArgs) (s : State) : Out :=
  laneGo s a.msk (fun x => !x.interval || ivRegs a a.ty [a.vd])
    (fun _ => []) (fun x => x.regs a.ty a.vd) (sRegsOf a)
    (fun x =>
      s.doneLane (x.putLanes (x.active a.msk) (fun l =>
        let v := (if a.sb then x.sElem .n32 a.ss else 0) + l
        if x.interval then { words := ivlWords a.vd (if v < 2 ^ 32 then Ivl.point v else Ivl.whole .n32) }
        else { words := [(a.vd, BitVec.ofNat 32 v)] })) a.e)

/-! ## The interval instructions (16 R307 to R311): illegal in element mode (R303) -/

/-- Operand b as an interval: a pair, or a point of `s[ss]`. -/
def Group.ivlBX (x : Group) (a : LArgs) (l : Nat) : Ivl := if a.sb then Ivl.point (x.sElem a.ty a.ss) else x.ivl a.vb l

/-- A lane's unit gets its NAN bit (R308). -/
def Group.markNan (x : Group) (ls : List Nat) : Group :=
  { x with lut := x.lut.map (fun kv => if ls.contains kv.1 && kv.2.unit.isSome then (kv.1, { kv.2 with nan := true }) else kv) }

/-- `ivcmp` (R308). -/
def execIvcmp (a : LArgs) (s : State) : Out :=
  laneGo s a.msk (fun x => x.interval)
    (fun _ => pairOf a.va ++ (if a.sb then [] else pairOf a.vb)) (fun _ => []) (sRegsOf a)
    (fun x =>
      let m := x.active a.msk
      let nanAt (l : Nat) : Bool := (x.ivl a.va l).isNan a.ty || (x.ivlBX a l).isNan a.ty
      let r (l : Nat) : Bool × Bool :=
        if nanAt l then (false, false)
        else ivCmp a.md a.ty ((x.ivl a.va l).flush a.ty x.fz) ((x.ivlBX a l).flush a.ty x.fz)
      let y := (x.putMask (a.vd % 16) m (fun l => (r l).1)).putMask (a.vd / 16) m (fun l => (r l).2)
      s.doneLane (y.markNan ((lanesOf m).filter nanAt)) a.e)

/-- `ivhull` (R309). -/
def execIvhull (a : LArgs) (s : State) : Out :=
  laneGo s a.msk (fun x => x.interval)
    (fun _ => pairOf a.va ++ (if a.sb then [] else pairOf a.vb)) (fun _ => pairOf a.vd) (sRegsOf a)
    (fun x =>
      s.doneLane (x.putLanes (x.active a.msk) (fun l =>
        { words := ivlWords a.vd (ivlOp a.ty x.fz (fun as => ivHull a.ty (as.getD 0 ⟨0, 0⟩) (as.getD 1 ⟨0, 0⟩))
            [x.ivl a.va l, x.ivlBX a l]) })) a.e)

/-- The extent of a lane unit (R310, R306). -/
def unitExtent (u : UnitRef) (d e0 e1 : Nat) : Ivl :=
  match d with
  | 0 | 1 =>
    if extentOk e0 && extentOk e1 then
      let e := (if d = 0 then e0 else e1) / 2 ^ u.level
      let lo := coord' u.word d * e
      ⟨lo, wrap 32 ((lo + e : Nat) - 1 : Int)⟩
    else Ivl.nan .n32
  | 2 | 3 => Ivl.point (coord' u.word d)
  | _ => Ivl.point u.level
where
  /-- A coordinate of a unit word. -/
  coord' (w : W64) (d : Nat) : Nat := w.toNat / 2 ^ (16 * d) % 65536

/-- `ivwid` (R310). -/
def execIvwid (a : LArgs) (s : State) : Out :=
  laneGo s a.msk (fun x => x.interval)
    (fun _ => []) (fun _ => pairOf a.vd) (sRegsOf a)
    (fun x =>
      let w := (x.sr a.ss).toNat
      s.doneLane (x.putLanes (x.active a.msk) (fun l =>
        { words := ivlWords a.vd (match (Map.get {} x.lut l).unit with
            | some u => unitExtent u a.md (bits w 31 0) (bits w 63 32)
            | none => Ivl.nan .n32) })) a.e)

/-- The byte offset of a unit's entry in a summary pyramid (R311). -/
def summaryAt (r : LRec) (u : UnitRef) (base : Nat) : Nat :=
  let c (d : Nat) : Nat := u.word.toNat / 2 ^ (16 * d) % 65536
  let n := r.d0 * r.d1 * r.d2 * r.d3
  let k := u.level
  base + 8 * (n * (4 ^ k - 1) / 3 + (((c 3 * r.d2 + c 2) * (r.d1 * 2 ^ k) + c 1) * (r.d0 * 2 ^ k) + c 0))

/-- `ivsum` (R311). -/
def execIvsum (a : LArgs) (s : State) : Out :=
  laneGo s a.msk (fun x => x.interval)
    (fun _ => []) (fun _ => pairOf a.vd) (sRegsOf a)
    (fun x =>
      let base := bits (x.sr a.ss).toNat 31 0
      s.doneLane (x.putLanes (x.active a.msk) (fun l =>
        { words := ivlWords a.vd (match (Map.get {} x.lut l).unit with
            | some u => let o := summaryAt (s.lau x.launch).lr u base; if o < 2 ^ 32 then Ivl.point o else Ivl.nan .n32
            | none => Ivl.nan .n32) })) a.e)

end Sys2Proof.Machine
end

