-- ==== Sys2Proof/Machine/Sample.lean ====
section
/-!
DEFINITION. Instruction samples (28 R441, R442).
-/
namespace Sys2Proof.Machine

/-- The sampler of a quadrant; its LFSR starts from a constant and its number (R441). -/
def State.sampler (s : State) (core quad : Nat) : Sampler :=
  match Map.find s.samplers (4 * core + quad) with
  | some x => x
  | none => { lfsr := 0x9E3779B9#32 ^^^ BitVec.ofNat 32 (4 * core + quad) }

/-- Puts a sampler. -/
def State.setSampler (s : State) (core quad : Nat) (x : Sampler) : State := { s with samplers := s.samplers.put (4 * core + quad) x }

/-- A tag ends: the countdown starts again and the LFSR advances (R441, R115). -/
def State.endTag (s : State) (core quad : Nat) : State :=
  let x := s.sampler core quad
  let p := match x.ctx with | some c => (s.ctx c).speriod.toNat | none => 0x14000
  let j := x.lfsr.toNat / 256 % 2 ^ bits p 19 16
  s.setSampler core quad { x with tag := none, armed := false, due := s.atick + bits p 15 0 + j, lfsr := lfsrAdvance x.lfsr }

/-- SAMPLE_TAG (R441): the countdown has reached 0: the next instruction that the quadrant issues is tagged. -/
def execSampleTag (core quad : Nat) (s : State) : Out :=
  .next (
    let x := s.sampler core quad
    if x.tag.isNone && !x.armed && decide (x.due ≤ s.atick) then s.setSampler core quad { x with armed := true } else s)

/-- The group has taken a trap or been stopped. -/
def Group.fell (x y : Group) : Bool := (y.trap.isSome && y.trap != x.trap) || (y.stopped && !x.stopped)

/-- An instruction of a group has issued, between two states: an armed sampler tags it. A context with SAMPEN = 0 or SQSIZE = 0
ends the tag at once (R441). -/
def State.sampleIssue (t s : State) (g word : Nat) (lane : Bool) (mask : W32) : State :=
  let x := s.grp g
  let quad := x.sidx % 4
  let m := t.sampler x.core quad
  if m.armed = false then t
  else
    let c := t.ctx x.ctx
    let b := x.queue.headD {}
    let tag : SampleTag := {
      ctx := x.ctx, group := g, lid := (s.lau x.launch).lid, gid := x.gid, lane := lane, trapped := x.fell (t.grp g), time := s.gtime
      pc := if lane then b.vpc else x.pc.toNat, lpos := if lane then b.pos else 0xFFFF, word := word, mask := mask, rgn := x.rgnWord
      lo := s.clock, hi := t.clock }
    let t1 := t.setSampler x.core quad { m with armed := false, ctx := some x.ctx, tag := some tag }
    if c.dbgctl.getLsbD 1 && c.sq.size != 0#64 then t1 else t1.endTag x.core quad

/-- An operation number of a tag. -/
def SampleTag.owns (k : SampleTag) (id : Nat) : Bool := decide (k.lo < id) && decide (id ≤ k.hi)

/-- An access of the tagged instruction is in flight. -/
def State.tagPending (s : State) (k : SampleTag) : Bool :=
  match Map.find s.groups k.group with
  | some x => x.pend.any (fun p => k.owns p.id)
  | none => false

/-- The tagged instruction has left for an engine or a half queue, where it is not complete. -/
def State.tagAtEngine (s : State) (k : SampleTag) : Bool :=
  match Map.find s.groups k.group with
  | some x => x.ops.any (fun e => k.owns e.id && !e.done && !(x.pend.any (fun p => p.id == e.id)))
  | none => false

/-- Free bits, n of them, from a counter on. -/
def freeBits (ctr n : Nat) : Nat := (List.range n).foldl (fun a i => 2 * a + (if Config.freeChoice (ctr + i) then 1 else 0)) 0

/-- The 64 bytes of a sample (R442). LEVEL of an instruction that reached memory, the latencies, and whether it stalled are free: the
model keeps neither the level that served an access nor how long it took (log entry 155). -/
def State.sampleBytes (s : State) (k : SampleTag) (core quad : Nat) (halted : Bool) : List Byte :=
  let engine := decide (k.lo < k.hi)
  let level := if k.lo < k.hi then freeBits s.freeCtr 8 % 10 else 0
  let flags := b2n k.lane + 2 * b2n k.trapped + 4 * b2n halted + 8 * b2n (engine && decide (5 ≤ bits k.word 23 21) && k.lane) +
    16 * freeBits (s.freeCtr + 8) 1
  leBytes 2 core ++ leBytes 1 quad ++ leBytes 1 level ++ leBytes 2 k.lid ++ leBytes 2 k.gid ++ leBytes 8 k.time ++ leBytes 4 k.pc ++
    leBytes 2 k.lpos ++ leBytes 2 flags ++ leBytes 4 k.word ++ leBytes 4 k.mask.toNat ++ leBytes 10 (freeBits (s.freeCtr + 9) 80) ++
    List.replicate 6 0#8 ++ leBytes 8 k.rgn.toNat ++ leBytes 8 0

/-- SAMPLE_RECORD (R442): the tagged instruction has completed, trapped, or been halted by a vacate. -/
def execSampleRecord (core quad : Nat) (s : State) : Out :=
  .next (
    let x := s.sampler core quad
    match x.tag with
    | none => s
    | some k =>
      let open_ := s.tagPending k || s.tagAtEngine k
      let off := (s.ctx k.ctx).st != .running && (s.ctx k.ctx).st != .vacating
      if k.trapped || !open_ || off then
        let bs := s.sampleBytes k core quad (open_ && off)
        (({ s with freeCtr := s.freeCtr + 89 }).postRing k.ctx .sample bs).endTag core quad
      else s)

end Sys2Proof.Machine
end

