-- ==== Sys2Proof/Machine/ScalarAlu.lean ====
section
/-!
DEFINITION. Scalar arithmetic, comparison, immediates and branches (11 R179 to R184, R191). No value traps.
-/
namespace Sys2Proof.Machine

/-! ## The functions -/

/-- Quotient as `i64`, toward zero; by zero all ones; the most negative by -1 is itself (R180). -/
def sDiv (x y : W64) : W64 := if y = 0#64 then BitVec.allOnes 64 else BitVec.sdiv x y
/-- Quotient as `n64`; by zero all ones (R180). -/
def sDivn (x y : W64) : W64 := if y = 0#64 then BitVec.allOnes 64 else x / y
/-- Remainder as `i64`, with the sign of x; by zero x (R180). -/
def sRem (x y : W64) : W64 := if y = 0#64 then x else BitVec.srem x y
/-- Remainder as `n64`; by zero x (R180). -/
def sRemn (x y : W64) : W64 := if y = 0#64 then x else x % y
/-- Shift left by y mod 64. -/
def sShl (x y : W64) : W64 := x <<< (y.toNat % 64)
/-- Shift right by y mod 64, zeros entering. -/
def sShr (x y : W64) : W64 := x >>> (y.toNat % 64)
/-- Shift right by y mod 64, bit 63 entering. -/
def sSra (x y : W64) : W64 := BitVec.sshiftRight x (y.toNat % 64)
/-- The bits of x turned round (R181). -/
def sBrev (x : W64) : W64 := BitVec.ofNat 64 (revN 64 x.toNat)
/-- Trailing zero bits; 64 for zero. -/
def sCtz (x : W64) : W64 := BitVec.ofNat 64 (64 - bitLen (revN 64 x.toNat))
/-- Leading zero bits; 64 for zero. -/
def sClz (x : W64) : W64 := BitVec.ofNat 64 (64 - bitLen x.toNat)
/-- Set bits. -/
def sPopc (x : W64) : W64 := BitVec.ofNat 64 (popN 64 x.toNat)
/-- The low n bits, sign-extended. -/
def sSext (n : Nat) (x : W64) : W64 := BitVec.ofInt 64 (sext n (x.toNat % 2 ^ n))
/-- The low n bits. -/
def sZext (n : Nat) (x : W64) : W64 := BitVec.ofNat 64 (x.toNat % 2 ^ n)
/-- A 16-bit immediate, sign-extended (R148). -/
def immS (im : Nat) : W64 := BitVec.ofInt 64 (sext 16 im)
/-- A 16-bit immediate, zero-extended. -/
def immZ (im : Nat) : W64 := BitVec.ofNat 64 im

/-! ## The shapes -/

/-- `op sD, sA, sB` (R179). -/
def alu3 (s : State) (f : W64 → W64 → W64) (d a b : Nat) : Out :=
  scalarGo s [a, b] [d] [] (fun x => s.writeS x d (f (x.sr a) (x.sr b)))
/-- `op sD, sA` with sD as the first source (R179). -/
def alu2 (s : State) (f : W64 → W64 → W64) (d a : Nat) : Out :=
  scalarGo s [d, a] [d] [] (fun x => s.writeS x d (f (x.sr d) (x.sr a)))
/-- `op sD, sA` on sA alone (R181). -/
def alu1 (s : State) (f : W64 → W64) (d a : Nat) : Out :=
  scalarGo s [a] [d] [] (fun x => s.writeS x d (f (x.sr a)))
/-- `cmp.cc sD, sA, sB` (R182). -/
def cmp3 (s : State) (p : W64 → W64 → Bool) (d a b : Nat) : Out := alu3 s (fun x y => if p x y then 1#64 else 0#64) d a b
/-- An immediate acting on sD (R183). -/
def aluImm (s : State) (f : W64 → W64) (d : Nat) : Out := scalarGo s [d] [d] [] (fun x => s.writeS x d (f (x.sr d)))

/-- sb_target (R144). -/
def sbTarget (x : Group) (o : Nat) : W64 := x.pc + BitVec.ofInt 64 (4 * sext 16 o)
/-- sj_target (R144). -/
def sjTarget (x : Group) (o : Nat) : W64 := x.pc + BitVec.ofInt 64 (4 * sext 26 o)
/-- A branch on a comparison of sA with zero (R191). -/
def branchIf (s : State) (p : W64 → Bool) (a o : Nat) : Out :=
  scalarGo s [a] [] [] (fun x => s.setGrp s.cur { x with pc := if p (x.sr a) then sbTarget x o else x.pc + 4#64 })

/-! ## The instructions -/

/-- `add sD, sA, sB` (R179). -/
def execAdd (d a b : Nat) (s : State) : Out := alu3 s (fun x y => x + y) d a b
/-- `add sD, sA`. -/
def execAdd2A (d a : Nat) (s : State) : Out := alu2 s (fun x y => x + y) d a
/-- `sub sD, sA, sB` (R179). -/
def execSub (d a b : Nat) (s : State) : Out := alu3 s (fun x y => x - y) d a b
/-- `sub sD, sA`. -/
def execSub2A (d a : Nat) (s : State) : Out := alu2 s (fun x y => x - y) d a
/-- `mul sD, sA, sB` (R179). -/
def execMul (d a b : Nat) (s : State) : Out := alu3 s (fun x y => x * y) d a b
/-- `mul sD, sA`. -/
def execMul2A (d a : Nat) (s : State) : Out := alu2 s (fun x y => x * y) d a
/-- `mulh sD, sA, sB` (R179). -/
def execMulh (d a b : Nat) (s : State) : Out := alu3 s (fun x y => BitVec.ofInt 64 (x.toInt * y.toInt / 2 ^ 64)) d a b
/-- `mulh sD, sA`. -/
def execMulh2A (d a : Nat) (s : State) : Out := alu2 s (fun x y => BitVec.ofInt 64 (x.toInt * y.toInt / 2 ^ 64)) d a
/-- `mulhn sD, sA, sB` (R179). -/
def execMulhn (d a b : Nat) (s : State) : Out := alu3 s (fun x y => BitVec.ofNat 64 (x.toNat * y.toNat / 2 ^ 64)) d a b
/-- `mulhn sD, sA`. -/
def execMulhn2A (d a : Nat) (s : State) : Out := alu2 s (fun x y => BitVec.ofNat 64 (x.toNat * y.toNat / 2 ^ 64)) d a
/-- `div sD, sA, sB` (R180). -/
def execDiv (d a b : Nat) (s : State) : Out := alu3 s sDiv d a b
/-- `div sD, sA`. -/
def execDiv2A (d a : Nat) (s : State) : Out := alu2 s sDiv d a
/-- `divn sD, sA, sB` (R180). -/
def execDivn (d a b : Nat) (s : State) : Out := alu3 s sDivn d a b
/-- `divn sD, sA`. -/
def execDivn2A (d a : Nat) (s : State) : Out := alu2 s sDivn d a
/-- `rem sD, sA, sB` (R180). -/
def execRem (d a b : Nat) (s : State) : Out := alu3 s sRem d a b
/-- `rem sD, sA`. -/
def execRem2A (d a : Nat) (s : State) : Out := alu2 s sRem d a
/-- `remn sD, sA, sB` (R180). -/
def execRemn (d a b : Nat) (s : State) : Out := alu3 s sRemn d a b
/-- `remn sD, sA`. -/
def execRemn2A (d a : Nat) (s : State) : Out := alu2 s sRemn d a
/-- `and sD, sA, sB` (R179). -/
def execAnd (d a b : Nat) (s : State) : Out := alu3 s (fun x y => x &&& y) d a b
/-- `and sD, sA`. -/
def execAnd2A (d a : Nat) (s : State) : Out := alu2 s (fun x y => x &&& y) d a
/-- `or sD, sA, sB` (R179). -/
def execOr (d a b : Nat) (s : State) : Out := alu3 s (fun x y => x ||| y) d a b
/-- `or sD, sA`. -/
def execOr2A (d a : Nat) (s : State) : Out := alu2 s (fun x y => x ||| y) d a
/-- `xor sD, sA, sB` (R179). -/
def execXor (d a b : Nat) (s : State) : Out := alu3 s (fun x y => x ^^^ y) d a b
/-- `xor sD, sA`. -/
def execXor2A (d a : Nat) (s : State) : Out := alu2 s (fun x y => x ^^^ y) d a
/-- `andn sD, sA, sB` (R179). -/
def execAndn (d a b : Nat) (s : State) : Out := alu3 s (fun x y => x &&& ~~~ y) d a b
/-- `andn sD, sA`. -/
def execAndn2A (d a : Nat) (s : State) : Out := alu2 s (fun x y => x &&& ~~~ y) d a
/-- `shl sD, sA, sB` (R179). -/
def execShl (d a b : Nat) (s : State) : Out := alu3 s sShl d a b
/-- `shl sD, sA`. -/
def execShl2A (d a : Nat) (s : State) : Out := alu2 s sShl d a
/-- `shr sD, sA, sB` (R179). -/
def execShr (d a b : Nat) (s : State) : Out := alu3 s sShr d a b
/-- `shr sD, sA`. -/
def execShr2A (d a : Nat) (s : State) : Out := alu2 s sShr d a
/-- `sra sD, sA, sB` (R179). -/
def execSra (d a b : Nat) (s : State) : Out := alu3 s sSra d a b
/-- `sra sD, sA`. -/
def execSra2A (d a : Nat) (s : State) : Out := alu2 s sSra d a
/-- `min sD, sA, sB` (R179). -/
def execMin (d a b : Nat) (s : State) : Out := alu3 s (fun x y => if y.slt x then y else x) d a b
/-- `min sD, sA`. -/
def execMin2A (d a : Nat) (s : State) : Out := alu2 s (fun x y => if y.slt x then y else x) d a
/-- `max sD, sA, sB` (R179). -/
def execMax (d a b : Nat) (s : State) : Out := alu3 s (fun x y => if x.slt y then y else x) d a b
/-- `max sD, sA`. -/
def execMax2A (d a : Nat) (s : State) : Out := alu2 s (fun x y => if x.slt y then y else x) d a
/-- `minn sD, sA, sB` (R179). -/
def execMinn (d a b : Nat) (s : State) : Out := alu3 s (fun x y => if y.ult x then y else x) d a b
/-- `minn sD, sA`. -/
def execMinn2A (d a : Nat) (s : State) : Out := alu2 s (fun x y => if y.ult x then y else x) d a
/-- `maxn sD, sA, sB` (R179). -/
def execMaxn (d a b : Nat) (s : State) : Out := alu3 s (fun x y => if x.ult y then y else x) d a b
/-- `maxn sD, sA`. -/
def execMaxn2A (d a : Nat) (s : State) : Out := alu2 s (fun x y => if x.ult y then y else x) d a
/-- `mov` (R181). -/
def execMov (d a : Nat) (s : State) : Out := alu1 s (fun x => x) d a
/-- `neg` (R181). -/
def execNeg (d a : Nat) (s : State) : Out := alu1 s (fun x => 0#64 - x) d a
/-- `not` (R181). -/
def execNot (d a : Nat) (s : State) : Out := alu1 s (fun x => ~~~ x) d a
/-- `clz` (R181). -/
def execClz (d a : Nat) (s : State) : Out := alu1 s sClz d a
/-- `ctz` (R181). -/
def execCtz (d a : Nat) (s : State) : Out := alu1 s sCtz d a
/-- `popc` (R181). -/
def execPopc (d a : Nat) (s : State) : Out := alu1 s sPopc d a
/-- `brev` (R181). -/
def execBrev (d a : Nat) (s : State) : Out := alu1 s sBrev d a
/-- `sxt.8` (R181). -/
def execSxt8 (d a : Nat) (s : State) : Out := alu1 s (sSext 8) d a
/-- `sxt.16` (R181). -/
def execSxt16 (d a : Nat) (s : State) : Out := alu1 s (sSext 16) d a
/-- `sxt.32` (R181). -/
def execSxt32 (d a : Nat) (s : State) : Out := alu1 s (sSext 32) d a
/-- `zxt.8` (R181). -/
def execZxt8 (d a : Nat) (s : State) : Out := alu1 s (sZext 8) d a
/-- `zxt.16` (R181). -/
def execZxt16 (d a : Nat) (s : State) : Out := alu1 s (sZext 16) d a
/-- `zxt.32` (R181). -/
def execZxt32 (d a : Nat) (s : State) : Out := alu1 s (sZext 32) d a
/-- `cmp.eq` (R182). -/
def execCmpEq (d a b : Nat) (s : State) : Out := cmp3 s (fun x y => x == y) d a b
/-- `cmp.ne` (R182). -/
def execCmpNe (d a b : Nat) (s : State) : Out := cmp3 s (fun x y => x != y) d a b
/-- `cmp.lt` (R182). -/
def execCmpLt (d a b : Nat) (s : State) : Out := cmp3 s (fun x y => x.slt y) d a b
/-- `cmp.ge` (R182). -/
def execCmpGe (d a b : Nat) (s : State) : Out := cmp3 s (fun x y => !(x.slt y)) d a b
/-- `cmp.ltn` (R182). -/
def execCmpLtn (d a b : Nat) (s : State) : Out := cmp3 s (fun x y => x.ult y) d a b
/-- `cmp.gen` (R182). -/
def execCmpGen (d a b : Nat) (s : State) : Out := cmp3 s (fun x y => !(x.ult y)) d a b
/-- `sel sD, sA, sB`: on the old sD (R182). -/
def execSel (d a b : Nat) (s : State) : Out :=
  scalarGo s [d, a, b] [d] [] (fun x => s.writeS x d (if x.sr d ≠ 0#64 then x.sr a else x.sr b))
/-- `lea sD, sA, sB, k` (R184). -/
def execLea (k d a b : Nat) (s : State) : Out := alu3 s (fun x y => x + (y <<< k)) d a b
/-- `li` (R183). -/
def execLi (d im : Nat) (s : State) : Out := scalarGo s [] [d] [] (fun x => s.writeS x d (immS im))
/-- `lih` (R183). -/
def execLih (d im : Nat) (s : State) : Out := aluImm s (fun v => (v <<< 16) ||| immZ im) d
/-- `addi` (R183). -/
def execAddi (d im : Nat) (s : State) : Out := aluImm s (fun v => v + immS im) d
/-- `andi` (R183). -/
def execAndi (d im : Nat) (s : State) : Out := aluImm s (fun v => v &&& immZ im) d
/-- `ori` (R183). -/
def execOri (d im : Nat) (s : State) : Out := aluImm s (fun v => v ||| immZ im) d
/-- `xori` (R183). -/
def execXori (d im : Nat) (s : State) : Out := aluImm s (fun v => v ^^^ immZ im) d
/-- `shli` (R183). -/
def execShli (d im : Nat) (s : State) : Out := aluImm s (fun v => sShl v (immZ im)) d
/-- `shri` (R183). -/
def execShri (d im : Nat) (s : State) : Out := aluImm s (fun v => sShr v (immZ im)) d
/-- `srai` (R183). -/
def execSrai (d im : Nat) (s : State) : Out := aluImm s (fun v => sSra v (immZ im)) d
/-- `jmp t` (R191). -/
def execJmp (o : Nat) (s : State) : Out := scalarGo s [] [] [] (fun x => s.setGrp s.cur { x with pc := sjTarget x o })
/-- `call t`: s1 receives the address after it (R191). -/
def execCall (o : Nat) (s : State) : Out :=
  scalarGo s [] [1] [] (fun x => s.setGrp s.cur { x.setSr 1 (x.pc + 4#64) with pc := sjTarget x o })
/-- `ret` (R191). -/
def execRet (s : State) : Out := scalarGo s [1] [] [] (fun x => s.setGrp s.cur { x with pc := x.sr 1 })
/-- `jr sA` (R191). -/
def execJr (a : Nat) (s : State) : Out := scalarGo s [a] [] [] (fun x => s.setGrp s.cur { x with pc := x.sr a })
/-- `br.eq` (R191). -/
def execBrEq (a o : Nat) (s : State) : Out := branchIf s (fun v => v == 0#64) a o
/-- `br.ne` (R191). -/
def execBrNe (a o : Nat) (s : State) : Out := branchIf s (fun v => v != 0#64) a o
/-- `br.lt` (R191). -/
def execBrLt (a o : Nat) (s : State) : Out := branchIf s (fun v => v.slt 0#64) a o
/-- `br.ge` (R191). -/
def execBrGe (a o : Nat) (s : State) : Out := branchIf s (fun v => !(v.slt 0#64)) a o
/-- `br.gt` (R191). -/
def execBrGt (a o : Nat) (s : State) : Out := branchIf s (fun v => (0#64).slt v) a o
/-- `br.le` (R191). -/
def execBrLe (a o : Nat) (s : State) : Out := branchIf s (fun v => !((0#64).slt v)) a o
/-- `nop` (R211). -/
def execNop (s : State) : Out := scalarGo s [] [] [] (fun x => s.setGrp s.cur x.adv)

end Sys2Proof.Machine
end

