-- ==== Sys2Proof/Machine/Issue.lean ====
section
/-!
DEFINITION. Lane issue: which groups issue (02 R36, 08 R137, 22 R339, 29 R447), `vrun` (11 R193), the choice of a quadrant
(23 R367), the pricing of instructions by `vcost` (08 R139, 11 R209), uncorrectable data met by the lanes (25 R395).
-/
namespace Sys2Proof.Machine

/-! ## `vrun` (R193, R155) -/

/-- The class field of a lane word (R149). -/
def laneClass (w : Nat) : Nat := bits w 87 85

/-- What stands at a block start. -/
inductive BlockHead where
  | lane
  /-- A direct instruction; none where its encoding is no instruction. -/
  | direct (i : Option Instr)
  | missing (page : Nat)
  | spoilt (loc : Nat × Nat)
  | bad
  deriving DecidableEq, Repr

/-- The first instruction of a block (R155, R193). -/
def State.blockHead (s : State) (x : Group) (b : Nat) : BlockHead :=
  match s.fetchLane x b with
  | .bad => .bad
  | .missing pg => .missing pg
  | .spoilt loc => .spoilt loc
  | .bytes bs =>
    if laneClass (leNat (bs.take 12)) = 6 then
      .direct (match decodeLaneBytes bs with | .ok (i, _) => some i | .error _ => none)
    else .lane

/-- A block enters the lane queue with what the running path holds (R15, R56, R317). -/
def Group.enqueue (x : Group) (b : Nat) : Group :=
  { x with queue := x.queue ++ [{ start := b, mask := x.m0, fmt := x.fmt, sigdim := x.sigdim, sigdepth := x.sigdepth, vpc := x.pc.toNat, stklim := x.stklim }] }

/-- `vrun b` (R193). -/
def execVrun (b : Nat) (s : State) : Out :=
  match s.blockHead s.me b with
  | .direct (some (.cpy a)) => execCpy a s
  | .direct (some (.cpy2d a)) => execCpy2d a s
  | .direct (some (.coll a)) => execColl a s
  | .direct _ => scalarGo s [] [] [] (fun _ => s.trapGroup s.cur cIllegal)
  | .bad => scalarGo s [] [] [] (fun _ => s.trapGroup s.cur cFetch)
  | .missing pg => scalarGo s [] [] [] (fun _ => s.pageFaultScalar s.cur pg 3)
  | .spoilt loc => scalarGo s [] [] [] (fun _ => s.trapData loc)
  | .lane => scalarGo s [] [] [] (fun x => if 8 ≤ x.queue.length then s else s.setGrp s.cur (x.enqueue b).adv)

/-! ## The instruction at the head of the queue -/

/-- The meaning of a lane instruction; one of class 6 that the queue meets is illegal in every active lane (R155). -/
def laneDispatch (i : Instr) (s : State) : Out :=
  match i with
  | .vadd a => execVadd a s
  | .vsub a => execVsub a s
  | .vmul a => execVmul a s
  | .vmulh a => execVmulh a s
  | .vmad a => execVmad a s
  | .vmin a => execVmin a s
  | .vmax a => execVmax a s
  | .vand a => execVand a s
  | .vor a => execVor a s
  | .vxor a => execVxor a s
  | .vandn a => execVandn a s
  | .vshl a => execVshl a s
  | .vshr a => execVshr a s
  | .vsra a => execVsra a s
  | .vclz a => execVclz a s
  | .vpopc a => execVpopc a s
  | .vbrev a => execVbrev a s
  | .vbfe a => execVbfe a s
  | .vbfi a => execVbfi a s
  | .vcmp a => execVcmp a s
  | .vsel a => execVsel a s
  | .vmov a => execVmov a s
  | .vfadd a => execVfadd a s
  | .vfsub a => execVfsub a s
  | .vfmul a => execVfmul a s
  | .vfma a => execVfma a s
  | .vfms a => execVfms a s
  | .vfnma a => execVfnma a s
  | .vfmin a => execVfmin a s
  | .vfmax a => execVfmax a s
  | .vfdiv a => execVfdiv a s
  | .vfsqrt a => execVfsqrt a s
  | .vfcmp a => execVfcmp a s
  | .vfcls a => execVfcls a s
  | .vcvt a => execVcvt a s
  | .vexp2 a => execVexp2 a s
  | .vlog2 a => execVlog2 a s
  | .vsin a => execVsin a s
  | .vcos a => execVcos a s
  | .vrcp a => execVrcp a s
  | .vrsq a => execVrsq a s
  | .vbfly a => execVbfly a s
  | .vtwid a => execVtwid a s
  | .vcmul a => execVcmul a s
  | .vdot a => execVdot a s
  | .vld a => execVld a s
  | .vst a => execVst a s
  | .vldg a => execVldg a s
  | .vstg a => execVstg a s
  | .vlds a => execVlds a s
  | .vsts a => execVsts a s
  | .vldd a => execVldd a s
  | .vstd a => execVstd a s
  | .vprf a => execVprf a s
  | .vatom a => execVatom a s
  | .vatomOrd a => execVatomOrd a s
  | .vbank a => execVbank a s
  | .fence a => execFence a s
  | .tld a => execTld a s
  | .tst a => execTst a s
  | .tzero a => execTzero a s
  | .tmma a => execTmma a s
  | .tmmq a => execTmmq a s
  | .tcvt a => execTcvt a s
  | .tadd a => execTadd a s
  | .tmerge a => execTmerge a s
  | .sigz a => execSigz a s
  | .sigx a => execSigx a s
  | .sigj a => execSigj a s
  | .siglog a => execSiglog a s
  | .vshfl a => execVshfl a s
  | .vred a => execVred a s
  | .vscan a => execVscan a s
  | .vbcast a => execVbcast a s
  | .vtos a => execVtos a s
  | .vmsk a => execVmsk a s
  | .vlid a => execVlid a s
  | .ivcmp a => execIvcmp a s
  | .ivhull a => execIvhull a s
  | .ivwid a => execIvwid a s
  | .ivsum a => execIvsum a s
  | _ => .next (s.laneCause s.me 0 cIllegal)

/-- The mask field of a lane word (R149); classes 5 and 6 have none. -/
def laneMaskField (w : Nat) : Nat := if laneClass w = 5 ∨ laneClass w = 6 then 0 else bits w 52 49

/-- A fault of the instruction at the head that concerns the whole group (R57, R150). -/
def State.laneGroupCause (s : State) (x : Group) (code : Nat) : State := s.trapLanes s.cur code x.m0 true

/-- One lane instruction of a group: the head of its queue is passed over, fetched and executed, or refused by its
cause. -/
def State.laneStep (s0 : State) (g : Nat) : State :=
  let s := { s0 with cur := g }
  let x := s.grp g
  match x.queue with
  | [] => s0
  | b :: _ =>
    let p := b.start + b.pos
    if b.redo = some 0#32 then s.setGrp g (x.popLane (s.laneEnd x p || b.pos == 255))
    else
      match s.fetchLane x p with
      | .bad => s.laneGroupCause x cFetch
      | .spoilt loc => (s.postGrp g .fault 4 cData loc.1 loc.2).laneGroupCause x cData
      | .missing pg => s.pageFault g [(pg, 3)] (some b) (fun t => t.laneGroupCause (t.grp g) cPage)
      | .bytes bs =>
        let w := leNat (bs.take 12)
        if b.pos = 255 ∧ w % 2 = 0 then s.laneCause x (laneMaskField w) cIllegal
        else
          match decodeLaneBytes bs with
          | .error _ => s.laneCause x (laneMaskField w) cIllegal
          | .ok (i, _) =>
            match laneDispatch i s with
            | .next t => t
            | _ => s

/-! ## The quadrant schedulers (R367) -/

/-- The head of a group's queue has moved, or a cause has been raised. -/
def Group.movedOn (x y : Group) : Bool :=
  y.queue.length != x.queue.length || y.head.pos != x.head.pos || y.head.redo != x.head.redo || y.trap != x.trap ||
  y.residence != x.residence || y.pfWait != x.pfWait || y.replay != x.replay

/-- The group runs a handler path with a live trap record. -/
def Group.handling (x : Group) : Bool := x.trap.isSome

/-- One candidate goes before another: the preferred slot of the tick, a live trap record or an open handler window, the
least recent issue, the slot index. -/
def State.laneFirst (s : State) (a b : Group) : Bool :=
  let odd (x : Group) : Bool := x.slot != s.atick % 2
  if odd a ≠ odd b then odd b
  else if a.handling ≠ b.handling then a.handling
  else if a.lastIssue ≠ b.lastIssue then decide (a.lastIssue < b.lastIssue)
  else decide (a.sidx < b.sidx)

/-- Inserts a candidate in its place. -/
def State.insertLane (s : State) (kv : Nat × Group) : List (Nat × Group) → List (Nat × Group)
  | [] => [kv]
  | h :: t => if s.laneFirst kv.2 h.2 then kv :: h :: t else h :: s.insertLane kv t

/-- The groups of a quadrant with lane work, in the order of the choice. A group whose paths all wait for their join sets issues no
scalar instruction (R50); what it has queued before issues all the same. DEDUCED (log 173): R50 stops the thread, and R16 lets the
queue go its own way. -/
def State.laneCandidates (s : State) (core quad : Nat) : List (Nat × Group) :=
  (s.groups.filter (fun kv => kv.2.core == core && kv.2.sidx % 4 == quad && !kv.2.queue.isEmpty && s.issuing kv.2)).foldr s.insertLane []

/-- The word of the instruction at the head of a group's queue. -/
def State.headWord (s : State) (x : Group) : Nat :=
  match s.fetchLane x (x.head.start + x.head.pos) with
  | .bytes bs => leNat (bs.take 12)
  | _ => 0

/-- The ticks for which an instruction occupies its quadrant (R217). -/
def occupancy (i : Instr) : Nat :=
  let wide (t : Ty) : Nat := if tyIs64 t then 2 else 1
  match i with
  | .vadd a | .vsub a | .vmul a | .vmulh a | .vmad a | .vmin a | .vmax a | .vand a | .vor a | .vxor a | .vandn a | .vshl a
  | .vshr a | .vsra a | .vclz a | .vpopc a | .vbrev a | .vbfe a | .vbfi a | .vcmp a | .vsel a | .vmov a | .vfadd a | .vfsub a
  | .vfmul a | .vfma a | .vfms a | .vfnma a | .vfmin a | .vfmax a | .vfcmp a | .vfcls a | .vshfl a | .vbcast a | .vlid a
  | .vtos a => wide a.ty
  | .vcvt a => Nat.max (wide a.ty) (wide (tyOf a.md))
  | .vexp2 _ | .vlog2 _ | .vsin _ | .vcos _ | .vrcp _ | .vrsq _ | .vbfly _ | .vtwid _ | .vcmul _ => 2
  | .vred _ | .vscan _ => 3
  | .vfdiv a | .vfsqrt a => if a.ty = .f64 then 8 else 4
  | _ => 1

/-- A group has been stopped by the test of R134: a trap of vacate-bound, or a stop where it has no trap vector. -/
def Group.boundTrap (x y : Group) : Bool :=
  (y.stopped && !x.stopped) || (y.trap != x.trap && (match y.trap with | some r => r.tcause.toNat % 65536 == cVbound | none => false))

/-- What an instruction of a group's pipe has come to, within the order of R134: where it would trap beside a charge that an
operation later in the order has made in this tick, it has not reached the test in this tick. -/
def State.inOrder (s t : State) (g : Nat) (x : Group) (lane : Bool) : State :=
  let key := x.issueKey lane
  if x.boundTrap (t.grp g) && s.chargedAfter x.ctx key then s
  else if (s.ctx x.ctx).ledger.length < (t.ctx x.ctx).ledger.length then { t with marks := .charged x.ctx key :: t.marks }
  else t

/-- The first candidate whose instruction issues; it occupies its quadrant. -/
def State.issueFirst (s : State) : List (Nat × Group) → State
  | [] => s
  | (g, x) :: t =>
    let u := s.inOrder (s.laneStep g) g x true
    if x.movedOn (u.grp g) then
      let n := match s.laneAt x (x.head.start + x.head.pos) with | some i => occupancy i | none => 1
      let v := { (u.setGrp g { u.grp g with lastIssue := u.clock + 1, age := some (x.age.getD s.atick) }) with
        cur := s.cur, clock := u.clock + 1, quadFree := u.quadFree.put (4 * x.core + x.sidx % 4) (s.atick + n) }
      let w := s.headWord x
      v.sampleIssue s g (bits w 95 64) true (x.active (laneMaskField w))
    else s.issueFirst t

/-- LANE_ISSUE (R367, R217): a quadrant whose last instruction occupies it no longer issues one lane instruction. -/
def execLaneIssue (core quad : Nat) (s : State) : Out :=
  .next (if s.atick < Map.get 0 s.quadFree (4 * core + quad) then s else s.issueFirst (s.laneCandidates core quad))

/-! ## Uncorrectable data (R395) -/

/-- The marked register entries that the scalar instruction at `pc` raises where no lane has read them: all of them at `vsync`,
`vgrow`, `vshrink` and `end`, those that it covers at a `wcnt`. -/
def State.leftoverKeys (s : State) (x : Group) : List Nat :=
  match s.fetchScalar x x.pc.toNat with
  | .bytes bs => match decode bs with
    | .ok (.vsync, _) => x.verr
    | .ok (.vgrow _, _) => x.verr
    | .ok (.vshrink _, _) => x.verr
    | .ok (.endPath, _) => x.verr
    | .ok (.wcnt l _ _ _ _, _) => x.covered l
    | _ => []
  | _ => []

/-- UNCORRECTABLE_CONSUME (R395): the lane instruction at the head reads a marked register, or the group reaches an
instruction that raises what no lane has read. -/
def execUncorrectableConsume (g : Nat) (s : State) : Out :=
  .next (match Map.find s.groups g with
    | none => s
    | some x =>
      if x.verr.isEmpty || !(s.issuing x) then s
      else if x.queue ≠ [] then
        let t := s.laneStep g
        let y := t.grp g
        if (x.trap.isNone && (match y.trap with | some r => r.tcause.toNat % 256 == cData | none => false)) || y.stopped then { t with cur := s.cur } else s
      else if s.canScalar x && x.pend.isEmpty then { ({ s with cur := g }).leftover x (s.leftoverKeys x) s with cur := s.cur }
      else s)

/-! ## Pricing (R139, R209) -/

/-- What an access would charge: a page that is missing counts as host; an access that would fault would not issue, and charges
nothing. DESIGN CHOICE (log 65): R139 and R209 do not say what such an access is priced at. -/
def State.pricePart (s : State) (x : Group) (atomic apart : Bool) (c : LaneAcc) : List Item :=
  match c.res with
  | .ok p => s.partItems s.cur x atomic apart { lane := c.lane, va := c.va, place := p, size := c.size }
  | .missing _ =>
    let key := if atomic then c.va else c.va / 32
    [s.physItem x.ctx 3 (2 ^ 45) (if apart then 32 * c.va + c.lane else key) false (if inPrivate c.va then 128 else 32)]
  | .cause _ => []

/-- The accesses of a class-3 or class-4 instruction, priced. -/
def State.priceMem (s : State) (x0 : Group) (a : MArgs) (f : Form) (dome : Bool) (w : Want) (k : AccessKind) (size : Nat) : Costs :=
  let x := if f = .window then s.refill x0 a.win else x0
  let m := x.active a.msk
  costsOf ((lanesOf m).flatMap (fun l =>
    let os := if x.interval && k == .load then x.ivlOffset a l else (x.laneOffset f a.va a.im l, size)
    s.pricePart x k.isAtomic k.apart (s.laneAccess x f a.win dome w l os.1 os.2)))

/-- Rows of a tile operation, a missing page priced as host. -/
def priceRows (as : List LaneAcc) : List Part :=
  as.filterMap (fun c => match c.res with
    | .ok p => some { lane := c.lane, va := c.va, place := p, size := c.size }
    | .missing _ => some { lane := c.lane, va := c.va, place := .phys (2 ^ 45) 0 3 0, size := c.size }
    | .cause _ => none)

/-- A tile operation priced. -/
def State.priceTile (s : State) (x0 : Group) (k : TileKind) (a : TArgs) : Costs :=
  let x := s.refill x0 a.win
  let rows := match k with
    | .tld => priceRows (s.rowAccesses x a .rd)
    | .tst => priceRows (s.rowAccesses x a .wr)
    | .tmerge => priceRows (s.mergeAccesses x a)
    | _ => []
  s.tileCosts { s.tileOpOf x k a [] with rows := rows }

/-- What a lane instruction, or a direct one, would charge. -/
def State.priceLane (s : State) (x : Group) (i : Instr) : Costs :=
  match i with
  | .vld a => s.priceMem x a .window false .rd .load (szBytes a.sz)
  | .vldg a => s.priceMem x a .pair false .rd .load (szBytes a.sz)
  | .vlds a => s.priceMem x a .scratch false .rd .load (szBytes a.sz)
  | .vldd a => s.priceMem x a .window true .rd .load (szBytes a.sz)
  | .vst a => s.priceMem x a .window false .wr .store (szBytes a.sz)
  | .vstg a => s.priceMem x a .pair false .wr .store (szBytes a.sz)
  | .vsts a => s.priceMem x a .scratch false .wr .store (szBytes a.sz)
  | .vstd a => s.priceMem x a .window true .wr .store (szBytes a.sz)
  | .vatom a => s.priceMem x a (formOf a.am) false .at_ (.atomic a.md a.ty a.rm) (tyWidth a.ty / 8)
  | .vatomOrd a => s.priceMem x a (formOf a.am) true .at_ (.ordered a.md a.ty a.rm 0) (tyWidth a.ty / 8)
  | .vbank a => s.priceMem x a (formOf a.am) true .at_ (.bank a.md a.ty a.rm) (tyWidth a.ty / 8)
  | .tld a => s.priceTile x .tld a
  | .tst a => s.priceTile x .tst a
  | .tzero a => s.priceTile x .tzero a
  | .tmma a => s.priceTile x .tmma a
  | .tmmq a => s.priceTile x .tmmq a
  | .tcvt a => s.priceTile x .tcvt a
  | .tadd a => s.priceTile x .tadd a
  | .tmerge a => s.priceTile x .tmerge a
  | .sigz a => s.priceTile x .sigz a
  | .sigx a => s.priceTile x .sigx a
  | .sigj a => s.priceTile x .sigj a
  | .siglog a => s.priceTile x .siglog a
  | .cpy a => s.copyCosts (s.copyOf s.cur x a false)
  | .cpy2d a => s.copyCosts (s.copyOf s.cur x a true)
  | .coll a => match s.collCheck x a with
    | .ok j => s.collPrice x.ctx (dieOfCore x.core) j
    | .error _ => []
  | _ => []

/-- The costs of a block's instructions, summed on each resource (R209). -/
def State.priceBlock (s : State) (x : Group) (start pos : Nat) : Nat → Costs
  | 0 => []
  | n + 1 =>
    let c := match s.laneAt x (start + pos) with | some i => s.priceLane x i | none => []
    (if s.laneEnd x (start + pos) then [] else s.priceBlock x start (pos + 1) n).foldl (fun (cs : Costs) k => cs.add k) c

/-- A scalar access priced. -/
def State.priceScalarAccess (s : State) (x : Group) (va size : Nat) (w : Want) (k : AccessKind) : Costs :=
  costsOf (s.pricePart x k.isAtomic false { lane := 0, res := s.resolve s.cur x true va size w, va := va, size := size })

/-- What the instruction at a target would charge if it issued now. -/
def State.price (s : State) (x : Group) (i : Instr) : Costs :=
  match i with
  | .lds _ a sz _ _ _ => s.priceScalarAccess x (x.sr a).toNat (2 ^ sz) .rd .load
  | .sts _ a sz _ _ => s.priceScalarAccess x (x.sr a).toNat (2 ^ sz) .wr .store
  | .satom _ a _ _ _ w => s.priceScalarAccess x (x.sr a).toNat (if w = 1 then 8 else 4) .at_ (.atomic 0 .n32 0)
  | .wwait _ a => s.priceScalarAccess x (x.sr a).toNat 8 .rd .load
  | .tkt _ a => s.priceScalarAccess x (x.sr a).toNat 8 .rd .load
  | .launch _ a => costsOf (s.recordItems x (x.sr a).toNat)
  | .stkflush => costsOf (s.flushItems x ((s.stackOfGroup x s.cur).filter (fun n => n.dirty != 0#32)))
  | .vrun b => s.priceBlock { x with queue := [{ start := b, mask := x.m0, fmt := x.fmt, sigdim := x.sigdim, sigdepth := x.sigdepth, vpc := x.pc.toNat, stklim := x.stklim }] } b 0 256
  | _ => []

/-- `vcost sD, t` (R209): it waits for the registers that the priced instruction reads; a target outside SSIZE raises the
instruction-fetch fault. -/
def execVcost (d o : Nat) (s : State) : Out :=
  scalarGo s [] [d] [] (fun x =>
    let target : Int := (x.pc.toNat : Int) + 4 * sext 16 o
    if x.queue ≠ [] ∨ x.pendS ≠ [] ∨ x.pendV ≠ [] then s
    else if target < 0 then s.trapGroup s.cur cFetch
    else
      match s.fetchScalar x target.toNat with
      | .bad => s.trapGroup s.cur cFetch
      | .missing pg => s.pageFaultScalar s.cur pg 3
      | .spoilt loc => s.trapData loc
      | .bytes bs =>
        let cs := match decode bs with | .ok (i, _) => s.price x i | .error _ => []
        s.writeS x d (BitVec.ofNat 64 (Nat.min noService cs.top)))

end Sys2Proof.Machine
end

