-- ==== Sys2Proof/Machine/Launch.lean ====
section
/-!
DEFINITION. Groups and launches: register grants and saves (02 R36 to R40), the stack cache's background work (04 R77),
binding and placing launches (02 R24 to R26, R456, 10 R173 to R175, 23 R364, R365), their completion (R27, R360), deferred
atomics (13 R257), replay divergence (28 R444).
-/
namespace Sys2Proof.Machine

/-! ## Register requests (R37 to R39) -/

/-- One group is older than another (R38): the tick of its first instruction, then `%bid`, then `%gid`. -/
def State.older (s : State) (a b : Group) : Bool :=
  let age (x : Group) : Nat := x.age.getD (2 ^ 64)
  let bid (x : Group) : Nat := (s.blk x.block).bid
  if age a ≠ age b then decide (age a < age b)
  else if bid a ≠ bid b then decide (bid a < bid b)
  else decide (a.gid < b.gid)

/-- The oldest of a list of groups. -/
def State.oldest (s : State) (xs : List (Nat × Group)) : Option (Nat × Group) :=
  xs.foldl (fun (b : Option (Nat × Group)) kv =>
    match b with
    | some h => if s.older kv.2 h.2 then some kv else b
    | none => some kv) none

/-- The youngest of a list of groups. -/
def State.youngest (s : State) (xs : List (Nat × Group)) : Option (Nat × Group) :=
  xs.foldl (fun (b : Option (Nat × Group)) kv =>
    match b with
    | some h => if s.older h.2 kv.2 then some kv else b
    | none => some kv) none

/-- The units of 8 that a group asks for, and the order number of its request. -/
def Group.asks (x : Group) : Option (Nat × Nat) := match x.wait with | .vgrow n t => some (n, t) | _ => none

/-- The oldest request of a slot, where it fits and no saved group comes before it (R38, R39). -/
def State.grantable (s : State) (core slot : Nat) : Option (Nat × Group × Nat) :=
  match s.oldest ((s.slotGroups core slot).filter (fun kv => kv.2.asks.isSome)) with
  | some (g, x) =>
    match x.asks with
    | some (n, t) =>
      let before := s.groups.any (fun kv => kv.2.core == core && kv.2.slot == slot && kv.2.residence == .saved 4 && decide (kv.2.savedAt ≤ t))
      if 8 * n ≤ s.freeV core slot ∧ before = false then some (g, x, n) else none
    | none => none
  | none => none

/-- VGROW_GRANT (R38): the slot is 2 core + slot letter. The new registers read 0. -/
def execVgrowGrant (slot : Nat) (s : State) : Out :=
  .next (match s.grantable (slot / 2) (slot % 2) with
    | some (g, x, n) => s.setGrp g { (x.zeroFrom (8 * x.valloc)).adv with valloc := x.valloc + n, wait := .none }
    | none => s)

/-- VGROW_DEADLOCK_SAVE (R39): every resident group of the slot is blocked and the oldest request does not fit. -/
def execVgrowDeadlockSave (slot : Nat) (s : State) : Out :=
  .next (
    let xs := s.slotGroups (slot / 2) (slot % 2)
    if xs = [] ∨ xs.any (fun kv => kv.2.asks.isNone) = true ∨ (s.grantable (slot / 2) (slot % 2)).isSome = true then s
    else
      let big := xs.filter (fun kv => decide ((s.kd kv.2).vmin < kv.2.valloc))
      match (match s.youngest big with | some h => some h | none => s.youngest xs) with
      | some (g, x) => if x.pend = [] then ({ s with clock := s.clock + 1 }.setGrp g { x with savedAt := s.clock + 1 }).saveGroup g 4 else s
      | none => s)

/-! ## Restores (R40, R398) -/

/-- The cause of a declined page fault: for the lanes concerned, or for the group at its scalar instruction. -/
def State.declineTrap (s : State) (g : Nat) (replay : Option LaneBlock) : State :=
  match replay with
  | some b =>
    let x := s.grp g
    (match b.redo with
     | some f => s.trapLanes g cPage f
     | none => if b.mask = 0#32 then s.trapLanes g cPage x.m0 true else s.trapLanes g cPage b.mask)
  | none => s.trapGroup g cPage

/-- The context's groups may come back to their slots (R399). -/
def State.restores (s : State) (c : Nat) : Bool := (s.ctx c).st == .running && (s.ctx c).lkFault.isNone

/-- A debug-stopped group that is to resume comes back from its frame as it stands; a frame that breaks a limit of R353 stops the
group with double-fault (R436). -/
def State.debugRestore (s : State) (g : Nat) : State :=
  let x := s.grp g
  if x.dbgGo && s.restores x.ctx && s.fits x then
    if s.frameOk x then
      let s1 := s.restoreGroup g
      s1.setGrp g { s1.grp g with dbgGo := false, atEdge := false }
    else s.stopGroup g cDouble x.m0
  else s

/-- GROUP_RESTORE (R40): a group whose wait is over is restored where it fits. One saved in `vgrow` comes back when its
registers and its request both fit. -/
def execGroupRestore (g : Nat) (s : State) : Out :=
  .next (match Map.find s.groups g with
    | none => s
    | some x =>
      if !(s.restores x.ctx) then s
      else
        match x.residence with
        | .saved 1 =>
          if x.pfWait.isEmpty && s.fits x then
            let s1 := s.restoreGroup g
            if x.declined then (s1.setGrp g { s1.grp g with declined := false }).declineTrap g x.replay else s1
          else s
        | .saved 4 =>
          (match x.asks with
           | some (n, _) => if 8 * (x.valloc + n) ≤ s.freeV x.core x.slot ∧ s.fits x = true then s.restoreGroup g else s
           | none => if s.fits x then s.restoreGroup g else s)
        | .saved 0 => s.debugRestore g
        | _ => s)

/-! ## The stack cache in the background (R77) -/

/-- A line written back stays, clean; one that cannot be written stays dirty, until a PFDONE or a shootdown (R77). -/
def State.cleanLine (s : State) (ln : StackLine) : State :=
  let (s1, ok) := s.writeBack ln
  { s1 with stack := s1.stack.map (fun (n : StackLine) => if n.same ln then (if ok then { n with dirty := 0#32, stuck := false } else { n with stuck := true, again := false }) else n) }

/-- The lines that a core's stack cache writes back in the background: dirty ones while it is more than three-quarters full
(R77), and those of a context that is off the cores (R137, R350), where their memory serves them (R382, R407). -/
def State.backgroundLines (s : State) (core : Nat) : List StackLine :=
  let full := decide (384 < (s.stack.filter (fun n => n.core == core)).length)
  s.stack.filter (fun n => n.core == core && n.dirty != 0#32 && !n.stuck && s.backServed n.ctx n.backing &&
    (full || ((s.ctx n.ctx).st != .running && (s.ctx n.ctx).st != .vacating)))

/-- STACK_WRITEBACK (R77): the least recently used of them. -/
def execStackWriteback (core : Nat) (s : State) : Out :=
  .next (match leastUsed (s.backgroundLines core) with
    | some ln => s.cleanLine ln
    | none => s)

/-- STACK_WRITEBACK_RETRY (R77): the lines whose write-back failed, tried again once a PFDONE or a shootdown has come. -/
def execStackWritebackRetry (core : Nat) (s : State) : Out :=
  .next ((s.stack.filter (fun n => n.core == core && n.stuck && n.again && s.backServed n.ctx n.backing)).foldl State.cleanLine s)

/-! ## Spans and partitions (R21, R24) -/

/-- A context holds a slot. -/
def Ctx.holds (x : Ctx) (core slot : Nat) : Bool := x.part.getLsbD (2 * core + slot)

/-- The cores of a span. -/
def spanCores (core0 span : Nat) : List Nat := (List.range span).map (fun i => core0 + i)

/-- The aligned spans that a set of slots provides in a kernel's mode, by first core, slot A before slot B (R24, R25). -/
def spansOf (holds : Nat → Nat → Bool) (k : KDesc) : List (Nat × Nat) :=
  let span := 2 ^ k.spanCode
  (List.range (720 / span)).flatMap (fun n =>
    let cs := spanCores (span * n) span
    if k.wide then (if cs.all (fun c => holds c 0 && holds c 1) then [(span * n, 0)] else [])
    else (List.range 2).filterMap (fun sl => if cs.all (fun c => holds c sl) then some (span * n, sl) else none))

/-- The number of cores in a partition. -/
def Ctx.cores (x : Ctx) : Nat := ((List.range 720).filter (fun c => x.holds c 0 || x.holds c 1)).length

/-- A slot of a core that is not retired. -/
def State.sound (s : State) (core _slot : Nat) : Bool := !(s.retCores.contains core) && !(s.retDies.contains (dieOfCore core))

/-! ## Binding (R173, R174, R364) -/

/-- The descriptor breaks a limit of R173. -/
def KDesc.bad (k : KDesc) : Bool :=
  let off (o : Nat) : Bool := decide (k.ssize ≤ o) || o % 4 != 0
  !k.reservedZero || k.spanCode == 3 || k.g == 0 || (if k.wide then decide (192 < k.g) || k.g % 2 == 1 else decide (96 < k.g)) ||
  decide (k.smax < k.smin) || decide (k.vmax < k.vmin) || k.smin == 0 || k.vmin == 0 || decide (16 < k.smax) || decide (32 < k.vmax) ||
  decide ((if k.wide then 512 else 256) < k.scr) || decide (16 < k.rgn) || off k.entry || (k.trapv != 0xFFFFFFFF && off k.trapv) ||
  (k.vh && off k.vhand) || (k.iv && off k.ivent) || (k.fmtv && !(fmtValid k.fmtw)) || k.priv % 16 != 0

/-- Groups of a block that one slot holds. -/
def KDesc.perSlot (k : KDesc) : Nat := if k.wide then k.g / 2 else k.g

/-- The minima fit no slot, or no frame (R173). -/
def KDesc.tooBig (k : KDesc) : Bool :=
  decide (4096 < k.perSlot * k.vmin * 8) || decide (32768 < k.perSlot * k.smin * 64) || !(allocFits k.smin k.vmin)

/-- The unit order table names each index once (R29). -/
def State.orderBad (s : State) (c : Nat) (r : LRec) : Bool :=
  let at_ (i : Nat) : Nat := s.vRead c (r.uorder + 4 * i) 4
  !((List.range r.units).all (fun i => (List.range r.units).any (fun j => at_ j == i)))

/-- The patch of a relocation for a partition of n cores (R170, R457). -/
def Reloc.patch (r : Reloc) (n : Nat) : Patch :=
  match r.typ with
  | 1 => ⟨r.addr, leBytes 8 r.value⟩
  | 2 => ⟨r.addr, leBytes 2 (r.value / 2 ^ (16 * r.param))⟩
  | _ => if r.param = 0 then ⟨r.addr, leBytes 2 n⟩ else ⟨r.addr, leBytes 8 n⟩

/-- A relocation as it stands in a copy that lies d bytes beyond the linked image. -/
def Reloc.moved (r : Reloc) (d : Nat) : Reloc := { r with addr := r.addr + d, value := r.value + d }

/-- The linked image of a launch's kernel, where the loader has one; without one, what the context's memory holds is taken to be
linked and relocated (log 112). -/
def State.imageOf (s : State) (x : Launch) : Option LinkedImage := Map.find s.images (2 ^ 57 * x.ctx + x.lr.kdesc)

/-- A place for a copy of the image that no launch in flight has (R175). -/
def State.copyPlaceOf (s : State) (x : Launch) (im : LinkedImage) : Option CopyPlace :=
  im.places.find? (fun p => !(s.launches.any (fun kv => kv.2.ctx == x.ctx && kv.2.lr.kdesc == x.lr.kdesc && kv.2.copyAt == some p.delta &&
    (kv.2.phase == .bound || kv.2.phase == .running))))

/-- A page of dome data mapped in the dome of a die (R73, R174); no TLB holds what it was before. -/
def State.mapDome (s : State) (c die : Nat) (p : DomePage) : State :=
  let w : Nat := p.leaf.toNat % 2 ^ 16 + 2 ^ 16 * (p.frames.getD die 0 / 65536) + 2 ^ 52 * bits p.leaf.toNat 58 52 + 2 ^ 59 * 5 + 2 ^ 62 * bits p.leaf.toNat 63 62
  let s1 := s.writeMem p.leafAt (leBytes 8 w)
  { s1 with tlb := s1.tlb.filter (fun e => !(e.ctx == c && e.va == p.va)) }

/-- The launch's own copy of the image, relocated for n cores and the die of its lowest core (R174, R175). -/
def State.makeCopy (s : State) (c die n : Nat) (im : LinkedImage) (p : CopyPlace) : State :=
  let s1 := p.dome.foldl (fun (t : State) d => t.mapDome c die d) s
  let s2 := im.parts.foldl (fun (t : State) a => t.vWriteBytes c (a.1 + p.delta) ((List.range a.2).map (fun i => s1.vByte c (a.1 + i)))) s1
  im.relocs.foldl (fun (t : State) r => let q := (r.moved p.delta).patch n; t.vWriteBytes c q.addr q.bytes) s2

/-- The lowest-numbered core of a partition (R174). -/
def Ctx.core0 (x : Ctx) : Nat := ((List.range 720).find? (fun c => x.holds c 0 || x.holds c 1)).getD 0

/-- The turret asks the belfry for slots (R364). -/
def State.wantSlots (s : State) (c : Nat) : State := let x := s.ctx c; s.setCtx c { x with slotWant := true }

/-- Bound: `B`, `%ncores`, the backing, the descriptor of its copy of the image, d bytes beyond the linked one, the constant table
as it stands; a relaunched one is recorded (R409). -/
def State.bound (s : State) (l d : Nat) (ps : List (Nat × Nat)) : State :=
  let x := s.lau l
  let n := (s.ctx x.ctx).cores
  let k := s.readDesc x.ctx (x.lr.kdesc + d)
  let y := { x with phase := .bound, kd := k, b := ps.length, ncores := n, pb := x.lr.privb, places := ps, budget := k.pushb
                    copyAt := some d, oldLid := none }
  let s0 := match x.oldLid with
    | some old => s.post x.ctx .event 20 0 x.lid 0xFFFF old n
    | none => s
  let s1 := s0.setLau l y
  let tab := (List.range k.csize).map (fun i =>
    match s1.fetchAt { launch := l, ctx := x.ctx } (k.cbase + 8 * i) 8 with
    | .bytes bs => BitVec.ofNat 64 (leNat bs)
    | _ => 0#64)
  s1.setLau l { y with ctab := tab }

/-- A launch bound (R174, R364): the descriptor is validated, `B` computed, the private size checked, a copy of the image made and
relocated. A launch for whose copy the loader has no place waits. -/
def State.bind (s : State) (l : Nat) : State :=
  match Map.find s.launches l with
  | none => s
  | some x =>
    let c := s.ctx x.ctx
    if x.phase ≠ .unbound ∨ (c.st ≠ .running ∧ c.st ≠ .ready) then s
    else
      let k := s.readDesc x.ctx x.lr.kdesc
      if k.bad then s.failLaunch l 1
      else if k.prio && s.orderBad x.ctx x.lr then s.failLaunch l 1
      else if k.tooBig then s.failLaunch l 2
      else
        let ps := spansOf c.holds k
        if ps = [] then
          if spansOf s.sound k = [] then s.failLaunch l 2 else s.wantSlots x.ctx
        else if x.lr.privsz < ps.length * k.perBlock * k.priv * 32 then s.failLaunch l 3
        else
          match s.imageOf x with
          | none => s.bound l 0 ps
          | some im =>
            match s.copyPlaceOf x im with
            | some p => (s.makeCopy x.ctx (dieOfCore c.core0) c.cores im p).bound l p.delta ps
            | none => s

/-- LAUNCH_BIND (R174, R364). -/
def execLaunchBind (l : Nat) (s : State) : Out := .next (s.bind l)

/-! ## Placing (R26, R456, R365) -/

/-- The blocks of a context that have not ended and lie on a core. -/
def State.blocksOn (s : State) (c core : Nat) : List (Nat × Block) :=
  s.blocks.filter (fun kv => kv.2.ctx == c && decide (kv.2.core0 ≤ core) && decide (core < kv.2.core0 + kv.2.span) &&
    s.groups.any (fun g => g.2.block == kv.1 && g.2.residence != .ended))

/-- The ranges of scratch in use on a core's slot, or on the core in wide mode. -/
def State.scrUsed (s : State) (c core slot : Nat) : List (Nat × Nat) :=
  ((s.blocksOn c core).filter (fun kv => kv.2.wide || kv.2.slot == slot)).map (fun kv =>
    let b := kv.2.bases.getD (core - kv.2.core0) 0
    (b, b + (s.lau kv.2.launch).kd.scr * 1024))

/-- A free base for a range of scratch: the lowest that fits. -/
def freeBase (used : List (Nat × Nat)) (size cap : Nat) : Option Nat :=
  ((0 :: used.map (fun r => r.2)).filter (fun b => decide (b + size ≤ cap) && used.all (fun r => decide (b + size ≤ r.1) || decide (r.2 ≤ b)))).foldl
    (fun (m : Option Nat) b => match m with | some a => some (Nat.min a b) | none => some b) none

/-- The bases of a block on the cores of its span, where its modes, registers and scratch fit. -/
def State.basesFor (s : State) (c : Nat) (k : KDesc) (slot : Nat) : List Nat → Option (List Nat)
  | [] => some []
  | core :: t =>
    let h := k.perSlot
    let slots := if k.wide then [0, 1] else [slot]
    if (s.blocksOn c core).any (fun kv => kv.2.wide != k.wide) then none
    else if slots.any (fun sl => decide (s.freeV core sl < 8 * h * k.vmin) || decide (s.freeS core sl < 64 * h * k.smin) ||
        decide (96 < (s.slotGroups core sl).length + h)) then none
    else
      match freeBase (s.scrUsed c core slot) (k.scr * 1024) (if k.wide then 524288 else 262144), s.basesFor c k slot t with
      | some b, some bs => some (b :: bs)
      | _, _ => none

/-- The lowest number below a bound that is not in a list. -/
def lowestFree (used : List Nat) (n : Nat) : Option Nat := (List.range n).find? (fun i => !(used.contains i))

/-- The locket frames of a context in use. -/
def State.frames (s : State) (c : Nat) : List Nat :=
  (s.groups.filter (fun kv => kv.2.ctx == c && kv.2.residence != .ended)).map (fun kv => kv.2.locket)

/-- A group as it starts (R18, R76, R115, R174, R303). DESIGN CHOICE (log 174): R173 sets no limit to SIGS, and a value outside those
of `%sigdim` and `%sigdepth` starts the registers as it stands. -/
def State.newGroup (s : State) (l b gid core slot sidx locket : Nat) : Group :=
  let x := s.lau l
  let k := x.kd
  { ctx := x.ctx, launch := l, block := b, gid := gid, core := core, slot := slot, sidx := sidx, salloc := k.smin, valloc := k.vmin
    pc := BitVec.ofNat 64 (if k.iv then k.ivent else k.entry), fmt := if k.fmtv then BitVec.ofNat 32 k.fmtw else 0x08840000#32
    stklim := k.priv, sigdim := Nat.max 1 (k.sigs % 256), sigdepth := Nat.max 1 (k.sigs / 256 % 256), interval := k.iv, locket := locket
    lfsr := (List.range 32).map (fun i => lfsrInit x.lr.seed (s.blk b).bid gid i) }

/-- The offset in a block's slot, or core, of a byte of scratch by its key (R70). -/
def scrOffset (wide : Bool) (k : Nat) : Nat :=
  let bank := k % 524288 / 8192
  let row := k % 8192 / 4
  4 * (if wide then 64 * row + bank else 32 * row + bank % 32) + k % 4

/-- The storage of a core's slots as a block of a context is placed there (R18, R262): the tiles of a slot, or of the core in wide
mode, that holds no other block read 0; no scratch byte of another context is left; a byte of the block's scratch that an earlier
block of the context left keeps its value or reads 0, which the spec leaves open. -/
def State.placeStorage (s : State) (c core slot : Nat) (wide : Bool) (base size : Nat) : State :=
  let is := if wide then [2 * core, 2 * core + 1] else [2 * core + slot]
  let s1 := if (s.blocksOn c core).any (fun kv => wide || kv.2.slot == slot) then s
    else { s with tiles := notSlots s.tiles 65536 is, tileErr := s.tileErr.filter (fun k => !(is.contains (k / 65536))) }
  let old := is.filter (fun i => Map.find s.scrOwner i != some c)
  let mine (k : Nat) : Bool :=
    is.contains (k / 262144) && decide (base ≤ scrOffset wide k) && decide (scrOffset wide k < base + size) && !(Config.freeChoice (s.freeCtr + k % 524288))
  { s1 with
    scratch := (notSlots s.scratch 262144 old).filter (fun kv => !(mine kv.1))
    scrErr := s.scrErr.filter (fun k => !(old.contains (k / 65536)))
    scrOwner := is.foldl (fun m i => m.put i c) s.scrOwner
    freeCtr := s.freeCtr + 524288 }

/-- The groups of a block, placed one after another. -/
def State.addGroups (s : State) (l b : Nat) (k : KDesc) (core0 slot : Nat) : List Nat → Option State
  | [] => some s
  | gid :: t =>
    let core := core0 + gid / k.g
    let sl := if k.wide then gid % 2 else slot
    let c := (s.lau l).ctx
    match lowestFree ((s.slotGroups core sl).map (fun kv => kv.2.sidx)) 96, lowestFree (s.frames c) (s.ctx c).lkcount.toNat with
    | some i, some f => ({ s with clock := s.clock + 1 }.setGrp (s.clock + 1) (s.newGroup l b gid core sl i f)).addGroups l b k core0 slot t
    | _, _ => none

/-- The blocks of a launch, placed in the order of their `%bid`; none where one does not fit. -/
def State.addBlocks (s : State) (l : Nat) : List ((Nat × Nat) × Nat) → Option State
  | [] => some s
  | ((core0, slot), bid) :: t =>
    let x := s.lau l
    let span := 2 ^ x.kd.spanCode
    match s.basesFor x.ctx x.kd slot (spanCores core0 span) with
    | none => none
    | some bs =>
      let b := s.blocks.fresh
      let s0 := ((spanCores core0 span).zip bs).foldl (fun (t : State) p => t.placeStorage x.ctx p.1 slot x.kd.wide p.2 (x.kd.scr * 1024)) s
      let s1 := { s0 with blocks := s.blocks.put b { launch := l, ctx := x.ctx, bid := bid, core0 := core0, span := span, slot := slot, wide := x.kd.wide, bases := bs } }
      match s1.addGroups l b x.kd core0 slot (List.range x.kd.perBlock) with
      | some s2 => s2.addBlocks l t
      | none => none

/-- The debug target of a launch at placement (R432): the lowest-numbered valid one that names its descriptor. -/
def Ctx.targetFor (x : Ctx) (kdesc : Nat) : Option Nat :=
  (x.targets.find? (fun kv => kv.2.tqctl.getLsbD 32 && kv.2.tkdesc.toNat == kdesc)).map (fun kv => kv.1)

/-- A new log starts with LOGFULL clear (R443). -/
def State.startLog (s : State) (l : Nat) : State :=
  let x := s.lau l
  match x.target with
  | some k =>
    let c := s.ctx x.ctx
    let t := Map.get {} c.targets k
    if t.tqctl.getLsbD 33 then s.setCtx x.ctx { c with targets := c.targets.put k { t with tqctl := t.tqctl &&& ~~~ BitVec.ofNat 64 (2 ^ 36) } } else s
  | none => s

/-- The whole launch placed, or none (R26). -/
def State.placed (s : State) (l : Nat) : Option State :=
  let x := s.lau l
  let c := s.ctx x.ctx
  if x.phase = .bound ∧ c.st = .running ∧ x.places.all (fun p => (spanCores p.1 (2 ^ x.kd.spanCode)).all (fun n =>
      if x.kd.wide then c.holds n 0 && c.holds n 1 else c.holds n p.2)) = true then
    match s.addBlocks l x.places.zipIdx with
    | some s1 => some ((s1.setLau l { s1.lau l with phase := .running, target := c.targetFor x.lr.kdesc }).startLog l)
    | none => none
  else none

/-- The children of a context in the pending pool, oldest first (R365). -/
def State.kids (s : State) (c : Nat) : List (Nat × Launch) :=
  let ks := s.launches.filter (fun kv => kv.2.ctx == c && kv.2.parent.isSome && kv.2.unplaced)
  let rec ins (kv : Nat × Launch) : List (Nat × Launch) → List (Nat × Launch)
    | [] => [kv]
    | h :: t => if kv.2.order < h.2.order then kv :: h :: t else h :: ins kv t
  ks.foldr ins []

/-- A pending child placed, bound first where it is not; none where it cannot be (R365). -/
def State.placedNow (s : State) (l : Nat) : Option State := (s.bind l).placed l

/-- The oldest pending child that can be placed, placed. -/
def State.placeKid (s : State) (c : Nat) : Option State := (s.kids c).findSome? (fun kv => s.placedNow kv.1)

/-- LAUNCH_PLACE (R26): a launch of a packet, behind every pending child that is older and can be placed (R365). -/
def execLaunchPlace (l : Nat) (s : State) : Out :=
  .next (match Map.find s.launches l with
    | none => s
    | some x =>
      if x.parent.isSome || (s.kids x.ctx).any (fun kv => decide (kv.2.order < x.order) && (s.placedNow kv.1).isSome) then s
      else (s.placed l).getD s)

/-- CHILD_PLACE (R365): the oldest pending child of a context that can be placed leaves the pool. -/
def execChildPlace (c : Nat) (s : State) : Out := .next ((s.placeKid c).getD s)

/-- JOINED_GROUP_SAVE (R36): a pending child cannot otherwise be placed; the youngest joined group is saved. -/
def execJoinedGroupSave (c : Nat) (s : State) : Out :=
  .next (
    if (s.ctx c).st ≠ .running ∨ (s.kids c).all (fun kv => kv.2.phase != .bound) = true ∨ (s.placeKid c).isSome = true then s
    else
      match s.youngest (s.groups.filter (fun kv => kv.2.ctx == c && kv.2.residence == .resident && kv.2.queue.isEmpty && kv.2.pend.isEmpty &&
        (match kv.2.wait with | .join _ => true | _ => false))) with
      | some (g, _) => s.saveGroup g 2
      | none => s)

/-! ## Completion (R27, R257, R360) -/

/-- The groups of a launch. -/
def State.groupsOf (s : State) (l : Nat) : List (Nat × Group) := s.groups.filter (fun kv => kv.2.launch == l)

/-- Every group has ended and nothing that any of them issued is in flight. -/
def State.launchQuiet (s : State) (l : Nat) : Bool :=
  (s.groupsOf l).all (fun kv => kv.2.residence == .ended && kv.2.pend.isEmpty) &&
  !(s.copies.any (fun kv => kv.2.launch == some l && kv.2.status == 0)) &&
  !(s.tileOps.any (fun kv => kv.2.launch == l)) && !(s.colls.any (fun kv => kv.2.launch == l))

/-- Key paths compared element by element; a path comes before those that extend it (R255). -/
def pathLt : List Nat → List Nat → Bool
  | [], [] => false
  | [], _ :: _ => true
  | _ :: _, [] => false
  | a :: t, b :: u => if a = b then pathLt t u else decide (a < b)

/-- The order of entries (R255). -/
def OrdEntry.before (a b : OrdEntry) : Bool :=
  if a.root ≠ b.root then decide (a.root < b.root)
  else if a.path ≠ b.path then pathLt a.path b.path
  else if a.q ≠ b.q then decide (a.q < b.q)
  else decide (a.lane < b.lane)

/-- Inserts an entry in key order, behind its equals. -/
def insertOrd (e : OrdEntry) : List OrdEntry → List OrdEntry
  | [] => [e]
  | h :: t => if e.before h then e :: h :: t else h :: insertOrd e t

/-- Entries in key order. -/
def sortOrds (es : List OrdEntry) : List OrdEntry := es.foldl (fun a e => insertOrd e a) []

/-- The hits of an entry as it is applied (R438). -/
def State.ordHits (s : State) (l c : Nat) (e : OrdEntry) : List Hit :=
  (s.ctx c).hitsOf 60 { launch := some l, src := 6, lid := (s.lau l).lid, gid := e.gid, pc := e.pc, lpos := e.lpos, rgn := e.rgn }
    [(e.lane, e.va, tyWidth e.ty / 8)]

/-- An entry of the deferred log as the device reads it back (R256). -/
def OrdEntry.reread (e : OrdEntry) (bs : List Byte) : OrdEntry :=
  let rd (o n : Nat) : Nat := leNat ((bs.drop o).take n)
  let ctl := rd 0x10 4
  { e with
    va := rd 0 8, x := rd 8 8, aop := ctl % 16, ty := tyOf (bits ctl 7 4), rm := bits ctl 10 8, lane := bits ctl 28 24, q := rd 0x14 4
    root := rd 0x18 8, path := (List.range (Nat.min 8 (bits ctl 19 16))).map (fun i => rd (0x20 + 4 * i) 4) }

/-- A record of uncorrectable data that the device meets as it applies a launch's entries (R402, R406). -/
def State.postOrd (s : State) (l c : Nat) (loc : Nat × Nat) : State := s.post c .fault 4 cData (s.lau l).lid 0xFFFF loc.1 loc.2

/-- The entries of a launch as they are applied: those of the banks, and those that the device reads from the deferred log; one on a
line with uncorrectable data is recorded and lost (R256, R406). -/
def State.ordsOf (s : State) (l : Nat) : State × List OrdEntry :=
  let x := s.lau l
  x.ords.foldl (fun (r : State × List OrdEntry) e =>
    match e.logAt with
    | none => (r.1, r.2 ++ [e])
    | some i =>
      let a := x.lr.dlog + 64 * i
      if s.vBad x.ctx a 64 then
        (r.1.postOrd l x.ctx (match s.ctxPa x.ctx a with | some pa => s.errLoc pa | none => (0, 4)), r.2)
      else (r.1, r.2 ++ [e.reread ((List.range 64).map (fun j => s.vByte x.ctx (a + j)))])) (s, [])

/-- One entry applied to its word (R257); a word with uncorrectable data is recorded and stays (R406). -/
def State.applyOrd (s : State) (l c : Nat) (e : OrdEntry) : State :=
  let pa := (s.ctxPa c e.va).getD e.pa
  let n := tyWidth e.ty / 8
  let x := s.ctx c
  let s1 := s.setCtx c { x with hits := x.hits ++ s.ordHits l c e }
  if s.lineBad pa then s1.postOrd l c (s.errLoc pa)
  else s1.writeMem pa (leBytes n (atomStep e.aop e.ty e.rm e.fmt 0#32 (s.readLE pa n) e.x 0))

/-- APPLY_ORDERED_ATOMICS (R257): in ascending key, once every group has ended and nothing else is in flight. -/
def execApplyOrderedAtomics (l : Nat) (s : State) : Out :=
  .next (match Map.find s.launches l with
    | none => s
    | some x =>
      if x.phase = .running ∧ s.launchQuiet l = true ∧ x.ordsApplied = false then
        let r := s.ordsOf l
        let s1 := (sortOrds r.2).foldl (fun t e => t.applyOrd l x.ctx e) r.1
        s1.setLau l { s1.lau l with ords := [], ordsApplied := true }
      else s)

/-- LAUNCH_COMPLETE (R27, R360): the status word, the signal and the counters; its groups, blocks and frames are free. A
collective that it leaves unjoined fails first (R299). -/
def execLaunchComplete (l : Nat) (s : State) : Out :=
  .next (match Map.find s.launches l with
    | none => s
    | some x =>
      if x.phase = .running ∧ s.launchQuiet l = true ∧ (x.ordsApplied = true ∨ x.ords = []) then
        if s.missedComms x ≠ [] then s.leaveUnjoined l x
        else
        let word := 1 + 2 * b2n x.cancelled + (if x.fail = 0 then 0 else 4 + 256 * x.fail)
        let s1 := s.finishLaunch l word (if x.fail = 0 then 1 else 3)
        { s1 with groups := s1.groups.filter (fun kv => kv.2.launch != l), blocks := s1.blocks.filter (fun kv => kv.2.launch != l) }
      else s)

/-! ## Replay (R444) -/

/-- REPLAY_DIVERGED: every group of a replayed launch waits for a listed unit that is not available. -/
def execReplayDiverged (l : Nat) (s : State) : Out :=
  .next (match Map.find s.launches l with
    | none => s
    | some x =>
      let gs := (s.groupsOf l).filter (fun kv => kv.2.residence != .ended)
      if x.phase = .running ∧ s.replaying x = true ∧ x.cancelled = false ∧ gs ≠ [] ∧ gs.all (fun kv => kv.2.wait == .dfetch &&
          (match s.listed kv.1 with | some e => (s.takeListed l e).isNone | none => false)) = true then
        (s.setLau l { x with fail := 5 }).cancelLaunch l
      else s)

end Sys2Proof.Machine
end

