-- ==== Sys2Proof/Machine/Fabric.lean ====
section
/-!
DEFINITION. The fabric (26 R411 to R419): flits received, replay and retraining of links, ports taken out of service,
requests that arrive through the export table, paused channels.
-/
namespace Sys2Proof.Machine

/-- The die of each port (R411). -/
def portDies : List Nat := [0, 1, 1, 2, 3, 3, 5, 5, 6, 7, 7, 8]

/-- A port. -/
def State.port (s : State) (p : Nat) : Port := Map.get {} s.ports p
/-- Puts a port. -/
def State.setPort (s : State) (p : Nat) (x : Port) : State := { s with ports := s.ports.put p x }

/-! ## Receiving (R412 to R414) -/

/-- The packets in a run of payload bytes, what is left of it, and whether a packet is reserved. DESIGN CHOICE: a run of
zeros where a packet would begin is padding. -/
def parsePackets : Nat → List Byte → List FReq × List Byte × Bool
  | 0, bs => ([], bs, false)
  | fuel + 1, bs =>
    if bs.all (fun b => b == 0#8) then ([], [], false)
    else if bs.length < 12 then ([], bs, false)
    else
      let r := freqOf (leNat (bs.take 12))
      let n := r.dataLen 0
      if r.reserved then ([], [], true)
      else if bs.length < 12 + n then ([], bs, false)
      else
        let (ps, rest, bad) := parsePackets fuel (bs.drop (12 + n))
        ({ r with data := (bs.drop 12).take n } :: ps, rest, bad)

/-- Flits acknowledged by the far end leave the replay buffer of 1,024 flits; a NAK asks for the rest again (R413). -/
def Port.acked (p : Port) (h : FlitHead) : Port :=
  if h.ackv then
    let oldest := (p.txSeq + 4096 - p.replay.length % 4096) % 4096
    let n := (h.ack + 4097 - oldest) % 4096
    let q := if n ≤ Nat.min 1024 p.replay.length ∧ n ≠ 0 then { p with replay := p.replay.drop n, resends := 0 } else p
    { q with resend := q.resend || h.nak }
  else p

/-- An export entry (R418): the context, the page, the permissions. -/
structure Export where
  ctx : Nat
  va : Nat
  rd : Bool
  wr : Bool
  at_ : Bool
  deriving DecidableEq, Repr

/-- The export entry of an index; none at or above EXPSIZE, with V = 0, or with a reserved bit set. -/
def State.exportOf (s : State) (i : Nat) : Option Export :=
  let e := s.readLE (s.expbase.toNat + 8 * i) 8
  if i < s.expsize.toNat ∧ bitOf e 63 = true ∧ bits e 55 41 = 0 then
    some ⟨bits e 59 56, bits e 40 0 * 65536, bitOf e 62, bitOf e 61, bitOf e 60⟩
  else none

/-- The export index of a fabric address (R416). -/
def exportIndex (fa : Nat) : Nat := fa / 65536 % 2 ^ 24

/-- An answer to a request (R414, R418): to its source's route, else to the port it came by. -/
def State.answer (s : State) (port vc : Nat) (r : FReq) (op : Nat) (data : List Byte) : State :=
  let out := match s.routeOn r.src vc with | some (q, _) => q | none => port
  s.transmit out 1 vc { op := op, src := s.devid.toNat % 4096, e2e := r.e2e, addr := r.addr, arg := data.length - 1, data := data }

/-- An answer has come (R414): the request is acknowledged; a chunk has arrived, or its instance fails (R418, R298, R299). -/
def State.answered (s : State) (vc : Nat) (r : FReq) : State :=
  match s.sent.find? (fun e => e.dst == r.src && e.vc == vc && e.e2e == r.e2e) with
  | none => s
  | some e =>
    let s1 := { s with sent := s.sent.filter (fun f => f != e) }
    match e.coll with
    | none => s1
    | some (k, name, dst) =>
      if r.op = 6 then s1.chunkArrived k name dst
      else match Map.find s1.colls k with
        | some i => s1.putColl k { i with failed := some (i.failed.getD 1) }
        | none => s1

/-- The rank of a communicator that a device number names (R420). -/
def State.rankOf (s : State) (c comm dev : Nat) : Option Nat :=
  match s.readComm c comm with
  | some m => (List.range m.r).find? (fun k => match s.peerOf c m k with | .remote d _ _ _ => d == dev | _ => false)
  | none => none

/-- A packet of a flit is delivered: requests of one source and channel in end-to-end order, duplicates discarded
(R414); a slot release and a fail notice take effect at once (R421, R423). -/
def State.deliver (s : State) (port vc : Nat) (r : FReq) : State :=
  if r.op = 6 ∨ r.op = 7 then s.answered vc r
  else
    let key := 16 * r.src + vc
    if r.e2e ≠ (Map.get 0 s.e2eSeen key + 1) % 65536 then s
    else
      let s1 := { s with e2eSeen := s.e2eSeen.put key r.e2e }
      if r.op = 4 then
        match s1.exportOf (exportIndex r.addr) with
        | some e => (s1.slotReleased e.ctx (bits r.arg 10 8) (bits r.arg 7 0)).answer port vc r 6 []
        | none => s1.answer port vc r 7 []
      else if r.op = 5 then
        match s1.exportOf (exportIndex r.addr) with
        | some e =>
          (match s1.rankOf e.ctx (vc - 8) r.src with
           | some k => s1.failTold e.ctx (vc - 8) k (s1.instNear e.ctx (vc - 8) (bits r.arg 11 0))
           | none => s1).answer port vc r 6 []
        | none => s1.answer port vc r 7 []
      else
        let p := s1.port port
        s1.setPort port { p with rx := p.rx.put vc (Map.get [] p.rx vc ++ [r]) }

/-- FLIT_RECEIVE (R412, R413): a flit with a wrong CRC, a reserved bit or a reserved packet, and one ahead of the order,
is discarded, and a NAK is owed; one behind the order is discarded. -/
def execFlitReceive (port : Nat) (flit : List Byte) (s : State) : Out :=
  .next (
    let p := s.port port
    let h := flitHeadOf (leNat (flit.take 4))
    let refuse : State := s.setPort port { p with nak := true }
    if !p.up || p.retraining then s
    else if leNat (flit.drop 248) ≠ crc64 (flit.take 248) ∨ leNat ((flit.drop 4).take 4) ≠ 0 then refuse
    else if h.seq ≠ p.rxSeq then (if (h.seq + 4096 - p.rxSeq) % 4096 < 2048 then refuse else s)
    else
      let key := 16 * h.lane + h.vc
      let (ps, rest, bad) := if h.lane = 3 then ([], [], false)
        else parsePackets 32 (Map.get [] p.partial_ key ++ (flit.drop 8).take 240)
      if bad then refuse
      else
        let q := { p.acked h with rxSeq := (p.rxSeq + 1) % 4096, nak := false, partial_ := Map.set [] p.partial_ key rest }
        ps.foldl (fun t r => t.deliver port h.vc r) (s.setPort port q))

/-! ## The link (R413, R415) -/

/-- LINK_REPLAY (R413): every flit after the last good one is sent again, in order; after 8 failed resends the link retrains. -/
def execLinkReplay (port : Nat) (s : State) : Out :=
  .next (
    let p := s.port port
    if p.up && p.resend && !p.retraining then
      if 8 ≤ p.resends then s.setPort port { p with retraining := true }
      else s.setPort port { p with resend := false, resends := if p.replay.isEmpty then 0 else p.resends + 1 }
    else s)

/-- LINK_RETRAIN (R413): after a loss of lane lock, which the link may meet at any time. -/
def execLinkRetrain (port : Nat) (s : State) : Out :=
  .next (let p := s.port port; if p.up && !p.retraining then s.setPort port { p with retraining := true } else s)

/-- LINK_TRAIN_DONE (R413): the link is trained; an enabled port is up, and its waiting flits are sent again. -/
def execLinkTrainDone (port : Nat) (s : State) : Out :=
  .next (
    let p := s.port port
    if p.retraining then s.setPort port { p with retraining := false, up := p.en, resends := 0, resend := !p.replay.isEmpty } else s)

/-- The pause of a sending channel ends. -/
def State.endPause (s : State) (port vc : Nat) : State :=
  let p := s.port port
  match Map.find p.txPaused vc with
  | some t => (s.endInterval (.fabric port vc, 0) t).setPort port { p with txPaused := p.txPaused.del vc }
  | none => s

/-- A request takes the next route of its destination; where there is none, its instance fails (R415, R299). -/
def State.reroute (s : State) (e : Sent) : State :=
  match s.routeOf e.dst with
  | some (q, _) =>
    e.req.packets.foldl (fun t r => t.transmit q r.lane e.vc r)
      { s with sent := s.sent.map (fun f => if f = e then { f with port := q } else f) }
  | none =>
    match e.coll with
    | some (k, _, _) => (match Map.find s.colls k with
      | some i => s.putColl k { i with failed := some 1 }
      | none => s)
    | none => s

/-- A port leaves service (R415): its route is down, unacknowledged requests take the next route in their order, and the
charges on its channels are released. -/
def State.portOut (s : State) (port : Nat) : State :=
  let s0 := (List.range 16).foldl (fun t vc => t.endPause port vc) s
  let p := s0.port port
  let s1 := s0.setPort port { p with up := false, retraining := false, replay := [], partial_ := [], resend := false, resends := 0, nak := false }
  let s2 := (s1.sent.filter (fun e => e.port == port)).foldl State.reroute s1
  { s2 with ctxs := s2.ctxs.each (fun x => { x with ledger := x.ledger.filter (fun k =>
      match k.res with | .fabric q _ => q != port | _ => true) }) }

/-- PORT_DOWN (R415): a retrain has failed. -/
def execPortDown (port : Nat) (s : State) : Out := .next (if (s.port port).retraining then s.portOut port else s)

/-- PCTL written (R417): a bit set enables a port of a die in service, which trains; a bit cleared takes the port out of
service. -/
def State.writePctl (s : State) (v : W64) : State :=
  (List.range 12).foldl (fun t n =>
    let p := t.port n
    if v.getLsbD n = p.en then t
    else if v.getLsbD n then
      (if t.retDies.contains (portDies.getD n 0) then t.setPort n { p with en := true }
       else t.setPort n { p with en := true, retraining := true })
    else (t.setPort n { p with en := false }).portOut n) s

/-- PCTL_WRITE (R417). -/
def execPctlWrite (v : W64) (s : State) : Out := .next (s.writePctl v)

/-! ## Requests (R418, R419) -/

/-- The want of a request, and its bytes. -/
def FReq.access (r : FReq) : Want × Nat :=
  match r.op with
  | 0 => (.rd, r.arg % 128 + 1)
  | 2 => (.at_, r.atomWidth)
  | 3 => (.wr, 128)
  | _ => (.wr, r.arg % 128 + 1)

/-- The page offset of a request: a line of the slot for a chunk. -/
def FReq.offset (r : FReq) : Nat := if r.op = 3 then 128 * (r.arg % 512) else r.addr % 65536

/-- The entry permits the access. -/
def Export.allows (e : Export) : Want → Bool
  | .rd => e.rd | .wr => e.wr | .at_ => e.at_

/-- What a request does to its bytes. An atomic is of unsigned integers: its packet names no type. DEDUCED. -/
def FReq.kind (r : FReq) : AccessKind :=
  match r.op with
  | 0 => .load
  | 2 => .atomic (r.arg % 16) (if bitOf r.arg 4 then .n64 else .n32) 0
  | _ => .store

/-- The request at the head of a channel leaves it. -/
def State.popReq (s : State) (port vc : Nat) : State :=
  let p := s.port port
  s.setPort port { p with rx := Map.set [] p.rx vc ((Map.get [] p.rx vc).drop 1) }

/-- A request performed at the home of its bytes (R94), and answered. Writes and atomics match watchpoints (R438). -/
def State.serveReq (s : State) (port vc c : Nat) (r : FReq) (a : Part) : State :=
  let base : Hit := { src := 7, arg := r.src, lid := 0xFFFF, gid := 0xFFFF }
  let hits := if r.op = 0 then [] else (s.ctx c).hitsOf (if r.op = 2 then 60 else 61) base [(0, a.va, a.size)]
  let d := s.performAt 0 { ctx := c } r.kind 0#32 a
  let s1 := (d.st.popReq port vc).heat c (r.op == 2) [a]
  if d.bad then
    let e := s.errAt c a.place
    (s1.post c .fault 4 cData 0xFFFF 0xFFFF e.1 e.2).answer port vc r 7 []
  else
    let y := s1.ctx c
    (s1.setCtx c { y with hits := y.hits ++ hits.map (fun h => { h with mask := 0#32 }) }).answer port vc r 6
      (if r.op = 0 ∨ r.op = 2 then leBytes a.size d.val else [])

/-- FABRIC_REQUEST (R418, R419): the oldest request of a channel, translated through its export entry and the page table
of the entry's context; a missing page pauses the channel. -/
def execFabricRequest (port vc : Nat) (s : State) : Out :=
  .next (
    let p := s.port port
    match Map.get [] p.rx vc with
    | [] => s
    | r :: _ =>
      if (Map.find p.paused vc).isSome then s
      else
        let (w, n) := r.access
        let no : State := (s.popReq port vc).answer port vc r 7 []
        match s.exportOf (exportIndex r.addr) with
        | none => no
        | some e =>
          let va := e.va + r.offset
          match s.walk e.ctx va with
          | .absent => s.pauseVc port vc e.ctx (va / 65536 * 65536)
          | .malformed => no
          | .leaf l =>
            if !(e.allows w) || !(leafAllows l.bits w) || leafType l.bits == 4 || decide (65536 < r.offset + n) then no
            else
              let a : Part := { va := va, place := leafPlace l va, size := n
                                x := leNat (if r.op = 2 then r.data.drop (r.data.length - n) else r.data)
                                c := leNat (r.data.take n) }
              if s.served e.ctx a then s.serveReq port vc e.ctx r a else s)

/-! ## Pauses as the sender sees them (R141, R419) -/

/-- PAUSE_NOTICE: the far end has paused a channel. -/
def execPauseNotice (port vc : Nat) (s : State) : Out :=
  .next (
    let p := s.port port
    if p.up && (Map.find p.txPaused vc).isNone then
      (s.setPort port { p with txPaused := p.txPaused.put vc s.gtime }).startInterval (.fabric port vc, 0)
    else s)

/-- RESUME_NOTICE: the pause is over; it is an excursion of every context it touched. -/
def execResumeNotice (port vc : Nat) (s : State) : Out := .next (s.endPause port vc)

end Sys2Proof.Machine
end

