-- ==== Sys2Proof/Machine/Faults.lean ====
section
/-!
DEFINITION. The resolution of page faults (25 R397 to R400), locket faults (R399), corrected errors (R404).
-/
namespace Sys2Proof.Machine

/-- A packet fails (R358): malformed-packet, and it is complete. -/
def State.badPacket (s : State) (c q index : Nat) : State :=
  (s.post c .event 19 0 0xFFFF 0xFFFF q index).finishPacket c q index

/-- A change of every group of a list. -/
def State.eachGroup (s : State) (p : Group → Bool) (f : State → Nat → State) : State :=
  (s.groups.filter (fun kv => p kv.2)).foldl (fun t kv => f t kv.1) s

/-- A group waits for a page of a context. -/
def Group.awaits (x : Group) (c page : Nat) : Bool := x.ctx == c && x.pfWait.any (fun p => p.1 == page)

/-- The saves of a context's faulting groups, tried again after its locket page (R399). -/
def State.retrySaves (s : State) (c : Nat) : State :=
  s.eachGroup (fun x => x.ctx == c && !x.pfWait.isEmpty) State.trySave

/-- The paused channels that wait for a page of a context, as (port, channel). -/
def State.pausesFor (s : State) (c page : Nat) : List (Nat × Nat) :=
  s.ports.flatMap (fun kv => (kv.2.paused.filter (fun v => v.2 == (page, c))).map (fun v => (kv.1, v.1)))

/-- A channel resumes (R419). -/
def State.unpause (s : State) (k : Nat × Nat) : State :=
  let p := s.port k.1
  s.setPort k.1 { p with paused := p.paused.del k.2 }

/-- The buffered requests of a declined page take the error response (R419). -/
def State.declineReqs (s : State) (c page : Nat) (k : Nat × Nat) : State :=
  let p := s.port k.1
  let hit (r : FReq) : Bool :=
    match s.exportOf (exportIndex r.addr) with
    | some e => e.ctx == c && e.va == page
    | none => false
  let rs := Map.get [] p.rx k.2
  let s1 := s.setPort k.1 { p with rx := Map.set [] p.rx k.2 (rs.filter (fun r => !(hit r))) }
  (rs.filter hit).foldl (fun t r => t.answer k.1 k.2 r 7 []) s1

/-- The wait packet of a queue whose page was declined: the oldest unsatisfied wait. -/
def Queue.waitIndex (q : Queue) : Option Nat := (q.taken.find? (fun p => p.kind == 3 && p.started && !p.done)).map (fun p => p.index)

/-- The page of every waiter is mapped: groups can be restored, copies resume, wait packets re-enter arbitration behind
those that wait, channels resume (R398, R419, R366). -/
def State.pageMapped (s : State) (c page : Nat) : State :=
  let s1 := { s with
    groups := s.groups.each (fun x => if x.awaits c page then { x with pfWait := x.pfWait.filter (fun p => p.1 != page) } else x)
    copies := s.copies.each (fun k => if k.ctx = c ∧ k.pfPage = some page then { k with pfPage := none } else k)
    clock := s.clock + 1 }
  let x := s1.ctx c
  let s2 := s1.setCtx c { x with
    pfRecs := x.pfRecs.filter (fun p => p != page)
    queues := x.queues.each (fun q => if q.pfPage = some page then { q with pfPage := none, waitSince := s1.clock } else q) }
  (s2.pausesFor c page).foldl State.unpause s2

/-- A new record for a page that is still missing (R398): of the first waiter. -/
def State.repost (s : State) (c page : Nat) : State :=
  let x := s.ctx c
  let s1 :=
    if x.pfRecs.contains page then
      match s.groups.find? (fun kv => kv.2.awaits c page) with
      | some (_, y) =>
        let acc := match y.pfWait.find? (fun p => p.1 == page) with | some p => p.2 | none => 0
        s.post c .fault 1 0 (s.lau y.launch).lid y.gid page acc
      | none =>
        match s.copies.find? (fun kv => kv.2.ctx == c && kv.2.pfPage == some page) with
        | some (_, k) => s.post c .fault 1 0 (s.copyLid k) k.gid page (4 + (match s.copyBlock k with | some (_, a) => a | none => 0))
        | none => s.post c .fault 1 0 0xFFFF 0xFFFF page
            (if s.stack.any (fun n => n.ctx == c && n.stuck && n.backing / 65536 * 65536 == page) && !(x.queues.any (fun kv => kv.2.pfPage == some page)) then 1 else 8)
    else s
  (s1.pausesFor c page).foldl (fun t k => t.post c .fault 6 0 0xFFFF 0xFFFF page (k.1 + 16 * k.2)) s1

/-- A waiting group is declined (R398): a saved one when it is restored, one still on its slot at once. -/
def State.declineGroup (s : State) (g : Nat) : State :=
  let x := s.grp g
  if x.residence = .resident then (s.setGrp g { x with pfWait := [], replay := none }).declineTrap g x.replay
  else s.setGrp g { x with pfWait := [], declined := true }

/-- Every waiter of a page is declined (R398, R419). -/
def State.pageDeclined (s : State) (c page : Nat) : State :=
  let s1 := s.eachGroup (fun x => x.awaits c page) State.declineGroup
  let s2 := (s1.copies.filter (fun kv => kv.2.ctx == c && kv.2.pfPage == some page)).foldl (fun t kv => t.failCopy kv.1 kv.2 cPage) s1
  let s3 := ((s2.ctx c).queues.filter (fun kv => kv.2.pfPage == some page)).foldl (fun t kv =>
    let x := t.ctx c
    let u := t.setCtx c { x with queues := x.queues.put kv.1 { kv.2 with pfPage := none } }
    match kv.2.waitIndex with
    | some i => u.badPacket c kv.1 i
    | none => u) s2
  let ps := s3.pausesFor c page
  let s4 := ps.foldl State.unpause (ps.foldl (fun t k => t.declineReqs c page k) s3)
  let x := s4.ctx c
  s4.setCtx c { x with pfRecs := x.pfRecs.filter (fun p => p != page) }

/-- The write-backs that have failed on a page of a context are to be tried again (R77). -/
def State.againLines (s : State) (p : StackLine → Bool) : State :=
  if s.stack.any (fun n => n.stuck && p n) then { s with stack := s.stack.map (fun n => if n.stuck && p n then { n with again := true } else n) } else s

/-- A PFDONE takes effect (R398, R399, R419, R77). One for a page that has no record resolves nothing. A walk that finds no leaf, for
want of one or for a malformed table, leaves the waiters. -/
def State.pageDone (s0 : State) (c : Nat) (v : W64) : State :=
  let page := bits v.toNat 56 16 * 65536
  let s := s0.againLines (fun n => n.ctx == c && n.backing / 65536 * 65536 == page)
  let x := s.ctx c
  let s1 := if x.lkFault = some page then (s.setCtx c { x with lkFault := none }).retrySaves c else s
  if x.pfRecs.contains page || !(s.pausesFor c page).isEmpty then
    if v.getLsbD 0 then s1.pageDeclined c page
    else
      match s1.walk c page with
      | .leaf _ => s1.pageMapped c page
      | _ => s1.repost c page
  else s1

/-- PFDONE written (R398): while the context is off the machine, or on its way off, it is held (R399). -/
def State.writePfdone (s : State) (c : Nat) (v : W64) : State :=
  let x := s.ctx c
  if x.st = .vacating ∨ x.st = .spilling ∨ x.st = .vacated then s.setCtx c { x with pfHeld := x.pfHeld ++ [v] }
  else s.pageDone c v

/-- The PFDONEs held while a context was off the machine take effect (R399). -/
def State.applyHeld (s : State) (c : Nat) : State :=
  let x := s.ctx c
  if x.pfHeld = [] then s else x.pfHeld.foldl (fun t v => t.pageDone c v) (s.setCtx c { x with pfHeld := [] })

/-- PFDONE (R398). -/
def execPfdone (c : Nat) (v : W64) (s : State) : Out := .next (s.writePfdone c v)

/-- LOCKET_FAULT (R399): the save of a faulting group meets a frame that is not resident. -/
def execLocketFault (g : Nat) (s : State) : Out :=
  .next (match Map.find s.groups g with
    | some x => if (s.ctx x.ctx).lkFault.isNone then s.trySave g else s
    | none => s)

/-- A correction is counted (R404). -/
def Corrections.count (k : Corrections) (now : Nat) : Corrections :=
  if k.start + 1000000 ≤ now then { total := k.total + 1, start := now, n := 1 }
  else { k with total := k.total + 1, n := k.n + 1 }

/-- CORRECTED_THRESHOLD (R404): a count has passed 1,024 within 1,000,000 ns. -/
def execCorrectedThreshold (die loc : Nat) (s : State) : Out :=
  .next (match Map.find s.corrected (8 * die + loc) with
    | some k =>
      if 1024 < k.n ∧ k.posted = false then
        { s with corrected := s.corrected.put (8 * die + loc) { k with posted := true } }.postDev 36 0xFF loc k.n
      else s
    | none => s)

end Sys2Proof.Machine
end

