-- ==== Sys2Proof/Machine/Contexts.lean ====
section
/-!
DEFINITION. Contexts (22 R339 to R354): control, partitions, the contract and the floors, vacates and exchanges (08 R137,
R141), resumes and relaunches (25 R408, R409); token budgets and the belfry's choice of slots (23 R368 to R371).
-/
namespace Sys2Proof.Machine

/-- A refused write or command: ERR alone changes (R339, R340). -/
def State.refuse (s : State) (c e : Nat) : State := let x := s.ctx c; s.setCtx c { x with err := e }

/-- The slots of a partition, ascending (R342). -/
def Ctx.slots (x : Ctx) : List Nat := (List.range 1440).filter (fun i => x.part.getLsbD i)

/-- The contexts that exist. -/
def State.ctxNums (s : State) : List Nat := s.ctxs.map (fun kv => kv.1)

/-- A core is retired, itself or with its die. -/
def State.coreRetired (s : State) (core : Nat) : Bool := s.retCores.contains core || s.retDies.contains (dieOfCore core)

/-- The context that holds a slot. -/
def State.holder (s : State) (i : Nat) : Option Nat := (s.ctxs.find? (fun kv => kv.2.part.getLsbD i)).map (fun kv => kv.1)

/-- Sets a bit of EVT (R340). -/
def Ctx.event (x : Ctx) (n : Nat) : Ctx := { x with evt := x.evt ||| BitVec.ofNat 64 (2 ^ n) }

/-! ## Floors (R345, R346) -/

/-- FLOOR n of a die and tier for n = 5 die + tier below 45, else FFAB of port n - 45. -/
def Ctx.floorAt (x : Ctx) (n : Nat) : Nat :=
  if n < 45 then (Map.get 0#64 x.floors n).toNat else (Map.get 0#64 x.ffab (n - 45)).toNat

/-- The floor's entry is reserved: no such resource exists (R345). -/
def reservedFloor (n : Nat) : Bool :=
  decide (n < 45) && (if n / 5 = 4 then decide (n % 5 < 2) else n % 5 == 2 || n % 5 == 3)

/-- CAP (R345). -/
def State.cap (s : State) (n : Nat) : Nat :=
  if 45 ≤ n then 201
  else if reservedFloor n then 0
  else match n % 5 with
    | 0 => 2160 * (stackDies.filter (fun d => d == n / 5)).length
    | 1 => 86
    | 2 => if s.hostlink.isSome then 345 else 460
    | 3 => if s.hostlink.isSome then 115 else 0
    | _ => 6266

/-- The sum of the floors of the enabled contexts but one. -/
def State.floorSum (s : State) (n c : Nat) : Nat :=
  s.ctxs.foldl (fun a kv => if kv.2.en && kv.1 != c then a + kv.2.floorAt n else a) 0

/-- The resource of a floor; channel 0 of a port stands for all its channels. -/
def floorRes (n : Nat) : Resource :=
  if n < 45 then (if n % 5 = 4 then .dome (n / 5) else .tier (n / 5) (n % 5)) else .fabric (n - 45) 0

/-- FLOOR or FFAB written (R345, R346). -/
def State.writeFloor (s : State) (c n : Nat) (v : W64) : State :=
  let x := s.ctx c
  let f := v.toNat % 65536
  let old := x.floorAt n
  if reservedFloor n then (if f = 0 then s else s.refuse c 3)
  else if x.en ∧ s.cap n < s.floorSum n c + f then s.refuse c 2
  else
    let y := if n < 45 then { x with floors := Map.set 0#64 x.floors n (BitVec.ofNat 64 f) }
      else { x with ffab := Map.set 0#64 x.ffab (n - 45) (BitVec.ofNat 64 f) }
    s.setCtx c (if f < old then { y with fpend := y.fpend ++ [(floorRes n, y.epoch)], epoch := y.epoch + 1 } else y)

/-- FLOOR_WRITE. -/
def execFloorWrite (c n : Nat) (v : W64) (s : State) : Out := .next (s.writeFloor c n v)

/-- A charge was costed under an old floor of a resource. -/
def Charge.under (k : Charge) (e : Resource × Nat) : Bool :=
  decide (k.epoch ≤ e.2) &&
  (match e.1, k.res with
   | .fabric p _, .fabric q _ => p == q
   | r, t => r == t)

/-- FLOOR_APPLY (R346): every charge costed under a lowered floor's old value has been released. -/
def execFloorApply (c : Nat) (s : State) : Out :=
  .next (
    let x := s.ctx c
    let left := x.fpend.filter (fun e => x.ledger.any (fun k => k.under e))
    if x.fpend = [] then s
    else
      let y := { x with fpend := left }
      s.setCtx c (if left = [] then y.event 2 else y))

/-! ## The bound (R343) -/

/-- What VBCUR was before a write of VBREQ in this tick raised it (R351). -/
def State.oldVbcur (s : State) (c : Nat) : Option Nat := s.marks.findSome? (fun m => match m with | .vbcur d o => if d = c then some o else none | _ => none)

/-- VBREQ written. -/
def State.writeVbreq (s : State) (c : Nat) (v : W64) : State :=
  let x := s.ctx c
  if v.toNat < 4000 ∨ 1000000 < v.toNat ∨ v.toNat % 16 ≠ 0 then s.refuse c 3
  else if x.vbcur.toNat ≤ v.toNat then
    { s with marks := if (s.oldVbcur c).isNone && decide (x.vbcur.toNat < v.toNat) then .vbcur c x.vbcur.toNat :: s.marks else s.marks }.setCtx c
      { x with vbreq := v, vbcur := v, bpend := false }
  else s.setCtx c { x with vbreq := v, bpend := true }

/-- VBREQ_WRITE. -/
def execVbreqWrite (c : Nat) (v : W64) (s : State) : Out := .next (s.writeVbreq c v)

/-- BOUND_APPLY: the largest charge is at most VBREQ - 700. -/
def execBoundApply (c : Nat) (s : State) : Out :=
  .next (
    let x := s.ctx c
    if x.bpend && decide (x.maxCharge ≤ x.vbreq.toNat - 700) then s.setCtx c ({ x with vbcur := x.vbreq, bpend := false }.event 1) else s)

/-! ## EVT and excursions (R354) -/

/-- EVT_CLEAR: a 1 clears a bit. -/
def execEvtClear (c : Nat) (v : W64) (s : State) : Out := .next (let x := s.ctx c; s.setCtx c { x with evt := x.evt &&& ~~~ v })

/-- BOUND_EXCURSION: an interval of R141 that touched the context is over. -/
def execBoundExcursion (c start stop : Nat) (s : State) : Out :=
  .next (if s.excursions.contains (c, start, stop) then
      let s1 := { s with excursions := s.excursions.erase (c, start, stop) }
      let x := s1.ctx c
      (s1.setCtx c ({ x with excur := Nat.min 0xFFFFFFFF (x.excur + 1) }.event 0)).post c .event 16 0 0xFFFF 0xFFFF start stop
    else s)

/-! ## Control (R341) -/

/-- Slots of the cores in service. -/
def State.liveSlots (s : State) : Nat := 2 * ((List.range 720).filter (fun k => !(s.coreRetired k))).length

/-- The sum of QUOTA over the enabled contexts but one (R370). -/
def State.quotaSum (s : State) (c : Nat) : Nat := s.ctxs.foldl (fun a kv => if kv.2.en && kv.1 != c then a + kv.2.quota.toNat else a) 0

/-- The context's shadows are empty again. -/
def State.dropShadows (s : State) (c : Nat) : State :=
  { s with shadows := s.shadows.filter (fun kv => kv.2 != .filling c && kv.2 != .loaded c && kv.2 != .spilling c) }

/-- DISABLE (R341): EN clear, no TLB entry, no image, FREE; EXCUR is 0 (R354). What the context had running or queued is
gone with it. -/
def State.disabled (s : State) (c : Nat) : State :=
  let x := s.ctx c
  let s1 := (s.dropShadows c).setCtx c { x with
    en := false, st := .free, image := none, vac := none, excur := 0, part := 0#1440, ledger := [], fpend := [], pfRecs := [], pfHeld := []
    lkFault := none, slotWant := false, queues := [], graphs := [], phaseEnds := [], jobEnds := [], commSeq := [], commLast := [], notified := [], hits := [] }
  { s1 with
    tlb := s1.tlb.filter (fun e => e.ctx != c)
    groups := s1.groups.filter (fun kv => kv.2.ctx != c), blocks := s1.blocks.filter (fun kv => kv.2.ctx != c)
    launches := s1.launches.filter (fun kv => kv.2.ctx != c), copies := s1.copies.filter (fun kv => kv.2.ctx != c)
    tileOps := s1.tileOps.filter (fun kv => kv.2.ctx != c), colls := s1.colls.filter (fun kv => kv.2.ctx != c)
    slotChunks := s1.slotChunks.filter (fun k => k.ctx != c), failNotes := s1.failNotes.filter (fun k => k.ctx != c)
    scrOwner := s1.scrOwner.filter (fun kv => kv.2 != c) }

/-- The floors or the quota of a context would break a sum if it were enabled (R341, R345, R370). -/
def State.overSum (s : State) (c : Nat) : Bool :=
  (List.range 57).any (fun n => decide (s.cap n < s.floorSum n c + (s.ctx c).floorAt n)) ||
  decide (100 * s.liveSlots < s.quotaSum c + (s.ctx c).quota.toNat)

/-- CTXCTL written (R341). Clearing EN where it is accepted is a DISABLE. -/
def State.writeCtxctl (s : State) (c : Nat) (v : W64) : State :=
  let x := s.ctx c
  let y := { x with nomig := v.getLsbD 1, novh := v.getLsbD 2 }
  if v.getLsbD 0 = x.en then s.setCtx c y
  else if v.getLsbD 0 then
    if x.st ≠ .free then s.refuse c 5
    else if s.overSum c then s.refuse c 2
    else s.setCtx c { y with en := true, st := .ready }
  else if x.st = .ready ∨ x.st = .vacated then (s.setCtx c y).disabled c
  else s.refuse c 5

/-- CTXCTL_WRITE. -/
def execCtxctlWrite (c : Nat) (v : W64) (s : State) : Out := .next (s.writeCtxctl c v)

/-- The command DISABLE (R339). -/
def State.disable (s : State) (c : Nat) : State :=
  let x := s.ctx c
  if x.st = .ready ∨ x.st = .vacated then s.disabled c else s.refuse c 5

/-- DISABLE. -/
def execDisable (c : Nat) (s : State) : Out := .next (s.disable c)

/-! ## Partitions (R342) -/

/-- Slots join a context's partition; READY becomes RUNNING, and what was held for it takes place (R339, R399). -/
def State.addSlots (s : State) (c : Nat) (is : List Nat) : State :=
  let x := s.ctx c
  if is = [] then s
  else
    let p := is.foldl (fun (a : BitVec 1440) i => a ||| BitVec.ofNat 1440 (2 ^ i)) x.part
    let s1 := s.setCtx c { x with part := p, slotWant := false, st := if x.st = .ready then .running else x.st
                                  runSince := if x.st = .ready then s.gtime else x.runSince }
    if x.st = .ready then s1.applyHeld c else s1

/-- A context whose VACATE has been accepted in this tick: a PART write of the tick is applied as before it (R351). -/
def State.vacatedNow (s : State) (c : Nat) : Bool := (s.ctx c).st == .vacating && s.marks.contains (.vacated c)

/-- PART word k written (R342, R351). -/
def State.writePart (s : State) (c k : Nat) (v : W64) : State :=
  let x : Ctx := if s.vacatedNow c then { s.ctx c with st := .running } else s.ctx c
  let n := if k = 22 then 32 else 64
  let slots := (List.range n).map (fun i => 64 * k + i)
  let want (i : Nat) : Bool := v.getLsbD (i - 64 * k)
  if x.st ≠ .ready ∧ x.st ≠ .running then s.refuse c 5
  else if slots.any (fun i => want i && !(x.part.getLsbD i) && ((s.holder i).isSome || s.coreRetired (i / 2))) then s.refuse c 4
  else if x.st = .running ∧ slots.any (fun i => x.part.getLsbD i && !(want i)) = true then s.refuse c 5
  else s.addSlots c (slots.filter (fun i => want i && !(x.part.getLsbD i)))

/-- PART_WRITE. -/
def execPartWrite (c k : Nat) (v : W64) (s : State) : Out := .next (s.writePart c k v)

/-! ## VACATE (R137, R348, R403) -/

/-- A launch of a context has been taken and not finished. -/
def State.hasWork (s : State) (c : Nat) : Bool := s.launches.any (fun kv => kv.2.ctx == c && kv.2.phase != .finished)

/-- A group that an accepted vacate makes enter its handler (R137): on its slot, with no live trap record, not parked in
`wwait` or `join`, not about to be saved. -/
def State.takesHandler (s : State) (x : Group) : Bool :=
  x.residence == .resident && x.trap.isNone && x.pfWait.isEmpty && (s.kd x).vh && (s.lau x.launch).phase == .running &&
  (match x.wait with | .wwait _ _ => false | .join _ => false | _ => true) && !(x.atEdge && x.dbgStop.isSome)

/-- A group enters its vacate handler (R137): F is its unretired lanes. -/
def State.enterVacate (s : State) (g : Nat) : State :=
  let x := s.grp g
  s.setGrp g { (x.enterHandler { code := cVreq, f := x.unretired, whole := true, held := x.queue } .vacate (s.kd x).vhand) with stalled := false }

/-- A live record of a vacate handler. -/
def Group.vacating (x : Group) : Bool := x.residence != .ended && (match x.trap with | some r => r.handler == .vacate | none => false)

/-- A suspended copy that a vacate finds is aborted, to run again from its first byte (R138, R290). -/
def Copy.restart (k : Copy) : Copy :=
  if k.suspended then { k with moved := 0, costedAt := 0, ahead := 0, lastBad := none, pfPage := none, firstBad := none, skipLines := [] } else k

/-- The command VACATE (R348), with the context that is to receive the slots. -/
def State.vacate (s : State) (c : Nat) (for_ : Option Nat) : State :=
  let x := s.ctx c
  if x.st ≠ .running then s.refuse c 5
  else if x.slots.any (fun i => match Map.get .empty s.shadows i with | .empty => false | .loaded d => d == c | _ => true) then s.refuse c 1
  else
    let v : Vacate := { t0 := s.gtime, d := (s.oldVbcur c).getD x.vbcur.toNat - x.estimate, keep := s.hasWork c, for_ := for_ }
    let s1 := if x.novh then s else s.eachGroup (fun y => y.ctx == c && s.takesHandler y) State.enterVacate
    let opens := !x.novh && s1.groups.any (fun kv => kv.2.ctx == c && kv.2.vacating)
    let s2 := { s1 with
      groups := s1.groups.each (fun y => if y.ctx = c then { y with vdone := false, window := !opens && y.vacating, trap := y.trap.map (fun (r : TrapRec) => { r with atT0 := true }) } else y)
      launches := s1.launches.each (fun (l : Launch) => if l.ctx = c ∧ l.phase = LPhase.bound then { l with phase := .unbound } else l)
      copies := s1.copies.each (fun k => if k.ctx = c then k.restart else k)
      marks := .vacated c :: s1.marks }
    let y := s2.ctx c
    s2.setCtx c { y with st := .vacating, vac := some { v with open_ := opens } }

/-- VACATE. -/
def execVacate (c : Nat) (s : State) : Out := .next (s.vacate c none)

/-- HANDLER_WINDOW_CLOSE (R137): every group that entered has executed `vdone`, or D has passed. A group still in its handler
resumes in a resumed window (R337). -/
def execHandlerWindowClose (c : Nat) (s : State) : Out :=
  .next (
    let x := s.ctx c
    match x.vac with
    | some v =>
      if v.open_ && (decide (v.t0 + v.d ≤ s.gtime) || !(s.groups.any (fun kv => kv.2.ctx == c && kv.2.vacating))) then
        { s with groups := s.groups.each (fun y => if y.ctx = c ∧ y.vacating then { y with window := true } else y) }.setCtx c
          { x with vac := some { v with open_ := false } }
      else s
    | none => s)

/-! ## Exchanges (R347, R348, R349) -/

/-- A map's entries put into another. -/
def Map.merge {α : Type} (m t : Map α) : Map α := t.foldl (fun a kv => a.put kv.1 kv.2) m

/-- The slot of a group. -/
def Group.slotNo (x : Group) : Nat := 2 * x.core + x.slot

/-- A slot's side of an image is installed: the slot joins the context's partition (R348). -/
def State.install (s : State) (d i : Nat) : State :=
  let x := s.ctx d
  match x.image with
  | none => s
  | some im =>
    { s with
      tiles := (notSlots s.tiles 65536 [i]).merge (ofSlots im.tiles 65536 [i])
      scratch := (notSlots s.scratch 262144 [i]).merge (ofSlots im.scratch 262144 [i])
      tileErr := s.tileErr.filter (fun k => k / 65536 != i) ++ im.tileErr.filter (fun k => k / 65536 == i)
      scrErr := s.scrErr.filter (fun k => k / 65536 != i) ++ im.scrErr.filter (fun k => k / 65536 == i)
      scrOwner := s.scrOwner.put i d
      groups := s.groups.each (fun (y : Group) => if y.ctx = d ∧ y.residence = Residence.image ∧ y.slotNo = i then { y with residence := .resident } else y)
    }.setCtx d { x with part := x.part ||| BitVec.ofNat 1440 (2 ^ i) }

/-- Every image of a resuming context is installed: it is RUNNING, and what was held for it takes place (R349, R399). -/
def State.backRunning (s : State) (d : Nat) : State :=
  let x := s.ctx d
  match x.image with
  | some im =>
    if x.st = .resuming ∧ im.slots.all (fun i => x.part.getLsbD i) = true then
      (s.setCtx d ({ x with st := .running, image := none, runSince := s.gtime }.event 4)).applyHeld d
    else s
  | none => s

/-- The context may be exchanged out: its window is closed, its charged work has drained, no lane instruction of it is in
execution, and no group of it waits to be saved (R137, R399). -/
def State.drained (s : State) (c : Nat) : Bool :=
  let x := s.ctx c
  x.st == .vacating && (match x.vac with | some v => !v.open_ | none => true) && x.ledger.isEmpty &&
  s.groups.all (fun kv => kv.2.ctx != c || kv.2.residence != .resident || (kv.2.pend.isEmpty && (kv.2.pfWait.isEmpty || x.lkFault.isSome)))

/-- Active and shadow swap in every slot of the context at once (R348): its image is on its way to memory, free slots read
zero, and the images that were loaded run on. A copy that has been suspended in the drain is aborted (R290). Freed slots go to the
context they were taken for, where it may hold slots (R339, R342, R371). -/
def State.exchange (s : State) (c : Nat) : State :=
  let x := s.ctx c
  let is := x.slots
  let keep := match x.vac with | some v => v.keep | none => true
  let im : Image := {
    slots := is, groups := (s.groups.filter (fun kv => kv.2.ctx == c && kv.2.residence == .resident)).map (fun kv => kv.1)
    tiles := ofSlots s.tiles 65536 is, scratch := ofSlots s.scratch 262144 is
    tileErr := s.tileErr.filter (fun k => is.contains (k / 65536)), scrErr := s.scrErr.filter (fun k => is.contains (k / 65536))
    keep := keep, dead := is.any (fun i => s.coreRetired (i / 2)) }
  let loaded := is.filterMap (fun i => match Map.get .empty s.shadows i with | .loaded d => some (d, i) | _ => none)
  let s1 := { s with
    tiles := notSlots s.tiles 65536 is, scratch := notSlots s.scratch 262144 is
    tileErr := s.tileErr.filter (fun k => !(is.contains (k / 65536))), scrErr := s.scrErr.filter (fun k => !(is.contains (k / 65536)))
    groups := s.groups.each (fun (y : Group) => if y.ctx = c then { y with residence := if y.residence = Residence.resident then Residence.image else y.residence, vdone := false } else y)
    copies := s.copies.each (fun k => if k.ctx = c then k.restart else k)
    shadows := is.foldl (fun m i => m.put i (.spilling c)) s.shadows }
  let s2 := s1.setCtx c { x with st := .spilling, part := 0#1440, vac := none, image := some im }
  let s3 := loaded.foldl (fun t p => t.install p.1 p.2) s2
  let s4 := (loaded.map (fun p => p.1)).foldl State.backRunning s3
  match x.vac with
  | some v =>
    (match v.for_ with
     | some w => if (s4.ctx w).st ≠ .ready ∧ (s4.ctx w).st ≠ .running then s4 else s4.addSlots w (is.filter (fun i => (s4.holder i).isNone && !(s4.coreRetired (i / 2))))
     | none => s4)
  | none => s4

/-- The image area after a spill (R348): 1,280 KiB for each slot, in an order of its bytes that the spec does not give (log 54). -/
def State.spill (s : State) (c : Nat) (im : Image) : State :=
  let n := 1310720 * im.slots.length
  { s.vWriteBytes c (s.ctx c).vibase.toNat ((List.range n).map (fun i => Config.freeByte (s.freeCtr + i))) with freeCtr := s.freeCtr + n }

/-- SPILL_DONE (R348): every image has been written; with nothing to keep the context is READY (R339). -/
def execSpillDone (c : Nat) (s0 : State) : Out :=
  .next (
    if (s0.ctx c).st = .spilling then
      let s := match (s0.ctx c).image with | some im => s0.spill c im | none => s0
      let x := s.ctx c
      let keep := match x.image with | some im => im.keep | none => false
      (s.dropShadows c).setCtx c ({ x with st := if keep then .vacated else .ready, image := if keep then x.image else none }.event 3)
    else s0)

/-- The command RESUME (R349): the shadows of the slots it was vacated from start to fill. -/
def State.resume (s : State) (c : Nat) : State :=
  let x := s.ctx c
  match x.image with
  | some im =>
    if x.st ≠ .vacated then s.refuse c 5
    else if im.dead || im.slots.any (fun i => s.coreRetired (i / 2)) then s.refuse c 4
    else if im.slots.any (fun i => Map.get .empty s.shadows i != .empty) then s.refuse c 1
    else { s with shadows := im.slots.foldl (fun m i => m.put i (.filling c)) s.shadows }
  | none => s.refuse c 5

/-- RESUME. -/
def execResume (c : Nat) (s : State) : Out := .next (s.resume c)

/-- FILL_DONE (R349): every shadow is LOADED. -/
def execFillDone (c : Nat) (s : State) : Out :=
  .next (
    let x := s.ctx c
    match x.image with
    | some im =>
      if x.st = .vacated ∧ im.dead = false ∧ im.slots.all (fun i => Map.get .empty s.shadows i == .filling c) = true then
        { s with shadows := im.slots.foldl (fun m i => m.put i (.loaded c)) s.shadows }.setCtx c { x with st := .resuming }
      else s
    | none => s)

/-! ## Tokens (R368 to R370) -/

/-- A queue has a packet that can be taken. -/
def Queue.takable (q : Queue) : Bool := !q.inert && decide (q.head < q.tail)

/-- A launch of a context waits for slots (R364, R368). -/
def State.wantsSlots (s : State) (c : Nat) : Bool :=
  (s.ctx c).slotWant && s.launches.any (fun kv => kv.2.ctx == c && kv.2.phase == .unbound)

/-- A context is idle (R368). -/
def State.idle (s : State) (c : Nat) : Bool :=
  let x := s.ctx c
  x.part == 0#1440 && !(x.queues.any (fun kv => kv.2.takable)) && !(s.wantsSlots c) &&
  !(s.launches.any (fun kv => kv.2.ctx == c && kv.2.parent.isSome && kv.2.unplaced))

/-- The idle context with the largest positive balance; ties go to the lower number. -/
def State.lender (s : State) (c : Nat) : Option Nat :=
  (s.ctxNums.foldl (fun (b : Option (Nat × Int)) d =>
    let y := (s.ctx d).bal
    if d ≠ c ∧ s.idle d = true ∧ 0 < y then
      (match b with
       | some (_, z) => if z < y then some (d, y) else b
       | none => some (d, y))
    else b) none).map (fun b => b.1)

/-- A context that is not idle and has no balance borrows (R369). -/
def State.borrow (s : State) (c : Nat) : State :=
  let x := s.ctx c
  if x.en && decide (x.bal ≤ 0) && !(s.idle c) then
    match s.lender c with
    | some l =>
      let y := s.ctx l
      let n : Int := min 1000 y.bal
      (s.setCtx c { x with bal := x.bal + n, debt := x.debt.put l (Map.get 0 x.debt l + n.toNat) }).setCtx l { y with bal := y.bal - n }
    | none => s
  else s

/-- TOKEN_DEBIT (R368, R369): a microsecond of `%gtime` has passed. -/
def execTokenDebit (s : State) : Out :=
  .next (
    if s.nextDebit * 1000 ≤ s.gtime then
      let s1 := { s with
        nextDebit := s.nextDebit + 1
        ctxs := s.ctxs.each (fun x => { x with bal := max (-(2 ^ 31)) (x.bal - ((x.slots.length : Nat) : Int)) }) }
      s1.ctxNums.foldl State.borrow s1
    else s)

/-- A context repays its lenders, ascending, from what is withheld of its refill. -/
def State.repay (s : State) (c : Nat) : List Nat → Nat → State
  | [], _ => s
  | l :: t, r =>
    let x := s.ctx c
    let n := Nat.min (Map.get 0 x.debt l) r
    let s1 := s.setCtx c { x with debt := Map.set 0 x.debt l (Map.get 0 x.debt l - n) }
    let y := s1.ctx l
    (if n = 0 then s1 else s1.setCtx l { y with bal := y.bal + ((n : Nat) : Int) }).repay c t (r - n)

/-- What is withheld of a context's refill (R370). -/
def Ctx.withheld (x : Ctx) : Nat := Nat.min (x.debt.foldl (fun a kv => a + kv.2) 0) (x.quota.toNat / 2)

/-- The refill of every context, then the repayments (R370). -/
def State.refillTokens (s : State) : State :=
  let ws := s.ctxs.map (fun kv => (kv.1, kv.2.withheld))
  let s1 := { s with ctxs := s.ctxs.each (fun x => { x with bal := min x.bal 0 + ((x.quota.toNat : Nat) : Int) - ((x.withheld : Nat) : Int) }) }
  ws.foldl (fun t w => t.repay w.1 (List.range 16) w.2) s1

/-- QUOTA written (R370, R372). -/
def State.writeQuota (s : State) (c : Nat) (v : W64) : State :=
  let x := s.ctx c
  if 144000 < v.toNat then s.refuse c 3
  else if x.en ∧ 100 * s.liveSlots < s.quotaSum c + v.toNat then s.refuse c 2
  else s.setCtx c { x with quota := v }

/-- QUOTA_WRITE. -/
def execQuotaWrite (c : Nat) (v : W64) (s : State) : Out := .next (s.writeQuota c v)

/-! ## The belfry's choice (R371) -/

/-- The oldest launch of a context that waits for slots. -/
def State.waitingLaunch (s : State) (c : Nat) : Option Launch :=
  (s.launches.foldl (fun (b : Option Launch) kv =>
    if kv.2.ctx = c ∧ kv.2.phase = .unbound then
      (match b with
       | some h => if kv.2.order < h.order then some kv.2 else b
       | none => some kv.2)
    else b) none)

/-- The contexts that request slots: descending PRIO, then descending BAL, then ascending number. -/
def State.requesters (s : State) : List Nat :=
  let before (a b : Nat) : Bool :=
    let x := s.ctx a
    let y := s.ctx b
    if x.prio ≠ y.prio then decide (y.prio.toNat < x.prio.toNat) else if x.bal ≠ y.bal then decide (y.bal < x.bal) else decide (a < b)
  let rec ins (c : Nat) : List Nat → List Nat
    | [] => [c]
    | h :: t => if before c h then c :: h :: t else h :: ins c t
  (s.ctxNums.filter (fun c => s.wantsSlots c && ((s.ctx c).st == .ready || (s.ctx c).st == .running))).foldr ins []

/-- A slot that a context may receive at once: free, and of a core in service. -/
def State.freeSlot (s : State) (core slot : Nat) : Bool := (s.holder (2 * core + slot)).isNone && !(s.coreRetired core)

/-- The slots of the first span of a kernel that free slots and a context's own provide. -/
def State.grant (s : State) (c : Nat) (k : KDesc) : Option (List Nat) :=
  ((spansOf (fun n sl => s.freeSlot n sl || (s.ctx c).holds n sl) k).head?).map (fun p =>
    (spanCores p.1 (2 ^ k.spanCode)).flatMap (fun n => if k.wide then [2 * n, 2 * n + 1] else [2 * n + p.2]))

/-- A slot of a span of cores in service that a kernel can use (R24, R371). -/
def State.usableSlot (s : State) (k : KDesc) (i : Nat) : Bool :=
  (spansOf (fun n _ => !(s.coreRetired n)) k).any (fun p => decide (p.1 ≤ i / 2) && decide (i / 2 < p.1 + 2 ^ k.spanCode))

/-- The context whose slots a request takes (R371), among those that hold a slot it can use: of lower PRIO; else, at equal PRIO and
with a positive balance of the requester, one of negative balance that has run for MINRUN. Within a rule the lowest PRIO, then the
lowest BAL, then the highest number. -/
def State.victim (s : State) (w : Nat) (k : KDesc) : Option Nat :=
  let x := s.ctx w
  let can (v : Nat) : Bool := v != w && (s.ctx v).st == .running && (s.ctx v).slots.any (s.usableSlot k)
  let r1 := s.ctxNums.filter (fun v => can v && decide ((s.ctx v).prio.toNat < x.prio.toNat))
  let r2 := s.ctxNums.filter (fun v => can v && (s.ctx v).prio == x.prio && decide (0 < x.bal) && decide ((s.ctx v).bal < 0) &&
    decide ((s.ctx v).runSince + 1000 * (s.ctx v).minrun.toNat ≤ s.gtime))
  (if r1 = [] then r2 else r1).foldl (fun (b : Option Nat) v =>
    match b with
    | some u =>
      let y := s.ctx u
      let z := s.ctx v
      if z.prio ≠ y.prio then (if z.prio.toNat < y.prio.toNat then some v else b)
      else if z.bal ≠ y.bal then (if z.bal < y.bal then some v else b)
      else some v
    | none => some v) none

/-- One requester is served: from free slots, else by a vacate (R371). DESIGN CHOICE: it receives one span of its oldest
waiting launch at a time. -/
def State.serve (s : State) (w : Nat) : State :=
  match s.waitingLaunch w with
  | none => s
  | some l =>
    let k := s.readDesc w l.lr.kdesc
    match s.grant w k with
    | some is => s.addSlots w (is.filter (fun i => !((s.ctx w).part.getLsbD i)))
    | none =>
      match s.victim w k with
      | some v => s.vacate v (some w)
      | none => s

/-- The holders of retired cores are vacated (R408). -/
def State.vacateRetired (s : State) : State :=
  (s.ctxNums.filter (fun c => (s.ctx c).st == .running && (s.ctx c).slots.any (fun i => s.coreRetired (i / 2)))).foldl (fun t c => t.vacate c none) s

/-- The belfry's decision (R371). -/
def State.decide_ (s : State) : State := let s1 := s.vacateRetired; s1.requesters.foldl State.serve s1

/-- VACATE_DRAIN_DONE (R348): the cores halt and storage is exchanged; the belfry then decides who holds which slots. -/
def execVacateDrainDone (c : Nat) (s : State) : Out := .next (if s.drained c then (s.exchange c).decide_ else s)

/-- RESUME_EXCHANGE (R349, R371): every slot that still lacks its image is free; the device exchanges at once, and the belfry decides
who holds which slots. -/
def execResumeExchange (c : Nat) (s : State) : Out :=
  .next (
    let x := s.ctx c
    match x.image with
    | some im =>
      let left := im.slots.filter (fun i => !(x.part.getLsbD i))
      if x.st = .resuming ∧ im.dead = false ∧ left.all (fun i => (s.holder i).isNone && Map.get .empty s.shadows i == .loaded c) = true then
        let s1 := { s with shadows := left.foldl (fun m i => m.del i) s.shadows }
        ((left.foldl (fun t i => t.install c i) s1).backRunning c).decide_
      else s
    | none => s)

/-- TOKEN_REFILL (R370, R371): every 100 microseconds of `%gtime`. -/
def execTokenRefill (s : State) : Out :=
  .next (if s.nextRefill * 1000 ≤ s.gtime then ({ s.refillTokens with nextRefill := s.nextRefill + 100 }).decide_ else s)

/-- SLOT_REQUEST (R364, R371): the turret asks for slots for a launch whose `B` is 0. -/
def execSlotRequest (l : Nat) (s : State) : Out :=
  .next (match Map.find s.launches l with
    | none => s
    | some x => if x.phase = .unbound ∧ s.wantsSlots x.ctx = true then s.decide_ else s)

/-! ## Retirement and relaunch (R408, R409) -/

/-- The cores of a retirement. -/
def coresOf (kind n : Nat) : List Nat := if kind = 0 then [n] else if kind = 1 then (List.range 80).map (fun i => 80 * n + i) else []

/-- RETIREMENT_DONE (R408): no context holds a slot of the cores. -/
def execRetirementDone (kind n : Nat) (s : State) : Out :=
  .next (if s.retiring.contains (kind, n) && (coresOf kind n).all (fun k => (s.holder (2 * k)).isNone && (s.holder (2 * k + 1)).isNone) then
      { s with retiring := s.retiring.erase (kind, n) }.postDev 37 0xFF kind n
    else s)

/-- The bit of a grid unit in the completion bitmap (R32). -/
def State.bitDone (s : State) (x : Launch) (i : Nat) : Bool := bitOf (s.vRead x.ctx (x.lr.bitmap + i / 8) 1) (i % 8)

/-- A placed launch starts over (R409): a new `%lid`, a new dispenser that skips completed grid units, and only the buffered
atomics of those units. -/
def State.startOver (s : State) (l : Nat) : State :=
  let x := s.lau l
  let c := s.ctx x.ctx
  let y : Launch := { x with
    phase := .unbound, oldLid := some x.lid, lid := s.newLid x.ctx, units := [], pushed := [], ivQueue := [], gridNext := 0
    skip := (List.range x.lr.units).filter (fun i => s.bitDone x i)
    ords := x.ords.filter (fun e => s.bitDone x e.root), ordsApplied := false, places := [], copyAt := none, ctab := []
    target := none, ulog := 0, logFull := false, replayAt := [], spans := [], collComms := [] }
  (s.setCtx x.ctx { c with nextLid := (y.lid + 1) % 65535 }).setLau l y

/-- A context that cannot resume is relaunched (R409). -/
def State.relaunch (s : State) (c : Nat) : State :=
  let s1 := s.abandonColls c
  let x := s1.ctx c
  let s2 := (s1.dropShadows c).setCtx c { x with st := .ready, image := none, part := 0#1440, vac := none, lkFault := none }
  let ls := (s2.launches.filter (fun kv => kv.2.ctx == c && kv.2.phase == .running)).map (fun kv => kv.1)
  let s3 := { s2 with
    groups := s2.groups.filter (fun kv => kv.2.ctx != c), blocks := s2.blocks.filter (fun kv => kv.2.ctx != c)
    copies := s2.copies.filter (fun kv => kv.2.ctx != c || kv.2.group.isNone), tileOps := s2.tileOps.filter (fun kv => kv.2.ctx != c)
    stack := s2.stack.filter (fun n => n.ctx != c) }
  ls.foldl State.startOver s3

/-- RELAUNCH (R409). -/
def execRelaunch (c : Nat) (s : State) : Out :=
  .next (
    let x := s.ctx c
    match x.image with
    | some im => if im.dead && (x.st == .vacated || x.st == .resuming) then s.relaunch c else s
    | none => s)

end Sys2Proof.Machine
end

