-- ==== Sys2Proof/Machine/Queues.lean ====
section
/-!
DEFINITION. Host queues and their packets (23 R355 to R366, 02 R33, R34).
-/
namespace Sys2Proof.Machine

/-! ## Queues and arbitration slots (R355, R357, R366) -/

/-- A queue of a context. -/
def State.queue (s : State) (c q : Nat) : Queue := Map.get {} (s.ctx c).queues q
/-- Puts a queue. -/
def State.setQueue (s : State) (c q : Nat) (x : Queue) : State := let y := s.ctx c; s.setCtx c { y with queues := y.queues.put q x }
/-- The address of a queue's descriptor. -/
def State.qdesc (s : State) (c q : Nat) : Nat := (s.ctx c).qtbase.toNat + 256 * q

/-- A number in a packet. -/
def Packet.at_ (p : Packet) (o n : Nat) : Nat := leNat ((p.data.drop o).take n)
/-- BAR. -/
def Packet.bar (p : Packet) : Bool := bitOf (p.at_ 0 8) 8

/-- Every packet taken before an index is complete. -/
def Queue.clearTo (x : Queue) (index : Nat) : Bool := x.taken.all (fun p => decide (index ≤ p.index) || p.done)
/-- The unsatisfied wait packet. -/
def Queue.waitOpen (x : Queue) : Option Packet := x.taken.find? (fun p => p.kind == 3 && p.started && !p.done)
/-- The packet that is taken and not started: one with BAR, or one that could not start. -/
def Queue.heldPacket (x : Queue) : Option Packet := x.taken.find? (fun p => !p.started && p.retry.isNone)

/-- The queue's next packet can be taken or started (R366). -/
def Queue.eligible (x : Queue) : Bool :=
  !x.inert && x.pfPage.isNone && x.waitOpen.isNone &&
  (match x.heldPacket with
   | some p => !p.bar || x.clearTo p.index
   | none => decide (x.head < x.tail))

/-- Every queue that is known, with its context and number. -/
def State.allQueues (s : State) : List (Nat × Nat × Queue) :=
  s.ctxs.flatMap (fun kv => kv.2.queues.map (fun q => (kv.1, q.1, q.2)))

/-- A queue that holds no slot and waits for one; the earliest comes first. -/
def State.firstWaiting (s : State) : Option (Nat × Nat × Queue) :=
  (s.allQueues.filter (fun e => !e.2.2.slot && e.2.2.waitSince != 0)).foldl (fun (b : Option (Nat × Nat × Queue)) e =>
    match b with
    | some h => if e.2.2.waitSince < h.2.2.waitSince then some e else b
    | none => some e) none

/-- Free arbitration slots go to the waiting queues. -/
def State.giveSlots (s : State) : Nat → State
  | 0 => s
  | n + 1 =>
    if 128 ≤ (s.allQueues.filter (fun e => e.2.2.slot)).length then s
    else
      match s.firstWaiting with
      | some (c, q, x) => (s.setQueue c q { x with slot := true, waitSince := 0 }).giveSlots n
      | none => s

/-- The arbitration slots as the queues stand (R366): one is given up by a queue that is empty, blocked or waiting, and free
ones go in the order of waiting. Completed packets are forgotten. -/
def State.arbitrate (s : State) : State :=
  let s1 := s.allQueues.foldl (fun (t : State) e =>
    let (c, q, y) := e
    let x := { y with taken := y.taken.filter (fun p => !p.done) }
    if x.eligible then
      (if x.slot || x.waitSince != 0 then t.setQueue c q x
       else { t with clock := t.clock + 1 }.setQueue c q { x with waitSince := t.clock + 1 })
    else t.setQueue c q { x with slot := false, waitSince := 0 }) s
  s1.giveSlots s1.allQueues.length

/-- PRIO of a queue (R355). -/
def State.qprio (s : State) (c q : Nat) : Nat := bits (s.vRead c (s.qdesc c q + 0xC) 4) 2 1

/-- The queue that the turret of a context serves next: of those that hold slots, the highest PRIO first, round robin within
one PRIO. -/
def State.turnTo (s : State) (c : Nat) : Option Nat :=
  (((s.ctx c).queues.filter (fun kv => kv.2.slot && kv.2.eligible)).foldl (fun (b : Option (Nat × Queue)) kv =>
    match b with
    | some h =>
      let p := s.qprio c h.1
      let r := s.qprio c kv.1
      if p < r ∨ (p = r ∧ kv.2.served < h.2.served) then some kv else b
    | none => some kv) none).map (fun b => b.1)

/-- TAIL_SNOOP (R355, R356): the turret reads a queue's descriptor and TAIL. One that breaks a limit, or a TAIL too far ahead,
makes the queue inert. -/
def execTailSnoop (c q : Nat) (s : State) : Out :=
  .next (
    let y := s.ctx c
    let a := s.qdesc c q
    let rd (o n : Nat) : Nat := s.vRead c (a + o) n
    let size := rd 8 4
    let ctl := rd 0xC 4
    let x : Queue := match Map.find y.queues q with | some x => x | none => { head := rd 0x10 8 }
    if !y.en || decide (y.qcount.toNat ≤ q) || !(s.vMapped c a 256) || x.inert || !(bitOf ctl 0) then s
    else
      let bad := rd 0 8 % 4096 != 0 || decide (size < 16) || decide (65536 < size) || size &&& (size - 1) != 0 || decide (8 ≤ ctl) ||
        rd 0x18 104 != 0 || rd 0x88 120 != 0
      let tail := rd 0x80 8
      if bad || decide (size < (tail + 2 ^ 64 - x.head) % 2 ^ 64) then
        (s.setQueue c q { x with inert := true }).post c .event 18 0 0xFFFF 0xFFFF q 0
      else (s.setQueue c q { x with tail := tail }).arbitrate)

/-! ## Taking a packet (R357, R358) -/

/-- The entry at HEAD of a queue, as a packet. -/
def State.headPacket (s : State) (c q : Nat) : Packet :=
  let x := s.queue c q
  let ring := s.vRead c (s.qdesc c q) 8
  let size := s.vRead c (s.qdesc c q + 8) 4
  let bs := (List.range 128).map (fun i => BitVec.ofNat 8 (s.vRead c (ring + 128 * (x.head % size) + i) 1))
  { index := x.head, kind := (bs.headD 0#8).toNat, data := bs }

/-- The packet that the turret takes or starts now, from the queue whose turn it is; the queue after it is taken: HEAD has
advanced (R356). -/
def State.nextPacket (s : State) (c q : Nat) : Option (State × Packet) :=
  let s1 := s.arbitrate
  if (s1.ctx c).en && s1.turnTo c == some q then
    let x := s1.queue c q
    let s2 := { s1 with clock := s1.clock + 1 }
    match x.heldPacket with
    | some p => some (s2.setQueue c q { x with served := s2.clock }, p)
    | none =>
      let p := s1.headPacket c q
      let s3 := s2.setQueue c q { x with head := (x.head + 1) % 2 ^ 64, taken := x.taken ++ [p], served := s2.clock }
      some (s3.vWrite c (s3.qdesc c q + 0x10) 8 ((x.head + 1) % 2 ^ 64), p)
  else none

/-- Changes a packet of a queue. -/
def State.onPacket (s : State) (c q index : Nat) (f : Packet → Packet) : State :=
  let x := s.queue c q
  s.setQueue c q { x with taken := x.taken.map (fun p => if p.index = index then f p else p) }

/-- A packet of a wanted kind is taken, and started unless its BAR holds it back (R357). -/
def State.withPacket (s : State) (c q : Nat) (want : Packet → Bool) (start : State → Packet → State) : Out :=
  .next (match s.nextPacket c q with
    | none => s
    | some (t, p) =>
      if !(want p) then s
      else if p.bar && !((t.queue c q).clearTo p.index) then t.arbitrate
      else (start (t.onPacket c q p.index (fun k => { k with started := true })) p).arbitrate)

/-- A packet is complete. -/
def State.donePacket (s : State) (c q : Nat) (p : Packet) : State := s.finishPacket c q p.index

/-- Bytes of a packet that are reserved hold a nonzero value: from an offset on, or in the header (R358, R361). -/
def Packet.reservedFrom (p : Packet) (o : Nat) : Bool := (p.data.drop o).any (fun b => b != 0#8) || decide (512 ≤ p.at_ 0 8)

/-! ## Launch packets (R359, R364) -/

/-- LAUNCH_PACKET: the launch enters the machine, unbound. A KIND that does not exist fails here too. -/
def execLaunchPacket (c q : Nat) (s : State) : Out :=
  s.withPacket c q (fun p => p.kind == 1 || p.kind == 0 || decide (5 < p.kind)) (fun t p =>
    if p.kind ≠ 1 then t.badPacket c q p.index
    else
      let r := recordOf p.data false
      let (t1, k) := t.addLaunch { ctx := c, lr := r, queue := some (q, p.index) }
      let t2 := t1.onPacket c q p.index (fun e => { e with obj := some k })
      let t3 := if 512 ≤ r.hdr then t2.post c .event 19 0 0xFFFF 0xFFFF q p.index else t2
      t3.tookRecord c k r (t3.recordBad c r))

/-! ## Signal and wait packets (R361, R362) -/

/-- ADDR of a signal or wait packet is no address of an `n64`. -/
def Packet.badAddr (p : Packet) : Bool := p.at_ 8 8 % 8 != 0 || decide (2 ^ 57 ≤ p.at_ 8 8)

/-- A packet meets a page that is not resident (R366): its queue gives up its slot until the page is mapped. With FQSIZE = 0 the
fault is declined when it arises (R398). -/
def State.packetFault (s : State) (c q : Nat) (p : Packet) (page : Nat) : State :=
  let x := s.ctx c
  if x.fq.size = 0#64 then (s.setCtx c { x with fq := { x.fq with lost := x.fq.lost + 1 } }).badPacket c q p.index
  else
    let t := s.postPage c page 0xFFFF 0xFFFF 8
    t.setQueue c q { t.queue c q with pfPage := some page }

/-- A signal packet names the word that a wait has been satisfied by in this tick: it falls in a later one (R362). -/
def State.signalLate (s : State) (c : Nat) (p : Packet) : Bool := s.marks.contains (.waited ((s.ctxPa c (p.at_ 8 8)).getD 0))

/-- SIGNAL_PACKET: a store or an atomic add. One whose page is missing is put back to be started again. -/
def execSignalPacket (c q : Nat) (s : State) : Out :=
  s.withPacket c q (fun p => p.kind == 2 && !(s.signalLate c p)) (fun t p =>
    let a := p.at_ 8 8
    if p.badAddr || decide (1 < p.at_ 0x18 8) || p.reservedFrom 0x20 then t.badPacket c q p.index
    else if t.vMapped c a 8 then
      ((if p.at_ 0x18 8 = 0 then t.vWrite c a 8 (p.at_ 0x10 8) else t.vAdd c a (p.at_ 0x10 8))).donePacket c q p
    else (t.onPacket c q p.index (fun k => { k with started := false })).packetFault c q p (a / 65536 * 65536))

/-- The condition of a wait packet on the word's value. -/
def Packet.holds (p : Packet) (v : Nat) : Bool :=
  match p.at_ 0x18 8 with
  | 0 => decide (p.at_ 0x10 8 ≤ v)
  | 1 => v == p.at_ 0x10 8
  | _ => v != p.at_ 0x10 8

/-- The turret reads the word of a wait packet. -/
def State.readWaitWord (s : State) (c q : Nat) (p : Packet) : State :=
  let a := p.at_ 8 8
  if s.vMapped c a 8 then
    (if p.holds (s.vRead c a 8) then { (s.donePacket c q p) with marks := .waited ((s.ctxPa c a).getD 0) :: s.marks } else s)
  else s.packetFault c q p (a / 65536 * 65536)

/-- WAIT_PACKET. -/
def execWaitPacket (c q : Nat) (s : State) : Out :=
  s.withPacket c q (fun p => p.kind == 3) (fun t p =>
    if p.badAddr || decide (2 < p.at_ 0x18 8) || p.reservedFrom 0x20 then t.badPacket c q p.index else t.readWaitWord c q p)

/-- WAIT_SATISFIED: the word has been written, and the condition holds. -/
def execWaitSatisfied (c q : Nat) (s : State) : Out :=
  .next (
    let x := s.queue c q
    match x.waitOpen with
    | some p => if x.pfPage.isNone then (s.readWaitWord c q p).arbitrate else s
    | none => s)

/-! ## Graph packets (R33, R34, R361) -/

/-- The entry of a phase or a job that the next graph, or phase, belongs to: the one whose last is still to be opened, else a new
one. `n` is how far the numbers of one phase or job lie apart. -/
def stageFor (es : Map Stage) (k n : Nat) : Nat :=
  match es.find? (fun e => e.1 % n == k && !e.2.last) with
  | some e => e.1
  | none => es.foldl (fun a e => if e.1 % n = k ∧ a ≤ e.1 then e.1 + n else a) k

/-- A graph opens: its phase counts it, up to the one opened with LASTP, and its job counts the phase, up to the one whose last graph
carries LASTJ. -/
def Ctx.openGraph (x : Ctx) (g p j : Nat) (lastP lastJ : Bool) (nl : Nat) : Ctx :=
  let k := stageFor x.phaseEnds (256 * j + p) 16384
  let e := match Map.find x.phaseEnds k with | some e => e | none => { up := stageFor x.jobEnds j 64 }
  let f := Map.get {} x.jobEnds e.up
  let isNew := (Map.find x.phaseEnds k).isNone
  { x with
    graphs := x.graphs.put g { phase := p, job := j, lastP := lastP, lastJ := lastJ, stage := k, nl := nl, open_ := true }
    phaseEnds := x.phaseEnds.put k { e with n := e.n + 1, last := lastP }
    jobEnds := x.jobEnds.put e.up { f with n := if isNew then f.n + 1 else f.n, last := f.last || (lastP && lastJ) } }

/-- GRAPH_OPEN: OP 0. An OP above 1 fails here too. -/
def execGraphOpen (c q : Nat) (s : State) : Out :=
  s.withPacket c q (fun p => p.kind == 4 && p.at_ 8 8 != 1) (fun t p =>
    let w := p.at_ 0x10 8
    let nl := p.at_ 0x18 8
    let g := bits w 9 0
    let isOpen := match Map.find (t.ctx c).graphs g with | some gr => gr.open_ | none => false
    if p.at_ 8 8 ≠ 0 || p.reservedFrom 0x20 || decide (2 ^ 26 ≤ w) || nl == 0 || decide (65535 < nl) || isOpen then t.badPacket c q p.index
    else (t.setCtx c ((t.ctx c).openGraph g (bits w 17 10) (bits w 23 18) (bitOf w 24) (bitOf w 25) nl)).donePacket c q p)

/-- The launches of a context that have not finished and satisfy a test. -/
def State.liveLaunches (s : State) (c : Nat) (t : Launch → Bool) : List Nat :=
  (s.launches.filter (fun kv => kv.2.ctx == c && kv.2.phase != .finished && t kv.2)).map (fun kv => kv.1)

/-- The cancel of a graph (R33): its unstarted launches are discarded, started ones cancelled. -/
def State.cancelGraph (s : State) (c g : Nat) : State :=
  match Map.find (s.ctx c).graphs g with
  | some gr =>
    if gr.open_ then
      let x := s.ctx c
      let s1 := s.setCtx c { x with graphs := x.graphs.put g { gr with cancelled := true } }
      (s1.liveLaunches c (fun l => l.lr.graph == g)).foldl State.cancelLaunch s1
    else s
  | none => s

/-- The cancel of a level (R33, R361): 1 launch, 2 graph, 3 phase, 4 job. -/
def State.cancelLevel (s : State) (c level id : Nat) : State :=
  let gs (t : Graph → Bool) : List Nat := ((s.ctx c).graphs.filter (fun kv => kv.2.open_ && t kv.2)).map (fun kv => kv.1)
  match level with
  | 1 => (s.liveLaunches c (fun l => l.lid == id)).foldl State.cancelLaunch s
  | 2 => s.cancelGraph c id
  | 3 => (gs (fun g => g.phase == id)).foldl (fun t g => t.cancelGraph c g) s
  | _ => (gs (fun g => g.job == id)).foldl (fun t g => t.cancelGraph c g) s

/-- GRAPH_CANCEL: OP 1. -/
def execGraphCancel (c q : Nat) (s : State) : Out :=
  s.withPacket c q (fun p => p.kind == 4 && p.at_ 8 8 == 1) (fun t p =>
    let w := p.at_ 0x10 8
    let level := bits w 2 0
    if p.reservedFrom 0x18 || bits w 15 3 != 0 || decide (2 ^ 32 ≤ w) || level == 0 || decide (4 < level) then t.badPacket c q p.index
    else (t.cancelLevel c level (bits w 31 16)).donePacket c q p)

/-! ## Copy packets (R361) -/

/-- The copy that a packet describes. DESIGN CHOICE: its engine is that of the die of the context's lowest slot, or of die 4. -/
def State.packetCopy (s : State) (c q : Nat) (p : Packet) : Copy :=
  let core := match (s.ctx c).slots with | i :: _ => i / 2 | [] => 320
  { ctx := c, packet := some (q, p.index, p.at_ 0x20 8, p.at_ 0x28 8, p.at_ 0x30 8), src := p.at_ 0x10 8, dst := p.at_ 8 8
    n := p.at_ 0x18 8, die := dieOfCore core, core := core, pc := 0xFFFFFFFF }

/-- The packet ends with a status: STATUS is written, then SIGV is added to SIG. -/
def State.endCopyPacket (s : State) (c q : Nat) (p : Packet) (status : Nat) : State :=
  let s1 := s.vWrite c (p.at_ 0x30 8) 8 status
  (if p.at_ 0x20 8 = 0 then s1 else s1.vAdd c (p.at_ 0x20 8) (p.at_ 0x28 8)).donePacket c q p

/-- A copy packet's issue (R285 to R289): a cause ends it with status 3, its cause in the event queue; a full overlap table puts
it off to the next token period, and its queue gives up its arbitration slot; a failed check of R134 is tried again. -/
def State.issuePacketCopy (s : State) (c q : Nat) (p : Packet) : State :=
  let k := s.packetCopy c q p
  let fail (e : Nat) : State := (s.post c .event 19 e 0xFFFF 0xFFFF q p.index).endCopyPacket c q p 3
  match s.copyCause k (2 ^ 36) 0 with
  | some e => fail e
  | none =>
    if k.total = 0 then s.endCopyPacket c q p 1
    else if 256 ≤ (s.outstanding c).length then
      let t := s.onPacket c q p.index (fun e => { e with started := false, retry := some s.nextRefill })
      if p.retry.isSome then t else t.setQueue c q { t.queue c q with slot := false }
    else
      let cs := s.copyCosts k
      match s.issueCheck c false false cs with
      | .tooLarge => fail cVlarge
      | .ok =>
        let id := s.clock + 1
        let n := s.copies.fresh
        let w := mergeHits ((s.ctx c).hitsOf 62 { src := 2 } (k.rowRanges k.src k.sstride)) ((s.ctx c).hitsOf 61 { src := 2 } (k.rowRanges k.dst k.dstride))
        let s1 := { (s.addCharges c id cs) with clock := id, copies := s.copies.put n { k with opId := id, charge := id, watch := w } }
        s1.onPacket c q p.index (fun e => { e with started := true, retry := none, obj := some n })
      | _ => s.onPacket c q p.index (fun e => { e with started := false, retry := none })

/-- The copy packet of a queue whose next try is due. -/
def State.duePacket (s : State) (c q : Nat) : Option Packet :=
  (s.queue c q).taken.find? (fun p => match p.retry with | some t => decide (t * 1000 ≤ s.gtime) | none => false)

/-- COPY_PACKET: one put off whose period has come, else the next of the queue. -/
def execCopyPacket (c q : Nat) (s : State) : Out :=
  match s.duePacket c q with
  | some p => .next (s.issuePacketCopy c q p).arbitrate
  | none => s.withPacket c q (fun p => p.kind == 5) (fun t p =>
      if p.reservedFrom 0x38 then (t.post c .event 19 0 0xFFFF 0xFFFF q p.index).endCopyPacket c q p 3
      else t.issuePacketCopy c q p)

end Sys2Proof.Machine
end

