-- ==== Sys2Proof/Machine/Moves.lean ====
section
/-!
DEFINITION. Shootdowns (24 R378, R379) and the migration engine (24 R380 to R392).
-/
namespace Sys2Proof.Machine

/-! ## Shootdowns (R378) -/

/-- An address lies in a run of 64 KiB pages. -/
def inPages (va pages a : Nat) : Bool := decide (va ≤ a) && decide (a < va + 65536 * pages)

/-- Two virtual ranges, as first address and length, meet. -/
def overlaps (a n b m : Nat) : Bool := decide (a < b + m) && decide (b < a + n)

/-- An access is still to be performed through a translation of a range. -/
def Part.through (p : Part) (va pages : Nat) : Bool := !p.done && inPages va pages p.va &&
  (match p.place with | .phys _ _ _ _ => true | .peer _ => true | _ => false)

/-- The accesses of a context that were translated in a range, as (group, operation). -/
def State.translated (s : State) (c va pages : Nat) : List (Nat × Nat) :=
  (s.groups.filter (fun kv => kv.2.ctx == c)).flatMap (fun kv =>
    (kv.2.pend.filter (fun p => p.parts.any (fun a => a.through va pages))).map (fun p => (kv.1, p.id))) ++
  (s.tileOps.filter (fun kv => kv.2.ctx == c && kv.2.rows.any (fun a => a.through va pages))).map (fun kv => (kv.2.group, kv.2.opId))

/-- A window of a group that overlaps a range becomes stale (R68): one of LIM 0 overlaps none. -/
def Window.stale (w : Window) (va pages : Nat) : Window :=
  if w.v && decide (w.typ < 6) && decide (0 < w.lim) && overlaps w.vbase w.lim va (65536 * pages) then { w with st := true } else w

/-- Steps 1 to 3 of a shootdown: no TLB entry of the context lies in the range, and its windows there are stale; the
accesses translated in it are what it waits for. Write-backs that have failed there are to be tried again (R77). -/
def State.shoot (s : State) (c va pages : Nat) (move : Option Nat) : State :=
  let ws := s.translated c va pages
  let s1 := { s with
    tlb := s.tlb.filter (fun e => !(e.ctx == c && overlaps e.va (pageSize e.large) va (65536 * pages)))
    groups := s.groups.each (fun (x : Group) =>
      if x.ctx = c ∧ (x.residence = Residence.resident ∨ x.residence = Residence.image) then { x with wins := x.wins.each (fun w => w.stale va pages) } else x) }
  let y := s1.ctx c
  (s1.againLines (fun n => n.ctx == c && inPages va pages n.backing)).setCtx c { y with shoots := y.shoots ++ [{ va := va, pages := pages, waits := ws, move := move }] }

/-- GO written to SDCMD (R378). -/
def State.goShoot (s : State) (c : Nat) : State :=
  let x := s.ctx c
  if x.sdbusy then s.refuse c 1
  else (s.setCtx c { x with sdbusy := true, sddone := false }).shoot c x.sdaddr.toNat x.sdlen.toNat none

/-- SHOOTDOWN. -/
def execShootdown (c : Nat) (s : State) : Out := .next (s.goShoot c)

/-- An operation that a shootdown waits for is still to be performed. -/
def State.stillWaits (s : State) (w : Nat × Nat) : Bool :=
  (match Map.find s.groups w.1 with | some x => x.pend.any (fun p => p.id == w.2) | none => false) ||
  s.tileOps.any (fun kv => kv.2.group == w.1 && kv.2.opId == w.2)

/-- SHOOTDOWN_DONE: every access it waits for has been performed. -/
def execShootdownDone (c : Nat) (s : State) : Out :=
  .next (
    let x := s.ctx c
    match x.shoots.find? (fun h => !(h.waits.any s.stillWaits)) with
    | none => s
    | some h =>
      let y := { x with shoots := x.shoots.erase h }
      match h.move with
      | none => (s.setCtx c { y with sdbusy := false, sddone := true }).post c .event 17 0 0xFFFF 0xFFFF x.sdaddr.toNat x.sdlen.toNat
      | some r =>
        let s1 := s.setCtx c y
        match Map.find s1.moves r with
        | some mv => { s1 with moves := s1.moves.put r { mv with shootsLeft := mv.shootsLeft - 1 } }
        | none => s1)

/-! ## Pages and leaves -/

/-- The page of an address in a context's table: its base and its leaf. -/
def State.pageOf (s : State) (c va : Nat) : Option (Nat × Leaf) :=
  match s.walk c (va % 2 ^ 57) with
  | .leaf l => some (pageBase l.large (va % 2 ^ 57), l)
  | _ => none

/-- The leaves below a table of a level, ascending; `va` is the first address that the table maps. -/
def leavesFrom (m : List Host.Cell) (va : Nat) : Nat → Nat → List (Nat × Leaf)
  | 0, table =>
    (List.range 32).filterMap (fun i =>
      let a := table + 8 * i
      let w := BitVec.ofNat 64 (getLE m a 8)
      if w.getLsbD 63 && w.getLsbD 62 && leafOk w false then some (va + 65536 * i, ⟨w, a, false⟩) else none)
  | level + 1, table =>
    (List.range (if level = 3 then 510 else 512)).flatMap (fun i =>
      let a := table + 8 * i
      let w := BitVec.ofNat 64 (getLE m a 8)
      let v := va + 2 ^ (21 + 9 * level) * i
      if w.getLsbD 63 = false then []
      else if w.getLsbD 62 then (if level = 0 ∧ leafOk w true = true then [(v, ⟨w, a, true⟩)] else [])
      else if tableOk w level then leavesFrom m v level (bits w.toNat 51 8 * 256)
      else [])

/-- Every page of a context. -/
def State.leaves (s : State) (c : Nat) : List (Nat × Leaf) := leavesFrom s.mem 0 4 (s.ctx c).ptroot.toNat

/-- The next generation, skipping 0 and another (R379, R385). -/
def nextGen (g skip : Nat) : Nat :=
  let up (n : Nat) : Nat := if (n + 1) % 65536 = 0 then 1 else (n + 1) % 65536
  if up g = skip then up (up g) else up g

/-- A leaf for a new frame (R384): the same permissions and PIN, the destination's ADDR and TYPE, a new GEN. -/
def State.leafFor (s : State) (w : W64) (dst skip : Nat) : W64 :=
  BitVec.ofNat 64 (3 * 2 ^ 62 + s.typOf dst * 2 ^ 59 + bits w.toNat 58 52 * 2 ^ 52 + bits dst 51 16 * 65536 + nextGen (leafGen w) skip)

/-! ## Commands (R386) -/

/-- A command of the ring. -/
structure MCmd where
  index : Nat
  at_ : Nat
  op : Nat
  ctx : Nat
  stack : Nat
  va : Nat
  arg : Nat
  narg : Nat
  bad : Bool
  deriving DecidableEq, Repr

/-- The command at MQHEAD, where the ring holds one. -/
def State.command (s : State) : Option MCmd :=
  if s.mqsize = 0#64 ∨ s.mqtail.toNat ≤ s.mqhead then none
  else
    let a := s.mqbase.toNat + 64 * (s.mqhead % s.mqsize.toNat)
    let rd (o n : Nat) : Nat := s.readLE (a + o) n
    some ⟨s.mqhead, a, rd 0 1, rd 1 1, rd 4 4, rd 8 8, rd 0x10 8, rd 0x18 8,
      rd 2 2 != 0 || rd 0x30 16 != 0 || rd 0 1 == 0 || decide (4 < rd 0 1) || (rd 0 1 != 3 && decide (15 < rd 1 1)) || (rd 0 1 == 3 && decide (11 < rd 4 4))⟩

/-- The place of a command's words by its index. -/
def State.cmdAt (s : State) (index : Nat) : Nat := s.mqbase.toNat + 64 * (index % s.mqsize.toNat)

/-- STATUS of a command, written once. -/
def State.cmdStatus (s : State) (index status : Nat) : State := s.writeMem (s.cmdAt index + 0x20) (leBytes 8 status)

/-- CAUSE of a command that was aborted, before its STATUS. -/
def State.cmdCause (s : State) (index cause : Nat) : State := s.writeMem (s.cmdAt index + 0x28) (leBytes 8 cause)

/-- The command is taken. -/
def State.takeCmd (s : State) : State := { s with mqhead := s.mqhead + 1 }

/-- Records that a die's engine serves (R381): those whose first source lies there. -/
def State.movesOn (s : State) (die : Nat) : Nat :=
  (s.moves.filter (fun kv => kv.2.pgs.head?.any (fun p => s.dieOf (s.typOf p.src) p.src == die))).length

/-- The engine of the die of a frame can take one more record. -/
def State.engineFree (s : State) (pa : Nat) : Bool := decide (s.movesOn (s.dieOf (s.typOf pa) pa) < 16)

/-! ## The thrash bound (R389) -/

/-- The history of a page. -/
def Ctx.hist (x : Ctx) (va : Nat) : PageHist := (x.pages.find? (fun h => h.va == va)).getD { va := va }

/-- Puts the history of a page. -/
def Ctx.putHist (x : Ctx) (h : PageHist) : Ctx := { x with pages := h :: x.pages.filter (fun k => k.va != h.va) }

/-- A page stands under a thrash pin. -/
def State.pinned (s : State) (c va : Nat) : Bool := decide (s.gtime < ((s.ctx c).hist va).pinEnd)

/-- The starts of a page within the window that ends now. -/
def State.recentStarts (s : State) (c va : Nat) : List Nat := ((s.ctx c).hist va).starts.filter (fun t => decide (s.gtime < t + 4000000))

/-- A third start is refused: the page is pinned where it stands, with a notice; a page under a pin is refused without one. -/
def State.thrash (s : State) (c va : Nat) : Option State :=
  if s.pinned c va then some s
  else if 2 ≤ (s.recentStarts c va).length then
    let e := s.gtime + 64000000
    let x := s.ctx c
    some ((s.setCtx c (x.putHist { x.hist va with pinEnd := e })).postDev 34 c va e)
  else none

/-- A start is counted. -/
def State.countStart (s : State) (c va : Nat) : State :=
  let x := s.ctx c
  s.setCtx c (x.putHist { x.hist va with starts := s.recentStarts c va ++ [s.gtime] })

/-- THRASH_PIN_EXPIRE: the pin of a page has lapsed. -/
def execThrashPinExpire (c va : Nat) (s : State) : Out :=
  .next (
    let x := s.ctx c
    let h := x.hist va
    if h.pinEnd ≠ 0 ∧ h.pinEnd ≤ s.gtime then s.setCtx c (x.putHist { h with pinEnd := 0 }) else s)

/-! ## Starting (R381, R385, R386) -/

/-- A page that no MOVE, SWAP or automatic choice may start: PIN, a type that does not migrate, NOMIG, or in motion. -/
def State.immovable (s : State) (c va : Nat) (l : Leaf) : Bool :=
  leafPin l.bits || decide (2 < leafType l.bits) || (s.ctx c).nomig || s.inMotion c va

/-- A page and its frames in a record. -/
def State.movePage (s : State) (va : Nat) (l : Leaf) (dst skip : Nat) : MovePage :=
  { va := va, src := leafFrame l.bits, dst := dst, leaf := l.bits, leafAt := l.at_, newLeaf := s.leafFor l.bits dst skip }

/-- A record enters the engine. -/
def State.addMove (s : State) (c : Nat) (ps : List MovePage) (large : Bool) (cmd : Option Nat) (evac : Bool) : State :=
  { s with moves := s.moves.put s.moves.fresh { ctx := c, pgs := ps, lines := if large then 16384 else 512, cmd := cmd, evac := evac } }

/-- What a MOVE command comes to: a final status, or a page to move. -/
def State.moveCheck (s : State) (k : MCmd) : Except Nat (Nat × Leaf) :=
  if k.bad || k.arg % 65536 != 0 then .error 5
  else
    match s.pageOf k.ctx k.va with
    | none => .error 4
    | some (va, l) =>
      if k.arg % pageSize l.large ≠ 0 then .error 5
      else if s.immovable k.ctx va l || (match s.region k.arg with | some r => decide (2 < r.typ) | none => true) || k.arg == leafFrame l.bits then .error 4
      else .ok (va, l)

/-- MOVE (R381, R386). A command with a reserved OP ends here with status 5. -/
def execMove (s : State) : Out :=
  .next (match s.command with
    | none => s
    | some k =>
      if k.op = 2 ∨ k.op = 3 ∨ k.op = 4 then s
      else
        match s.moveCheck k with
        | .error e => s.takeCmd.cmdStatus k.index e
        | .ok (va, l) =>
          match s.thrash k.ctx va with
          | some s1 => s1.takeCmd.cmdStatus k.index 3
          | none =>
            if s.engineFree (leafFrame l.bits) then (s.takeCmd.countStart k.ctx va).addMove k.ctx [s.movePage va l k.arg 0] l.large (some k.index) false
            else s)

/-- A swap pair starts, or the bound refuses it for its pages, each of which it pins that it would start a third time (R385, R389). -/
def State.startSwap (s : State) (c : Nat) (f n : Nat × Leaf) (cmd : Option Nat) : Except State State :=
  match s.thrash c f.1, s.thrash c n.1 with
  | some s1, _ => .error ((s1.thrash c n.1).getD s1)
  | none, some s1 => .error s1
  | none, none =>
    let gf := leafGen f.2.bits
    let gn := leafGen n.2.bits
    .ok (((s.countStart c f.1).countStart c n.1).addMove c
      [s.movePage f.1 f.2 (leafFrame n.2.bits) gn, s.movePage n.1 n.2 (leafFrame f.2.bits) gf] f.2.large cmd false)

/-- SWAP (R385, R386). -/
def execSwap (s : State) : Out :=
  .next (match s.command with
    | none => s
    | some k =>
      if k.op ≠ 2 then s
      else if k.bad then s.takeCmd.cmdStatus k.index 5
      else
        match s.pageOf k.ctx k.va, s.pageOf k.ctx k.arg with
        | some f, some n =>
          if s.immovable k.ctx f.1 f.2 || s.immovable k.ctx n.1 n.2 || !(leafType f.2.bits == 1 || leafType f.2.bits == 2) ||
              leafType n.2.bits != 0 || f.2.large != n.2.large then s.takeCmd.cmdStatus k.index 4
          else if !(s.engineFree (leafFrame f.2.bits)) then s
          else
            match s.startSwap k.ctx f n (some k.index) with
            | .ok t => t.takeCmd
            | .error t => t.takeCmd.cmdStatus k.index 3
        | _, _ => s.takeCmd.cmdStatus k.index 4)

/-! ## Evacuation (R392) -/

/-- The pages whose frames lie on a stack, by context and then by address: those of the types that migrate (R380); the address of a
peer's page is none of the device's frames. -/
def State.pagesOnStack (s : State) (k : Nat) : List (Nat × Nat × Leaf) :=
  s.ctxNums.flatMap (fun c => ((s.leaves c).filter (fun p => decide (leafType p.2.bits < 3) && s.stackOf (leafFrame p.2.bits) == some k)).map (fun p => (c, p.1, p.2)))

/-- A record runs on a stack. -/
def State.movesAt (s : State) (k : Nat) : Bool :=
  s.moves.any (fun kv => kv.2.pgs.any (fun p => s.stackOf p.src == some k || s.stackOf p.dst == some k))

/-- One page of an evacuation starts, with the next frames of its list. -/
def State.evacNext (s : State) (e : Evac) : Option State :=
  match (s.pagesOnStack e.stack).find? (fun p => !(s.moves.any (fun kv => kv.2.ctx == p.1 && kv.2.pgs.any (fun q => q.va == p.2.1)))) with
  | none => none
  | some (c, va, l) =>
    let n := if l.large then 32 else 1
    match e.frames with
    | d :: _ =>
      if s.engineFree (leafFrame l.bits) ∧ n ≤ e.frames.length then
        some ({ s with evacs := s.evacs.map (fun (f : Evac) => if f.cmd = e.cmd then { f with frames := f.frames.drop n } else f) }.addMove c
          [s.movePage va l d 0] l.large (some e.cmd) true)
      else none
    | [] => none

/-- An evacuation that can go on: one whose next page can start, or whose stack is empty. -/
def State.evacStep (s : State) : Option State :=
  s.evacs.findSome? (fun e =>
    match s.evacNext e with
    | some t => some t
    | none =>
      if s.pagesOnStack e.stack = [] ∧ s.moves.any (fun kv => kv.2.evac && kv.2.cmd == some e.cmd) = false then
        some (({ s with evacs := s.evacs.filter (fun f => f.cmd != e.cmd) }.cmdStatus e.cmd 1).postDev 35 0xFF e.stack 0)
      else none)

/-- EVACUATE (R392): an evacuation in progress goes on; else the command is taken, once the moves that run on the stack have
ended. -/
def execEvacuate (s : State) : Out :=
  .next (match s.evacStep with
    | some t => t
    | none =>
      match s.command with
      | none => s
      | some k =>
        if k.op ≠ 3 then s
        else if k.bad then s.takeCmd.cmdStatus k.index 5
        else if s.movesAt k.stack then s
        else
          let need := (s.pagesOnStack k.stack).foldl (fun a p => a + (if p.2.2.large then 32 else 1)) 0
          if k.narg < need then s.takeCmd.cmdStatus k.index 6
          else
            { s.takeCmd with evacs := s.evacs ++ [{ cmd := k.index, stack := k.stack, frames := (List.range k.narg).map (fun i => s.readLE (k.arg + 8 * i) 8) }] })

/-! ## Aborts (R390, R391) -/

/-- ABORT: a page that is not in motion gives status 1; an evacuation cannot be aborted. -/
def execAbort (s : State) : Out :=
  .next (match s.command with
    | none => s
    | some k =>
      if k.op ≠ 4 then s
      else if k.bad then s.takeCmd.cmdStatus k.index 5
      else
        match s.moves.find? (fun kv => kv.2.ctx == k.ctx && kv.2.phase != .forwarding && kv.2.pgs.any (fun p => kv.2.covers p k.va)) with
        | none => s.takeCmd.cmdStatus k.index 1
        | some (r, mv) =>
          if mv.evac then s.takeCmd.cmdStatus k.index 4
          else
            { s.takeCmd with moves := s.moves.put r { mv with abort := some (mv.abort.getD 1), abortCmds := mv.abortCmds ++ [k.index] } })

/-- MOVE_ABORT (R390): the copy-back starts once no line copy is in progress; when every bit is 0 the record is retired, its leaves
as they were. -/
def execMoveAbort (r : Nat) (s : State) : Out :=
  .next (match Map.find s.moves r with
    | none => s
    | some mv =>
      match mv.phase, mv.abort with
      | .copying, some cause => if mv.locked then s else { s with moves := s.moves.put r { mv with phase := .copyBack cause } }
      | .copyBack cause, _ =>
        if mv.done = 0 ∧ mv.locked = false then
          let s1 := { s with moves := s.moves.del r }
          let s2 := match mv.cmd with
            | some i => ((s1.cmdCause i cause).cmdStatus i 2).postDev 32 0xFF i cause
            | none => s1.postDev 32 0xFF (2 ^ 64 - 1) cause
          mv.abortCmds.foldl (fun t i => t.cmdStatus i 1) s2
        else s
      | _, _ => s)

/-! ## Line copies (R381, R385, R391) -/

/-- A stack of the record is in self-refresh. -/
def State.moveRefreshing (s : State) (mv : Move) : Bool :=
  mv.pgs.any (fun p => [p.src, p.dst].any (fun a => match s.stackOf a with | some k => (Map.find s.refresh k).isSome | none => false))

/-- One line moved from one frame to another: an uncorrectable line is entered at its new home. -/
def State.copyLine (s : State) (src dst : Nat) (zero : Bool) : State :=
  let bad := s.lineBad src
  let s1 := s.writeMem dst (if bad && zero then List.replicate 128 0#8 else s.readMem src 128)
  if bad then s1.recordLine dst else s1

/-- No cache holds a copy of a line (R381). -/
def State.uncache (s : State) (pa : Nat) : State :=
  { s with l1 := s.l1.filter (fun n => n.line != pa / 128), l2 := s.l2.filter (fun n => n.line != pa / 128) }

/-- The lines of a record at a place, moved between their frames: one way, or exchanged (R385). -/
def State.copyLines (s0 : State) (mv : Move) (off : Nat) (back : Bool) : State :=
  let s := mv.pgs.foldl (fun (t : State) p => (t.uncache (p.src + off)).uncache (p.dst + off)) s0
  match mv.pgs with
  | [p] => if back then s.copyLine (p.dst + off) (p.src + off) false else s.copyLine (p.src + off) (p.dst + off) mv.evac
  | p :: _ =>
    -- The far line lies in p.src before, in p.dst after; the near line the other way round.
    let a := p.src + off
    let b := p.dst + off
    let stage := s.readMem b 128
    let badB := s.lineBad b
    let s1 := s.copyLine a b false
    let s2 := s1.writeMem a stage
    if badB then s2.recordLine a else s2
  | [] => s

/-- A controller that a record writes to has failed (R390): it is in the contained state. -/
def State.dstFailed (s : State) (mv : Move) : Bool := mv.pgs.any (fun p => s.contained.contains (s.typOf p.dst, s.dieOf (s.typOf p.dst) p.dst))

/-- LINE_COPY (R381): takes the lock of the record's next line, or, where it holds it, copies the line, sets or clears its bit
and releases the lock. -/
def execLineCopy (r : Nat) (s : State) : Out :=
  .next (match Map.find s.moves r with
    | none => s
    | some mv =>
      let put (t : State) (m : Move) : State := { t with moves := t.moves.put r m }
      if s.moveRefreshing mv then s
      else
        match mv.phase with
        | .copying =>
          if mv.locked then
            let off := 128 * mv.done
            if mv.pgs.any (fun p => s.lineBad (p.src + off)) && !mv.evac then put s { mv with locked := false, abort := some (mv.abort.getD 3) }
            else if s.dstFailed mv && !mv.evac then put s { mv with locked := false, abort := some (mv.abort.getD 4) }
            else put (s.copyLines mv off false) { mv with locked := false, done := mv.done + 1 }
          else if mv.done < mv.lines ∧ mv.abort = none then put s { mv with locked := true }
          else s
        | .copyBack _ =>
          if mv.locked then put (s.copyLines mv (128 * (mv.done - 1)) true) { mv with locked := false, done := mv.done - 1 }
          else if 0 < mv.done then put s { mv with locked := true }
          else s
        | .forwarding => s)

/-! ## Completion (R384, R379) -/

/-- Every window of every occupied locket frame of a context is stale (R379). -/
def State.staleLockets (s : State) (c : Nat) : State :=
  s.eachGroup (fun x => x.ctx == c && (match x.residence with | .saved _ => true | _ => false)) (fun t g =>
    let a := t.frameAt (t.grp g) + 0x80
    (List.range 16).foldl (fun u k =>
      let b := a + 24 * k + 4
      u.vWrite c b 1 (u.vRead c b 1 ||| 32)) t)

/-- The leaf of a page is written, and its shootdown starts. -/
def State.writeLeaf (s : State) (r c lines : Nat) (p : MovePage) : State :=
  let s1 := if leafGen p.newLeaf < leafGen p.leaf then s.staleLockets c else s
  (s1.writeMem p.leafAt (leBytes 8 p.newLeaf.toNat)).shoot c p.va (lines / 512) (some r)

/-- An evacuation's page whose leaf was changed is tried again with the new leaf; one that no longer lies where it did starts
over, or is dropped. -/
def State.retryEvac (s : State) (r : Nat) (mv : Move) : State :=
  match mv.pgs with
  | p :: _ =>
    (match s.pageOf mv.ctx p.va with
     | some (va, l) =>
       if va = p.va ∧ l.large = decide (mv.lines = 16384) ∧ s.stackOf (leafFrame l.bits) = s.stackOf p.src then
         let q := s.movePage va l p.dst 0
         { s with moves := s.moves.put r { mv with pgs := [q], done := if q.src = p.src then mv.done else 0 } }
       else { s with moves := s.moves.del r }
     | none => { s with moves := s.moves.del r })
  | [] => { s with moves := s.moves.del r }

/-- MOVE_COMPLETE (R384, R385): the last bit is set; every leaf is compared with the one read at the start and written, or the
move aborts with leaf-changed. -/
def execMoveComplete (r : Nat) (s : State) : Out :=
  .next (match Map.find s.moves r with
    | none => s
    | some mv =>
      if mv.phase = .copying ∧ mv.abort = none ∧ mv.done = mv.lines ∧ mv.locked = false then
        if mv.pgs.all (fun p => s.readLE p.leafAt 8 == p.leaf.toNat) then
          let s1 := { s with moves := s.moves.put r { mv with phase := .forwarding, shootsLeft := mv.pgs.length } }
          mv.pgs.foldl (fun t p => t.writeLeaf r mv.ctx mv.lines p) s1
        else if mv.evac then s.retryEvac r mv
        else { s with moves := s.moves.put r { mv with abort := some 2 } }
      else s)

/-- A request in flight names the old frame of a record. -/
def State.toOldFrame (s : State) (mv : Move) : Bool :=
  let old (p : Part) : Bool := !p.done &&
    (match p.place with | .phys pa page _ gen => (mv.pageFor mv.ctx page gen pa).isSome | _ => false)
  s.groups.any (fun kv => kv.2.ctx == mv.ctx && kv.2.pend.any (fun q => q.parts.any old)) ||
  s.tileOps.any (fun kv => kv.2.ctx == mv.ctx && kv.2.rows.any old)

/-- MOVE_RETIRE (R384): the shootdowns are done and no request is in flight toward a source frame; the frame is free, and the command
is done. A swap pair frees no frame. -/
def execMoveRetire (r : Nat) (s : State) : Out :=
  .next (match Map.find s.moves r with
    | none => s
    | some mv =>
      if mv.phase = .forwarding ∧ mv.shootsLeft = 0 ∧ s.toOldFrame mv = false then
        let s1 := { s with moves := s.moves.del r }
        let s2 := match mv.pgs with
          | [p] => s1.postDev 33 0xFF p.src 0
          | _ => s1
        match mv.cmd with
        | some i => if mv.evac then s2 else s2.cmdStatus i 1
        | none => s2
      else s)

/-! ## Hotness (R387, R388) -/

/-- The counter of a page: over its frames. -/
def State.hotOf (s : State) (l : Leaf) : Nat :=
  let f := leafFrame l.bits / 65536
  if l.large then Nat.min 255 ((List.range 32).foldl (fun a i => a + Map.get 0 s.hot (f + i)) 0) else Map.get 0 s.hot f

/-- The pages of a context that have a counter. -/
def State.hotPages (s : State) (c : Nat) : List (Nat × Leaf) := (s.leaves c).filter (fun p => decide (leafType p.2.bits < 3))

/-- One hotness record. -/
def State.hotRecord (s : State) (c : Nat) (p : Nat × Leaf) : State :=
  let x := s.ctx c
  let fr := leafFrame p.2.bits
  let typ := s.typOf fr
  let thr := s.pinned c p.1
  let bs := leBytes 8 p.1 ++ leBytes 1 (s.hotOf p.2) ++ leBytes 1 typ ++
    leBytes 1 (b2n thr + 2 * b2n (thr || leafPin p.2.bits) + 4 * b2n (s.inMotion c p.1)) ++ leBytes 1 (s.dieOf typ fr) ++ leBytes 4 (s.gtime / 1000)
  let s1 := s.vWriteBytes c (x.htbase.toNat + 16 * (x.hthead % x.htsize.toNat)) bs
  let y := s1.ctx c
  s1.setCtx c { y with hthead := y.hthead + 1, htovf := if x.htsize.toNat ≤ x.hthead then y.htovf + 1 else y.htovf }

/-- The report of a context. -/
def State.hotReport (s : State) (c : Nat) : State :=
  let x := s.ctx c
  if x.htsize = 0#64 then s
  else ((s.hotPages c).filter (fun p => decide (x.htmin.toNat ≤ s.hotOf p.2))).foldl (fun t p => t.hotRecord c p) s

/-- The page with the best counter; the earlier in the list on a tie. -/
def State.bestPage (s : State) (hottest : Bool) (ps : List (Nat × Leaf)) : Option (Nat × Leaf) :=
  ps.foldl (fun (b : Option (Nat × Leaf)) p =>
    match b with
    | some h => if (if hottest then decide (s.hotOf h.2 < s.hotOf p.2) else decide (s.hotOf p.2 < s.hotOf h.2)) then some p else b
    | none => some p) none

/-- The automatic choice of a context on a die (R388), from the counters of the report. -/
def State.autoSwap (s old : State) (c die : Nat) : State :=
  let x := old.ctx c
  let ok (p : Nat × Leaf) : Bool := !(s.immovable c p.1 p.2) && !(s.pinned c p.1) && old.dieOf (leafType p.2.bits) (leafFrame p.2.bits) == die
  let ps := (s.hotPages c).filter ok
  let far := ps.filter (fun p => leafType p.2.bits != 0 && decide (bits x.migpol.toNat 7 0 ≤ old.hotOf p.2))
  match old.bestPage true far with
  | none => s
  | some f =>
    let near := ps.filter (fun p => leafType p.2.bits == 0 && decide (old.hotOf p.2 ≤ bits x.migpol.toNat 15 8) && p.2.large == f.2.large)
    match old.bestPage false near with
    | none => s
    | some n =>
      if s.engineFree (leafFrame f.2.bits) then (match s.startSwap c f n none with | .ok t => t | .error t => t) else s

/-- Every counter is halved; a large page's counter is that of its first frame. -/
def State.halveHot (s : State) : State :=
  let larges := s.ctxNums.flatMap (fun c => ((s.hotPages c).filter (fun p => p.2.large)).map (fun p => (leafFrame p.2.bits / 65536, s.hotOf p.2)))
  let m := larges.foldl (fun (m : Map Nat) e =>
    Map.set 0 (m.filter (fun kv => !(decide (e.1 ≤ kv.1) && decide (kv.1 < e.1 + 32)))) e.1 e.2) s.hot
  { s with hot := (m.each (fun n => n / 2)).filter (fun kv => kv.2 != 0) }

/-- HOTNESS_REPORT (R387, R388): at each multiple of 1,000,000 ns. -/
def execHotnessReport (s : State) : Out :=
  .next (
    if s.nextHot * 1000 ≤ s.gtime then
      let s1 := s.ctxNums.foldl State.hotReport s
      let s2 := { s1.halveHot with nextHot := s.nextHot + 1000 }
      (s.ctxNums.filter (fun c => (s.ctx c).migpol.getLsbD 16)).foldl (fun t c => (List.range 9).foldl (fun u d => u.autoSwap s c d) t) s2
    else s)

end Sys2Proof.Machine
end

