-- ==== Sys2Proof/Machine/Debug.lean ====
section
/-!
DEFINITION. The debug block (28 R431, R432), stops at region edges (R434 to R436), watch hits (R437 to R440).
-/
namespace Sys2Proof.Machine

/-! ## Debug records (R433) -/

/-- The launch debug queue, or the context ring where the launch is bound to no target or lives no more (R432, R440). -/
def State.debugTarget (s : State) (c : Nat) (launch : Option Nat) (lid : Nat) : Option Nat :=
  match launch with
  | some l =>
    let x := s.lau l
    if x.ctx = c ∧ x.phase = .running ∧ x.lid = lid then x.target else none
  | none => none

/-- Posts a 64-byte record to the ring of a launch, or of the context. -/
def State.postDebug (s : State) (c : Nat) (launch : Option Nat) (lid : Nat) (bs : List Byte) : State :=
  match s.debugTarget c launch lid with
  | none => s.postRing c .debug bs
  | some k =>
    let t := Map.get {} (s.ctx c).targets k
    let r : Ring := { base := t.tqbase, size := BitVec.ofNat 64 (bits t.tqctl.toNat 31 0), head := t.tqhead }
    let s1 := if r.size = 0#64 then s else s.vWriteBytes c (r.slot 64) bs
    let y := s1.ctx c
    let irq := if y.ivec.getLsbD 63 && r.size != 0#64 then y.irq ||| RingId.bit .debug else y.irq
    s1.setCtx c { y with targets := y.targets.put k { t with tqhead := r.after.head }, irq := irq }

/-- The fields of a debug record (R433). -/
def debugRecord (kind src wp lid gid time pc lpos arg addr size : Nat) (mask : W32) (rgn : W64) (frame : Nat) : List Byte :=
  leBytes 2 kind ++ leBytes 1 src ++ leBytes 1 wp ++ leBytes 2 lid ++ leBytes 2 gid ++ leBytes 8 time ++ leBytes 4 pc ++ leBytes 2 lpos ++
    leBytes 2 arg ++ leBytes 8 addr ++ leBytes 4 size ++ leBytes 4 mask.toNat ++ leBytes 8 rgn.toNat ++ leBytes 8 frame ++ leBytes 8 0

/-! ## Stops (R434, R435) -/

/-- The groups that a DCMD names: one, or ALL of the launch (R431); none where no live launch or group of the context is
named. -/
def State.dcmdGroups (s : State) (c : Nat) (v : W64) : List Nat :=
  let lid := bits v.toNat 31 16
  let gid := bits v.toNat 41 32
  (s.groups.filter (fun kv => kv.2.ctx == c && kv.2.residence != .ended && (s.lau kv.2.launch).lid == lid &&
    (s.lau kv.2.launch).phase == .running && (v.getLsbD 42 || kv.2.gid == gid))).map (fun kv => kv.1)

/-- The group is stopped for debugging. -/
def Group.debugStopped (x : Group) : Bool := x.residence == .saved 0 && !x.dbgGo

/-- STOP: each named group stops at its next region edge. -/
def State.dcmdStop (s : State) (c : Nat) (v : W64) : State :=
  let gs := s.dcmdGroups c v
  if gs = [] then s.refuse c 5
  else gs.foldl (fun t g =>
    let x := t.grp g
    if x.debugStopped then t else t.setGrp g { x with dbgStop := some (x.dbgStop.getD 2) }) s

/-- RESUME, and the resume of STEP: each named group that is stopped comes back from its frame; the KIND of the stop to come,
for STEP. -/
def State.dcmdResume (s : State) (c : Nat) (v : W64) (step : Option Nat) : State :=
  let gs := (s.dcmdGroups c v).filter (fun g => (s.grp g).debugStopped)
  if gs = [] then s.refuse c 5
  else gs.foldl (fun t g => (t.setGrp g { t.grp g with dbgGo := true, dbgStop := step }).debugRestore g) s

/-- DEBUG_STOP. -/
def execDebugStop (c : Nat) (v : W64) (s : State) : Out := .next (s.dcmdStop c v)
/-- DEBUG_RESUME. -/
def execDebugResume (c : Nat) (v : W64) (s : State) : Out := .next (s.dcmdResume c v none)
/-- DEBUG_STEP. -/
def execDebugStep (c : Nat) (v : W64) (s : State) : Out := .next (s.dcmdResume c v (some 3))

/-- DEBUG_STOP_SAVE (R435): a group halted at an edge, with an empty lane queue and nothing in flight, is saved, and its record
posted. -/
def execDebugStopSave (g : Nat) (s : State) : Out :=
  .next (match Map.find s.groups g with
    | none => s
    | some x =>
      match x.dbgStop with
      | some kind =>
        if x.atEdge && x.residence == .resident && x.queue.isEmpty && x.pend.isEmpty && x.pfWait.isEmpty then
          let s1 := s.saveGroup g 0
          let y := s1.grp g
          if y.residence = .saved 0 then
            let lid := (s.lau x.launch).lid
            (s1.setGrp g { y with dbgStop := none, dbgGo := false }).postDebug x.ctx (some x.launch) lid
              (debugRecord kind 0 0xFF lid x.gid s.gtime (x.pc - 4#64).toNat 0xFFFF (if kind = 1 then x.brkArg else 0) 0 0 x.m0 x.rgnWord (s.frameAt x))
          else s1
        else s
      | none => s)

/-! ## Watch hits (R439, R440) -/

/-- WATCH_HIT: the record of the oldest hit; a STOP stops the group at its next edge (R434). -/
def execWatchHit (c : Nat) (s : State) : Out :=
  .next (
    let x := s.ctx c
    match x.hits with
    | [] => s
    | h :: t =>
      let s1 := (s.setCtx c { x with hits := t }).postDebug c h.launch h.lid
        (debugRecord 4 h.src h.wp h.lid h.gid s.gtime h.pc h.lpos h.arg h.addr h.size h.mask h.rgn 0)
      match h.stops with
      | some g =>
        (match Map.find s1.groups g with
         | some y => if y.residence = .ended then s1 else s1.setGrp g { y with dbgStop := some (y.dbgStop.getD 2) }
         | none => s1)
      | none => s1)

/-! ## Registers (R431, R432, R437) -/

/-- Word n of the watchpoints: WPA of n / 2, or its WPL. -/
def State.writeWatch (s : State) (c n : Nat) (v : W64) : State :=
  let x := s.ctx c
  if n % 2 = 0 then s.setCtx c { x with wpa := Map.set 0#64 x.wpa (n / 2) (v &&& ~~~ BitVec.ofNat 64 (3 * 2 ^ 57)) }
  else
    let len := v.toNat % 2 ^ 33
    if len = 0 ∨ 2 ^ 32 < len then s.refuse c 3 else s.setCtx c { x with wpl := Map.set 0#64 x.wpl (n / 2) (BitVec.ofNat 64 len) }

/-- WATCHPOINT_WRITE. -/
def execWatchpointWrite (c n : Nat) (v : W64) (s : State) : Out := .next (s.writeWatch c n v)

/-- A size of a ring: 0, or a power of two from lo to hi. -/
def ringSize (lo hi n : Nat) : Bool := n == 0 || (decide (lo ≤ n) && decide (n ≤ hi) && n &&& (n - 1) == 0)

/-- Field f of a debug target (R432). -/
def State.writeTarget (s : State) (c k f : Nat) (v : W64) : State :=
  let x := s.ctx c
  let t := Map.get {} x.targets k
  let put (u : Target) : State := s.setCtx c { x with targets := x.targets.put k u }
  if s.launches.any (fun kv => kv.2.ctx == c && kv.2.phase == .running && kv.2.target == some k) then s.refuse c 5
  else match f with
    | 0 => put { t with tkdesc := v }
    | 1 => if v.toNat % 4096 = 0 then put { t with tqbase := v } else s.refuse c 3
    | 2 =>
      if !(ringSize 64 65536 (bits v.toNat 31 0)) || (v.getLsbD 33 && v.getLsbD 34) then s.refuse c 3
      else put { t with tqctl := BitVec.ofNat 64 (bits v.toNat 35 0 + 2 ^ 36 * b2n (t.tqctl.getLsbD 36)) }
    | 4 => if v.toNat % 16 = 0 then put { t with ulbase := v } else s.refuse c 3
    | 5 => if v.toNat ≤ 2 ^ 32 then put { t with ulsize := v } else s.refuse c 3
    | _ => s

/-- TARGET_WRITE. -/
def execTargetWrite (c k f : Nat) (v : W64) (s : State) : Out := .next (s.writeTarget c k f v)

/-- SPERIOD written: P from 256, JBITS at most 12. -/
def State.writeSperiod (s : State) (c : Nat) (v : W64) : State :=
  let x := s.ctx c
  if bits v.toNat 15 0 < 256 ∨ 12 < bits v.toNat 19 16 then s.refuse c 3
  else s.setCtx c { x with speriod := BitVec.ofNat 64 (bits v.toNat 19 0) }

/-- SPERIOD_WRITE. -/
def execSperiodWrite (c : Nat) (v : W64) (s : State) : Out := .next (s.writeSperiod c v)

end Sys2Proof.Machine
end

