-- ==== Sys2Proof/Machine/Power.lean ====
section
/-!
DEFINITION. Bring-up, clocks, thermal limits and the sideband port (29 R446 to R453, 08 R140, 25 R407, R408, R410).
-/
namespace Sys2Proof.Machine

/-- Puts the clock of a die. -/
def State.setClk (s : State) (d : Nat) (x : DieClock) : State := { s with clocks := s.clocks.put d x }

/-! ## Bring-up (R446) -/

/-- The items of a kind that flash records as retired. -/
def State.flashed (s : State) (kind : Nat) : List Nat := (s.flash.filter (fun f => f.1 == kind)).map (fun f => f.2)

/-- The dies that Bervos has stopped for their temperature (R451). -/
def State.stoppedDies (s : State) : List Nat := (s.clocks.filter (fun kv => kv.2.stopped)).map (fun kv => kv.1)

/-- POWER_GOOD (R446): the next step of bring-up is finished; after a failure none is. -/
def execPowerGood (s : State) : Out :=
  .next (if s.bootFail.isSome then s else match s.boot with
    | 0 => { s with boot := 1 }
    | 1 => { s with boot := 2, atick := 0, gunits := 0 }
    | 2 => { s with boot := 3 }
    | 3 => { s with boot := 4, retCores := s.flashed 0, retDies := s.flashed 1 ++ s.stoppedDies, retStacks := s.flashed 2 }
    | 4 =>
      { s with
        boot := 5, hostlink := s.hostNext
        ports := (List.range 12).foldl (fun m n => if s.retDies.contains (portDies.getD n 0) then m else m.put n { retraining := true }) [] }
    | 5 => { s with boot := 6, fwActive := if s.fwNext = [] then s.fwActive else s.fwNext, fwNext := [] }
    | _ => s)

/-- RESET (R452): bring-up starts again from its step 2; Bervos, its flash and the memory behind the CXL ports stand. -/
def execReset (s : State) : Out :=
  .next (
    if s.boot = 0 then s
    else
      { State.reset with
        boot := 1, flash := s.flash, fwActive := s.fwActive, fwNext := s.fwNext, hostNext := s.hostNext, bervosLog := s.bervosLog
        reply := {}, telem := s.telem, regions := s.regions, peerMem := s.peerMem, peerErr := s.peerErr, images := s.images, agenda := s.agenda, turnNo := s.turnNo
        freeCtr := s.freeCtr
        mem := s.mem.filter (fun kv => s.typOf kv.1 == 2 || s.typOf kv.1 == 3)
        clocks := s.clocks.each (fun k => { ceiling := k.ceiling, stopped := k.stopped }) })

/-! ## Clock steps (R447, R140) -/

/-- Every context that holds slots on a die has headroom of at least 1,500 ns. -/
def State.stepRoom (s : State) (die : Nat) : Bool :=
  s.ctxs.all (fun kv => !(kv.2.slots.any (fun i => dieOfCore (i / 2) == die)) || decide (kv.2.estimate + 1500 ≤ kv.2.vbcur.toNat))

/-- CLOCK_STEP_START: the requested step begins; the clock stops. -/
def execClockStepStart (die : Nat) (s : State) : Out :=
  .next (
    let k := s.clk die
    match k.want with
    | some f =>
      if k.relock.isNone && !k.stopped && s.stepRoom die && (match k.lastEnd with | some t => decide (t + 10000 ≤ s.gtime) | none => true) then
        s.setClk die { k with want := none, relock := some (s.gtime, f) }
      else s
    | none => s)

/-- CLOCK_RESTART: 1,500 ns after the stop the clock runs at its new frequency (R448). -/
def execClockRestart (die : Nat) (s : State) : Out :=
  .next (
    let k := s.clk die
    match k.relock with
    | some (t, f) =>
      if t + 1500 ≤ s.gtime then
        s.setClk die { k with relock := none, cstepG := t + 1500, cstepC := s.ccnt die, cfreq := f, lastEnd := some (t + 1500) }
      else s
    | none => s)

/-- A frequency that a step may reach (R447). -/
def freqOk (mhz : Nat) : Bool := decide (1200 ≤ mhz) && decide (mhz ≤ 1800) && mhz % 100 == 0

/-- A step is requested; it replaces one that waits. -/
def State.wantFreq (s : State) (die mhz : Nat) : State := s.setClk die { s.clk die with want := some mhz }

/-- THERMAL_STEP_DOWN (R451): a limit has been passed for 100 microseconds. -/
def execThermalStepDown (die : Nat) (s : State) : Out :=
  .next (let f := (s.clk die).cfreq - 100; if freqOk f then s.wantFreq die f else s)

/-- THERMAL_STEP_UP (R451): power and temperature have stayed low for 1 ms; no higher than the ceiling. -/
def execThermalStepUp (die : Nat) (s : State) : Out :=
  .next (let f := (s.clk die).cfreq + 100; if freqOk f && decide (f ≤ (s.clk die).ceiling) then s.wantFreq die f else s)

/-! ## Self-refresh (R407, R451) -/

/-- The resource whose contexts a self-refresh touches. -/
def stackRes (k : Nat) : Resource := .tier (stackDies.getD k 0) 0

/-- SELF_REFRESH_ENTER: a stack has reached 95 degrees. -/
def execSelfRefreshEnter (k : Nat) (s : State) : Out :=
  .next (if (Map.find s.refresh k).isSome then s else { s with refresh := s.refresh.put k s.gtime }.startInterval (stackRes k, k))

/-- SELF_REFRESH_EXIT: it has fallen below 90 degrees. -/
def execSelfRefreshExit (k : Nat) (s : State) : Out :=
  .next (match Map.find s.refresh k with
    | some t => { (s.endInterval (stackRes k, k) t) with refresh := s.refresh.del k }
    | none => s)

/-! ## Retirement (R408, R410, R453) -/

/-- The images that lie on cores can no longer resume (R408). -/
def State.deadImages (s : State) (cores : List Nat) : State :=
  { s with ctxs := s.ctxs.each (fun (x : Ctx) =>
      match x.image with
      | some im => if im.slots.any (fun i => cores.contains (i / 2)) then { x with image := some { im with dead := true } } else x
      | none => x) }

/-- A core, a die or a stack goes out of use: its slots leave the free pool, its images cannot resume, its holders are vacated,
the ports of a die leave service. -/
def State.retireItem (s : State) (kind n : Nat) : State :=
  let s1 := { s with
    retCores := if kind = 0 then n :: s.retCores else s.retCores
    retDies := if kind = 1 then n :: s.retDies else s.retDies
    retStacks := if kind = 2 then n :: s.retStacks else s.retStacks
    retiring := s.retiring ++ [(kind, n)] }.deadImages (coresOf kind n)
  let s2 := if kind = 1 then ((List.range 12).filter (fun p => portDies.getD p 0 == n)).foldl State.portOut s1 else s1
  s2.vacateRetired

/-- A page of a context lies in the memory of a die, or in its dome. -/
def State.pagesOnDie (s : State) (n : Nat) : Bool :=
  s.ctxNums.any (fun c => (s.leaves c).any (fun p =>
    match (if leafType p.2.bits = 4 then none else s.region (leafFrame p.2.bits)) with
    | some r => (r.typ == 0 || r.typ == 1 || r.typ == 5) && r.die == n
    | none => false))

/-- DIE_THERMAL_STOP (R451): the die is stopped and treated as retired until a power cycle. -/
def execDieThermalStop (die : Nat) (s : State) : Out :=
  .next (if (s.clk die).stopped then s else (s.setClk die { s.clk die with stopped := true }).retireItem 1 die)

/-! ## The sideband port (R452) -/

/-- Bervos answers a command with a status and words; it answers once it has started. -/
def State.respond (s : State) (status : Nat) (words : List Nat) : State :=
  if s.boot = 0 then s else { s with reply := { status := status, words := words } }

/-- A command that changes the device, refused as malformed or as not allowed. -/
def State.command_ (s : State) (malformed refused : Bool) (t : State) : Out :=
  .next (if s.boot = 0 then s else if malformed then s.respond 2 [] else if refused then s.respond 1 [] else t.respond 0 [])

/-- TELEMETRY: power, temperature, `%cfreq`, correction counts. -/
def execTelemetry (die : Nat) (s : State) : Out :=
  .next (if 8 < die then s.respond 2 []
    else s.respond 0 ([Map.get 0 s.telem (2 * die), Map.get 0 s.telem (2 * die + 1), (s.clk die).cfreq] ++
      (List.range 8).map (fun l => (Map.get {} s.corrected (8 * die + l)).total)))

/-- STEP. -/
def execStep (die mhz : Nat) (s : State) : Out := s.command_ (decide (8 < die) || !(freqOk mhz)) false (s.wantFreq die mhz)

/-- CEILING. -/
def execCeiling (die mhz : Nat) (s : State) : Out :=
  s.command_ (decide (8 < die) || !(freqOk mhz)) false (s.setClk die { s.clk die with ceiling := mhz })

/-- TRIM (R450): at most 200,000 parts per billion either way. -/
def execTrim (ppb : Int) (s : State) : Out := s.command_ (decide (200000 < ppb.natAbs)) false { s with trim := ppb }

/-- LOGREAD: one of the records kept, the oldest at offset 0. -/
def execLogread (off : Nat) (s : State) : Out :=
  .next (match s.bervosLog[off]? with
    | some bs => s.respond 0 (bs.map (fun b => b.toNat))
    | none => s.respond 2 [])

/-- FWUPDATE (R453): the inactive bank receives the chunk. -/
def execFwupdate (chunk : List Byte) (s : State) : Out := s.command_ false false { s with fwNext := s.fwNext ++ chunk }

/-- RETIRE (R408, R410, R453). -/
def execRetire (kind n : Nat) (s : State) : Out :=
  if s.boot ≠ 0 ∧ s.retiring ≠ [] then .next (s.respond 3 [])
  else
    s.command_ (decide (2 < kind) || decide ((match kind with | 0 => 720 | 1 => 9 | _ => 12) ≤ n))
      (match kind with
       | 0 => s.coreRetired n
       | 1 => n == 4 || s.retDies.contains n || s.pagesOnDie n
       | _ => s.retStacks.contains n || !(s.pagesOnStack n).isEmpty)
      { (s.retireItem kind n) with flash := s.flash ++ [(kind, n)] }

/-- HOSTLINK (R426): a port, or none as 4; it takes effect at the next reset. -/
def execHostlink (port : Nat) (s : State) : Out :=
  s.command_ (decide (4 < port)) false { s with hostNext := if port = 4 then none else some port }

end Sys2Proof.Machine
end

