-- ==== Sys2Proof/Machine/Registers.lean ====
section
/-!
DEFINITION. The belfry's register space (22 R340, 23 R372, 24 R378, R386, 25 R400, 26 R417, R420, 28 R431): a write of any
register, by its address.
-/
namespace Sys2Proof.Machine

/-- The value is a multiple of a power of two; else the write is refused with ERR = 3 (the alignments of the register tables). -/
def State.aligned (s : State) (c n : Nat) (v : W64) (t : State) : State := if v.toNat % n = 0 then t else s.refuse c 3

/-- Writes that are accepted only in FREE, READY and VACATED (R340, R372). -/
def State.whenOff (s : State) (c : Nat) (t : State) : State :=
  let x := s.ctx c
  if x.st = .free ∨ x.st = .ready ∨ x.st = .vacated then t else s.refuse c 5

/-- CTXCMD (R340). -/
def State.command16 (s : State) (c : Nat) (v : W64) : State :=
  match v.toNat % 16 with
  | 1 => s.vacate c none
  | 2 => s.resume c
  | 3 => s.disable c
  | _ => s.refuse c 3

/-- The context block (R340). A FLOOR of die i and tier t lies at 0x100 + 8 (5 i + t). -/
def State.writeCtxReg (s : State) (c off : Nat) (v : W64) : State :=
  let x := s.ctx c
  if off % 8 ≠ 0 then s
  else if off = 0x000 then s.writeCtxctl c v
  else if off = 0x010 then s.command16 c v
  else if off = 0x018 then s.whenOff c (s.setCtx c { x with ptroot := v &&& ~~~ 0xFFF#64 })
  else if off = 0x020 then s.writeVbreq c v
  else if off = 0x030 then s.whenOff c (s.aligned c 65536 v (s.setCtx c { x with lkbase := v }))
  else if off = 0x038 then s.whenOff c (s.setCtx c { x with lkcount := v })
  else if off = 0x040 then s.whenOff c (s.aligned c 65536 v (s.setCtx c { x with vibase := v }))
  else if off = 0x050 then s.setCtx c { x with evt := x.evt &&& ~~~ v }
  else if 0x100 ≤ off ∧ off < 0x268 then s.writeFloor c ((off - 0x100) / 8) v
  else if 0x280 ≤ off ∧ off < 0x2E0 then s.writeFloor c (45 + (off - 0x280) / 8) v
  else if 0x300 ≤ off ∧ off < 0x3B8 then s.writePart c ((off - 0x300) / 8) v
  else s

/-- The scheduler block (R372). -/
def State.writeSchedReg (s : State) (c off : Nat) (v : W64) : State :=
  let x := s.ctx c
  match off with
  | 0x00 => s.writeQuota c v
  | 0x10 => s.setCtx c { x with prio := v &&& 3#64 }
  | 0x18 => if v.toNat ≤ 10000 then s.setCtx c { x with minrun := v } else s.refuse c 3
  | 0x20 => s.whenOff c (s.aligned c 4096 v (s.setCtx c { x with qtbase := v }))
  | 0x28 => s.whenOff c (if v.toNat ≤ 64 then s.setCtx c { x with qcount := v } else s.refuse c 3)
  | 0x30 => s.whenOff c (s.aligned c 65536 v (s.setCtx c { x with cntbase := v }))
  | 0x38 => if v.toNat ≤ 256 then s.setCtx c { x with poolmax := v } else s.refuse c 3
  | _ => s

/-- The translation block (R378). -/
def State.writeTransReg (s : State) (c off : Nat) (v : W64) : State :=
  let x := s.ctx c
  match off with
  | 0x00 => s.aligned c 65536 v (s.setCtx c { x with sdaddr := v })
  | 0x08 => if v.toNat = 0 ∨ 2 ^ 32 < v.toNat then s.refuse c 3 else s.setCtx c { x with sdlen := v }
  | 0x10 => if v.getLsbD 0 then s.goShoot c else s
  | 0x20 => s.aligned c 4096 v (s.setCtx c { x with htbase := v })
  | 0x28 => if ringSize 256 (2 ^ 20) v.toNat then s.setCtx c { x with htsize := v } else s.refuse c 3
  | 0x38 => s.setCtx c { x with htmin := v &&& 0xFF#64 }
  | 0x40 => s.setCtx c { x with migpol := v &&& 0x1FFFF#64 }
  | _ => s

/-- The bits of IVEC that are not reserved. -/
def ivecMask (v : W64) : W64 := v &&& (0x80000000000007FF#64)

/-- The fault block (R400). -/
def State.writeFaultReg (s : State) (c off : Nat) (v : W64) : State :=
  let x := s.ctx c
  match off with
  | 0x00 => s.aligned c 4096 v (s.setCtx c { x with fq := { x.fq with base := v } })
  | 0x08 => if ringSize 64 65536 v.toNat then s.setCtx c { x with fq := { x.fq with size := v } } else s.refuse c 3
  | 0x20 => s.aligned c 4096 v (s.setCtx c { x with eq := { x.eq with base := v } })
  | 0x28 => if ringSize 64 65536 v.toNat then s.setCtx c { x with eq := { x.eq with size := v } } else s.refuse c 3
  | 0x40 => s.writePfdone c v
  | 0x48 => s.setCtx c { x with ivec := ivecMask v }
  | _ => s

/-- DCMD (R431). -/
def State.dcmd (s : State) (c : Nat) (v : W64) : State :=
  match v.toNat % 16 with
  | 1 => s.dcmdStop c v
  | 2 => s.dcmdResume c v none
  | 3 => s.dcmdResume c v (some 3)
  | _ => s.refuse c 3

/-- The debug block (R431). -/
def State.writeDebugReg (s : State) (c off : Nat) (v : W64) : State :=
  let x := s.ctx c
  if off % 8 ≠ 0 then s
  else if off = 0x000 then s.setCtx c { x with dbgctl := v &&& 3#64 }
  else if off = 0x008 then s.aligned c 4096 v (s.setCtx c { x with dq := { x.dq with base := v } })
  else if off = 0x010 then (if ringSize 64 65536 v.toNat then s.setCtx c { x with dq := { x.dq with size := v } } else s.refuse c 3)
  else if off = 0x028 then s.aligned c 4096 v (s.setCtx c { x with sq := { x.sq with base := v } })
  else if off = 0x030 then (if ringSize 64 65536 v.toNat then s.setCtx c { x with sq := { x.sq with size := v } } else s.refuse c 3)
  else if off = 0x048 then s.writeSperiod c v
  else if off = 0x050 then s.dcmd c v
  else if 0x080 ≤ off ∧ off < 0x100 then s.writeWatch c ((off - 0x080) / 8) v
  else if 0x100 ≤ off ∧ off < 0x1C0 then s.writeTarget c ((off - 0x100) / 0x30) ((off - 0x100) % 0x30 / 8) v
  else s

/-- The migration engine's block (R386), the belfry's device queue (R400), the device fabric block (R417). A value out of range is
not taken. -/
def State.writeDevReg (s : State) (addr : Nat) (v : W64) : State :=
  match addr with
  | 0x440000 => if v.toNat % 4096 = 0 then { s with mqbase := v } else s
  | 0x440008 => if v.toNat ≠ 0 ∧ ringSize 16 4096 v.toNat then { s with mqsize := v } else s
  | 0x440010 => { s with mqtail := v }
  | 0x451000 => if v.toNat % 4096 = 0 then { s with devq := { s.devq with base := v } } else s
  | 0x451008 => if ringSize 64 65536 v.toNat then { s with devq := { s.devq with size := v } } else s
  | 0x451048 => { s with devIvec := ivecMask v }
  | 0x461000 => { s with devid := v &&& 0xFFF#64 }
  | 0x461008 => if v.toNat % 4096 = 0 then { s with expbase := v } else s
  | 0x461010 => if v.toNat ≤ 2 ^ 24 then { s with expsize := v } else s
  | 0x461018 => { s with rtbase := v }
  | 0x461028 => s.writePctl v
  | _ => s

/-- A register written by the belfry (R340); one that is read-only or reserved does not change (R4). -/
def State.writeReg (s : State) (addr : Nat) (v : W64) : State :=
  if 0x400000 ≤ addr ∧ addr < 0x410000 then s.writeCtxReg ((addr - 0x400000) / 0x1000) (addr % 0x1000) v
  else if 0x420000 ≤ addr ∧ addr < 0x421000 then s.writeSchedReg ((addr - 0x420000) / 0x100) (addr % 0x100) v
  else if 0x430000 ≤ addr ∧ addr < 0x431000 then s.writeTransReg ((addr - 0x430000) / 0x100) (addr % 0x100) v
  else if 0x450000 ≤ addr ∧ addr < 0x451000 then s.writeFaultReg ((addr - 0x450000) / 0x100) (addr % 0x100) v
  else if 0x460000 ≤ addr ∧ addr < 0x461000 then
    (let c := (addr - 0x460000) / 0x100
     if addr % 0x100 = 0 then s.aligned c 4096 v (s.setCtx c { s.ctx c with commbase := v }) else s)
  else if 0x470000 ≤ addr ∧ addr < 0x472000 then s.writeDebugReg ((addr - 0x470000) / 0x200) (addr % 0x200) v
  else s.writeDevReg addr v

/-- REGISTER_WRITE (R340). -/
def execRegisterWrite (addr : Nat) (v : W64) (s : State) : Out := .next (s.writeReg addr v)

end Sys2Proof.Machine
end

