-- ==== Sys2Proof/Machine/Dispatch.lean ====
section
/-!
DEFINITION. One arm for each constructor of Instr, calling its meaning.
-/
namespace Sys2Proof.Machine

def exec (i : Instr) (s : State) : Host.Outcome State Fault Refusal :=
  match i with
  | .add d a b => Sys2Proof.Machine.execAdd d a b s
  | .sub d a b => Sys2Proof.Machine.execSub d a b s
  | .mul d a b => Sys2Proof.Machine.execMul d a b s
  | .mulh d a b => Sys2Proof.Machine.execMulh d a b s
  | .mulhn d a b => Sys2Proof.Machine.execMulhn d a b s
  | .div d a b => Sys2Proof.Machine.execDiv d a b s
  | .divn d a b => Sys2Proof.Machine.execDivn d a b s
  | .rem d a b => Sys2Proof.Machine.execRem d a b s
  | .remn d a b => Sys2Proof.Machine.execRemn d a b s
  | .and d a b => Sys2Proof.Machine.execAnd d a b s
  | .or d a b => Sys2Proof.Machine.execOr d a b s
  | .xor d a b => Sys2Proof.Machine.execXor d a b s
  | .andn d a b => Sys2Proof.Machine.execAndn d a b s
  | .shl d a b => Sys2Proof.Machine.execShl d a b s
  | .shr d a b => Sys2Proof.Machine.execShr d a b s
  | .sra d a b => Sys2Proof.Machine.execSra d a b s
  | .min d a b => Sys2Proof.Machine.execMin d a b s
  | .max d a b => Sys2Proof.Machine.execMax d a b s
  | .minn d a b => Sys2Proof.Machine.execMinn d a b s
  | .maxn d a b => Sys2Proof.Machine.execMaxn d a b s
  | .add2A d a => Sys2Proof.Machine.execAdd2A d a s
  | .sub2A d a => Sys2Proof.Machine.execSub2A d a s
  | .mul2A d a => Sys2Proof.Machine.execMul2A d a s
  | .mulh2A d a => Sys2Proof.Machine.execMulh2A d a s
  | .mulhn2A d a => Sys2Proof.Machine.execMulhn2A d a s
  | .div2A d a => Sys2Proof.Machine.execDiv2A d a s
  | .divn2A d a => Sys2Proof.Machine.execDivn2A d a s
  | .rem2A d a => Sys2Proof.Machine.execRem2A d a s
  | .remn2A d a => Sys2Proof.Machine.execRemn2A d a s
  | .and2A d a => Sys2Proof.Machine.execAnd2A d a s
  | .or2A d a => Sys2Proof.Machine.execOr2A d a s
  | .xor2A d a => Sys2Proof.Machine.execXor2A d a s
  | .andn2A d a => Sys2Proof.Machine.execAndn2A d a s
  | .shl2A d a => Sys2Proof.Machine.execShl2A d a s
  | .shr2A d a => Sys2Proof.Machine.execShr2A d a s
  | .sra2A d a => Sys2Proof.Machine.execSra2A d a s
  | .min2A d a => Sys2Proof.Machine.execMin2A d a s
  | .max2A d a => Sys2Proof.Machine.execMax2A d a s
  | .minn2A d a => Sys2Proof.Machine.execMinn2A d a s
  | .maxn2A d a => Sys2Proof.Machine.execMaxn2A d a s
  | .mov d a => Sys2Proof.Machine.execMov d a s
  | .neg d a => Sys2Proof.Machine.execNeg d a s
  | .not d a => Sys2Proof.Machine.execNot d a s
  | .clz d a => Sys2Proof.Machine.execClz d a s
  | .ctz d a => Sys2Proof.Machine.execCtz d a s
  | .popc d a => Sys2Proof.Machine.execPopc d a s
  | .brev d a => Sys2Proof.Machine.execBrev d a s
  | .sxt8 d a => Sys2Proof.Machine.execSxt8 d a s
  | .sxt16 d a => Sys2Proof.Machine.execSxt16 d a s
  | .sxt32 d a => Sys2Proof.Machine.execSxt32 d a s
  | .zxt8 d a => Sys2Proof.Machine.execZxt8 d a s
  | .zxt16 d a => Sys2Proof.Machine.execZxt16 d a s
  | .zxt32 d a => Sys2Proof.Machine.execZxt32 d a s
  | .cmpEq d a b => Sys2Proof.Machine.execCmpEq d a b s
  | .cmpNe d a b => Sys2Proof.Machine.execCmpNe d a b s
  | .cmpLt d a b => Sys2Proof.Machine.execCmpLt d a b s
  | .cmpGe d a b => Sys2Proof.Machine.execCmpGe d a b s
  | .cmpLtn d a b => Sys2Proof.Machine.execCmpLtn d a b s
  | .cmpGen d a b => Sys2Proof.Machine.execCmpGen d a b s
  | .sel d a b => Sys2Proof.Machine.execSel d a b s
  | .lea k d a b => Sys2Proof.Machine.execLea k d a b s
  | .wset k a => Sys2Proof.Machine.execWset k a s
  | .winv k => Sys2Proof.Machine.execWinv k s
  | .wlim d k => Sys2Proof.Machine.execWlim d k s
  | .prvaddr d a => Sys2Proof.Machine.execPrvaddr d a s
  | .li d im => Sys2Proof.Machine.execLi d im s
  | .lih d im => Sys2Proof.Machine.execLih d im s
  | .addi d im => Sys2Proof.Machine.execAddi d im s
  | .andi d im => Sys2Proof.Machine.execAndi d im s
  | .ori d im => Sys2Proof.Machine.execOri d im s
  | .xori d im => Sys2Proof.Machine.execXori d im s
  | .shli d im => Sys2Proof.Machine.execShli d im s
  | .shri d im => Sys2Proof.Machine.execShri d im s
  | .srai d im => Sys2Proof.Machine.execSrai d im s
  | .ldk d im => Sys2Proof.Machine.execLdk d im s
  | .sget d r => Sys2Proof.Machine.execSget d r s
  | .sset r a => Sys2Proof.Machine.execSset r a s
  | .lds d a sz sgn ord scope => Sys2Proof.Machine.execLds d a sz sgn ord scope s
  | .sts d a sz ord scope => Sys2Proof.Machine.execSts d a sz ord scope s
  | .satom d a aop ord scope w => Sys2Proof.Machine.execSatom d a aop ord scope w s
  | .jmp o => Sys2Proof.Machine.execJmp o s
  | .call o => Sys2Proof.Machine.execCall o s
  | .ret => Sys2Proof.Machine.execRet s
  | .jr a => Sys2Proof.Machine.execJr a s
  | .brEq a o => Sys2Proof.Machine.execBrEq a o s
  | .brNe a o => Sys2Proof.Machine.execBrNe a o s
  | .brLt a o => Sys2Proof.Machine.execBrLt a o s
  | .brGe a o => Sys2Proof.Machine.execBrGe a o s
  | .brGt a o => Sys2Proof.Machine.execBrGt a o s
  | .brLe a o => Sys2Proof.Machine.execBrLe a o s
  | .fsplit k o => Sys2Proof.Machine.execFsplit k o s
  | .fjoin k d t => Sys2Proof.Machine.execFjoin k d t s
  | .fent => Sys2Proof.Machine.execFent s
  | .fnext => Sys2Proof.Machine.execFnext s
  | .fany d k => Sys2Proof.Machine.execFany d k s
  | .vrun b => Sys2Proof.Machine.execVrun b s
  | .vsync => Sys2Proof.Machine.execVsync s
  | .wcnt l st c t k => Sys2Proof.Machine.execWcnt l st c t k s
  | .hwait a => Sys2Proof.Machine.execHwait a s
  | .htest d a => Sys2Proof.Machine.execHtest d a s
  | .hcancel d a => Sys2Proof.Machine.execHcancel d a s
  | .fmtset f a => Sys2Proof.Machine.execFmtset f a s
  | .dfetch d => Sys2Proof.Machine.execDfetch d s
  | .ddone => Sys2Proof.Machine.execDdone s
  | .dpush d a => Sys2Proof.Machine.execDpush d a s
  | .dpushQ d k => Sys2Proof.Machine.execDpushQ d k s
  | .dpushE d k => Sys2Proof.Machine.execDpushE d k s
  | .launch d a => Sys2Proof.Machine.execLaunch d a s
  | .join a => Sys2Proof.Machine.execJoin a s
  | .barBlk n => Sys2Proof.Machine.execBarBlk n s
  | .barClu n => Sys2Proof.Machine.execBarClu n s
  | .wwait d a => Sys2Proof.Machine.execWwait d a s
  | .tkt d a => Sys2Proof.Machine.execTkt d a s
  | .stkflush => Sys2Proof.Machine.execStkflush s
  | .vgrow n => Sys2Proof.Machine.execVgrow n s
  | .vshrink n => Sys2Proof.Machine.execVshrink n s
  | .rgnEnter id => Sys2Proof.Machine.execRgnEnter id s
  | .rgnLeave => Sys2Proof.Machine.execRgnLeave s
  | .vcost d o => Sys2Proof.Machine.execVcost d o s
  | .vdone => Sys2Proof.Machine.execVdone s
  | .nop => Sys2Proof.Machine.execNop s
  | .endPath => Sys2Proof.Machine.execEndPath s
  | .trap n => Sys2Proof.Machine.execTrap n s
  | .tret k => Sys2Proof.Machine.execTret k s
  | .brk n => Sys2Proof.Machine.execBrk n s
  | .vadd x => Sys2Proof.Machine.execVadd x s
  | .vsub x => Sys2Proof.Machine.execVsub x s
  | .vmul x => Sys2Proof.Machine.execVmul x s
  | .vmulh x => Sys2Proof.Machine.execVmulh x s
  | .vmad x => Sys2Proof.Machine.execVmad x s
  | .vmin x => Sys2Proof.Machine.execVmin x s
  | .vmax x => Sys2Proof.Machine.execVmax x s
  | .vand x => Sys2Proof.Machine.execVand x s
  | .vor x => Sys2Proof.Machine.execVor x s
  | .vxor x => Sys2Proof.Machine.execVxor x s
  | .vandn x => Sys2Proof.Machine.execVandn x s
  | .vshl x => Sys2Proof.Machine.execVshl x s
  | .vshr x => Sys2Proof.Machine.execVshr x s
  | .vsra x => Sys2Proof.Machine.execVsra x s
  | .vclz x => Sys2Proof.Machine.execVclz x s
  | .vpopc x => Sys2Proof.Machine.execVpopc x s
  | .vbrev x => Sys2Proof.Machine.execVbrev x s
  | .vbfe x => Sys2Proof.Machine.execVbfe x s
  | .vbfi x => Sys2Proof.Machine.execVbfi x s
  | .vcmp x => Sys2Proof.Machine.execVcmp x s
  | .vsel x => Sys2Proof.Machine.execVsel x s
  | .vmov x => Sys2Proof.Machine.execVmov x s
  | .vfadd x => Sys2Proof.Machine.execVfadd x s
  | .vfsub x => Sys2Proof.Machine.execVfsub x s
  | .vfmul x => Sys2Proof.Machine.execVfmul x s
  | .vfma x => Sys2Proof.Machine.execVfma x s
  | .vfms x => Sys2Proof.Machine.execVfms x s
  | .vfnma x => Sys2Proof.Machine.execVfnma x s
  | .vfmin x => Sys2Proof.Machine.execVfmin x s
  | .vfmax x => Sys2Proof.Machine.execVfmax x s
  | .vfdiv x => Sys2Proof.Machine.execVfdiv x s
  | .vfsqrt x => Sys2Proof.Machine.execVfsqrt x s
  | .vfcmp x => Sys2Proof.Machine.execVfcmp x s
  | .vfcls x => Sys2Proof.Machine.execVfcls x s
  | .vcvt x => Sys2Proof.Machine.execVcvt x s
  | .vexp2 x => Sys2Proof.Machine.execVexp2 x s
  | .vlog2 x => Sys2Proof.Machine.execVlog2 x s
  | .vsin x => Sys2Proof.Machine.execVsin x s
  | .vcos x => Sys2Proof.Machine.execVcos x s
  | .vrcp x => Sys2Proof.Machine.execVrcp x s
  | .vrsq x => Sys2Proof.Machine.execVrsq x s
  | .vbfly x => Sys2Proof.Machine.execVbfly x s
  | .vtwid x => Sys2Proof.Machine.execVtwid x s
  | .vcmul x => Sys2Proof.Machine.execVcmul x s
  | .vdot x => Sys2Proof.Machine.execVdot x s
  | .vld x => Sys2Proof.Machine.execVld x s
  | .vst x => Sys2Proof.Machine.execVst x s
  | .vldg x => Sys2Proof.Machine.execVldg x s
  | .vstg x => Sys2Proof.Machine.execVstg x s
  | .vlds x => Sys2Proof.Machine.execVlds x s
  | .vsts x => Sys2Proof.Machine.execVsts x s
  | .vldd x => Sys2Proof.Machine.execVldd x s
  | .vstd x => Sys2Proof.Machine.execVstd x s
  | .vprf x => Sys2Proof.Machine.execVprf x s
  | .vatom x => Sys2Proof.Machine.execVatom x s
  | .vatomOrd x => Sys2Proof.Machine.execVatomOrd x s
  | .vbank x => Sys2Proof.Machine.execVbank x s
  | .fence x => Sys2Proof.Machine.execFence x s
  | .tld x => Sys2Proof.Machine.execTld x s
  | .tst x => Sys2Proof.Machine.execTst x s
  | .tzero x => Sys2Proof.Machine.execTzero x s
  | .tmma x => Sys2Proof.Machine.execTmma x s
  | .tmmq x => Sys2Proof.Machine.execTmmq x s
  | .tcvt x => Sys2Proof.Machine.execTcvt x s
  | .tadd x => Sys2Proof.Machine.execTadd x s
  | .tmerge x => Sys2Proof.Machine.execTmerge x s
  | .sigz x => Sys2Proof.Machine.execSigz x s
  | .sigx x => Sys2Proof.Machine.execSigx x s
  | .sigj x => Sys2Proof.Machine.execSigj x s
  | .siglog x => Sys2Proof.Machine.execSiglog x s
  | .cpy x => Sys2Proof.Machine.execCpy x s
  | .cpy2d x => Sys2Proof.Machine.execCpy2d x s
  | .coll x => Sys2Proof.Machine.execColl x s
  | .vshfl x => Sys2Proof.Machine.execVshfl x s
  | .vred x => Sys2Proof.Machine.execVred x s
  | .vscan x => Sys2Proof.Machine.execVscan x s
  | .vbcast x => Sys2Proof.Machine.execVbcast x s
  | .vtos x => Sys2Proof.Machine.execVtos x s
  | .vmsk x => Sys2Proof.Machine.execVmsk x s
  | .vlid x => Sys2Proof.Machine.execVlid x s
  | .ivcmp x => Sys2Proof.Machine.execIvcmp x s
  | .ivhull x => Sys2Proof.Machine.execIvhull x s
  | .ivwid x => Sys2Proof.Machine.execIvwid x s
  | .ivsum x => Sys2Proof.Machine.execIvsum x s
  | .joinWaitTimeout g => Sys2Proof.Machine.execJoinWaitTimeout g s
  | .laneIssue core quad => Sys2Proof.Machine.execLaneIssue core quad s
  | .laneInstrComplete g id => Sys2Proof.Machine.execLaneInstrComplete g id s
  | .uncorrectableConsume g => Sys2Proof.Machine.execUncorrectableConsume g s
  | .tileOpStart k => Sys2Proof.Machine.execTileOpStart k s
  | .tileOpComplete k => Sys2Proof.Machine.execTileOpComplete k s
  | .tmergeResume k => Sys2Proof.Machine.execTmergeResume k s
  | .spanInstanceStart k => Sys2Proof.Machine.execSpanInstanceStart k s
  | .parkedOpRecheck k => Sys2Proof.Machine.execParkedOpRecheck k s
  | .copyByteTransfer k n => Sys2Proof.Machine.execCopyByteTransfer k n s
  | .copyOverlapStallEnd g => Sys2Proof.Machine.execCopyOverlapStallEnd g s
  | .copySuspend k => Sys2Proof.Machine.execCopySuspend k s
  | .copyResume k => Sys2Proof.Machine.execCopyResume k s
  | .copyComplete k => Sys2Proof.Machine.execCopyComplete k s
  | .copyFail k => Sys2Proof.Machine.execCopyFail k s
  | .collInstanceStart k => Sys2Proof.Machine.execCollInstanceStart k s
  | .chunkDepart k => Sys2Proof.Machine.execChunkDepart k s
  | .chunkArrive c comm src m => Sys2Proof.Machine.execChunkArrive c comm src m s
  | .chunkCombine k => Sys2Proof.Machine.execChunkCombine k s
  | .slotReleaseNotice c comm src => Sys2Proof.Machine.execSlotReleaseNotice c comm src s
  | .failNotice c comm src => Sys2Proof.Machine.execFailNotice c comm src s
  | .collComplete k => Sys2Proof.Machine.execCollComplete k s
  | .collFail k => Sys2Proof.Machine.execCollFail k s
  | .dfetchWake g => Sys2Proof.Machine.execDfetchWake g s
  | .barrierRelease g => Sys2Proof.Machine.execBarrierRelease g s
  | .wwaitWake g => Sys2Proof.Machine.execWwaitWake g s
  | .tktReread g => Sys2Proof.Machine.execTktReread g s
  | .joinWake g => Sys2Proof.Machine.execJoinWake g s
  | .vgrowGrant slot => Sys2Proof.Machine.execVgrowGrant slot s
  | .vgrowDeadlockSave slot => Sys2Proof.Machine.execVgrowDeadlockSave slot s
  | .groupRestore g => Sys2Proof.Machine.execGroupRestore g s
  | .joinedGroupSave c => Sys2Proof.Machine.execJoinedGroupSave c s
  | .stackWriteback core => Sys2Proof.Machine.execStackWriteback core s
  | .stackWritebackRetry core => Sys2Proof.Machine.execStackWritebackRetry core s
  | .launchBind l => Sys2Proof.Machine.execLaunchBind l s
  | .launchPlace l => Sys2Proof.Machine.execLaunchPlace l s
  | .childPlace c => Sys2Proof.Machine.execChildPlace c s
  | .launchComplete l => Sys2Proof.Machine.execLaunchComplete l s
  | .applyOrderedAtomics l => Sys2Proof.Machine.execApplyOrderedAtomics l s
  | .vacate c => Sys2Proof.Machine.execVacate c s
  | .resume c => Sys2Proof.Machine.execResume c s
  | .disable c => Sys2Proof.Machine.execDisable c s
  | .handlerWindowClose c => Sys2Proof.Machine.execHandlerWindowClose c s
  | .vacateDrainDone c => Sys2Proof.Machine.execVacateDrainDone c s
  | .spillDone c => Sys2Proof.Machine.execSpillDone c s
  | .fillDone c => Sys2Proof.Machine.execFillDone c s
  | .resumeExchange c => Sys2Proof.Machine.execResumeExchange c s
  | .ctxctlWrite c v => Sys2Proof.Machine.execCtxctlWrite c v s
  | .partWrite c k v => Sys2Proof.Machine.execPartWrite c k v s
  | .vbreqWrite c v => Sys2Proof.Machine.execVbreqWrite c v s
  | .boundApply c => Sys2Proof.Machine.execBoundApply c s
  | .floorWrite c n v => Sys2Proof.Machine.execFloorWrite c n v s
  | .floorApply c => Sys2Proof.Machine.execFloorApply c s
  | .evtClear c v => Sys2Proof.Machine.execEvtClear c v s
  | .quotaWrite c v => Sys2Proof.Machine.execQuotaWrite c v s
  | .registerWrite addr v => Sys2Proof.Machine.execRegisterWrite addr v s
  | .boundExcursion c start stop => Sys2Proof.Machine.execBoundExcursion c start stop s
  | .tokenDebit => Sys2Proof.Machine.execTokenDebit s
  | .tokenRefill => Sys2Proof.Machine.execTokenRefill s
  | .slotRequest l => Sys2Proof.Machine.execSlotRequest l s
  | .tailSnoop c q => Sys2Proof.Machine.execTailSnoop c q s
  | .launchPacket c q => Sys2Proof.Machine.execLaunchPacket c q s
  | .signalPacket c q => Sys2Proof.Machine.execSignalPacket c q s
  | .waitPacket c q => Sys2Proof.Machine.execWaitPacket c q s
  | .waitSatisfied c q => Sys2Proof.Machine.execWaitSatisfied c q s
  | .graphOpen c q => Sys2Proof.Machine.execGraphOpen c q s
  | .graphCancel c q => Sys2Proof.Machine.execGraphCancel c q s
  | .copyPacket c q => Sys2Proof.Machine.execCopyPacket c q s
  | .shootdown c => Sys2Proof.Machine.execShootdown c s
  | .shootdownDone c => Sys2Proof.Machine.execShootdownDone c s
  | .pfdone c v => Sys2Proof.Machine.execPfdone c v s
  | .locketFault g => Sys2Proof.Machine.execLocketFault g s
  | .move => Sys2Proof.Machine.execMove s
  | .swap => Sys2Proof.Machine.execSwap s
  | .evacuate => Sys2Proof.Machine.execEvacuate s
  | .abort => Sys2Proof.Machine.execAbort s
  | .lineCopy r => Sys2Proof.Machine.execLineCopy r s
  | .sourceHomeRequest g id => Sys2Proof.Machine.execSourceHomeRequest g id s
  | .moveComplete r => Sys2Proof.Machine.execMoveComplete r s
  | .moveRetire r => Sys2Proof.Machine.execMoveRetire r s
  | .moveAbort r => Sys2Proof.Machine.execMoveAbort r s
  | .hotnessReport => Sys2Proof.Machine.execHotnessReport s
  | .thrashPinExpire c va => Sys2Proof.Machine.execThrashPinExpire c va s
  | .correctedThreshold die loc => Sys2Proof.Machine.execCorrectedThreshold die loc s
  | .retirementDone kind n => Sys2Proof.Machine.execRetirementDone kind n s
  | .relaunch c => Sys2Proof.Machine.execRelaunch c s
  | .flitReceive port flit => Sys2Proof.Machine.execFlitReceive port flit s
  | .linkReplay port => Sys2Proof.Machine.execLinkReplay port s
  | .linkRetrain port => Sys2Proof.Machine.execLinkRetrain port s
  | .portDown port => Sys2Proof.Machine.execPortDown port s
  | .pctlWrite v => Sys2Proof.Machine.execPctlWrite v s
  | .fabricRequest port vc => Sys2Proof.Machine.execFabricRequest port vc s
  | .pauseNotice port vc => Sys2Proof.Machine.execPauseNotice port vc s
  | .resumeNotice port vc => Sys2Proof.Machine.execResumeNotice port vc s
  | .debugStop c v => Sys2Proof.Machine.execDebugStop c v s
  | .debugResume c v => Sys2Proof.Machine.execDebugResume c v s
  | .debugStep c v => Sys2Proof.Machine.execDebugStep c v s
  | .debugStopSave g => Sys2Proof.Machine.execDebugStopSave g s
  | .watchHit c => Sys2Proof.Machine.execWatchHit c s
  | .watchpointWrite c n v => Sys2Proof.Machine.execWatchpointWrite c n v s
  | .targetWrite c k f v => Sys2Proof.Machine.execTargetWrite c k f v s
  | .speriodWrite c v => Sys2Proof.Machine.execSperiodWrite c v s
  | .sampleTag core quad => Sys2Proof.Machine.execSampleTag core quad s
  | .sampleRecord core quad => Sys2Proof.Machine.execSampleRecord core quad s
  | .replayDiverged l => Sys2Proof.Machine.execReplayDiverged l s
  | .powerGood => Sys2Proof.Machine.execPowerGood s
  | .clockStepStart die => Sys2Proof.Machine.execClockStepStart die s
  | .clockRestart die => Sys2Proof.Machine.execClockRestart die s
  | .thermalStepDown die => Sys2Proof.Machine.execThermalStepDown die s
  | .thermalStepUp die => Sys2Proof.Machine.execThermalStepUp die s
  | .selfRefreshEnter stack => Sys2Proof.Machine.execSelfRefreshEnter stack s
  | .selfRefreshExit stack => Sys2Proof.Machine.execSelfRefreshExit stack s
  | .dieThermalStop die => Sys2Proof.Machine.execDieThermalStop die s
  | .telemetry die => Sys2Proof.Machine.execTelemetry die s
  | .step die mhz => Sys2Proof.Machine.execStep die mhz s
  | .ceiling die mhz => Sys2Proof.Machine.execCeiling die mhz s
  | .trim ppb => Sys2Proof.Machine.execTrim ppb s
  | .logread off => Sys2Proof.Machine.execLogread off s
  | .fwupdate chunk => Sys2Proof.Machine.execFwupdate chunk s
  | .retire kind n => Sys2Proof.Machine.execRetire kind n s
  | .hostlink port => Sys2Proof.Machine.execHostlink port s
  | .reset => Sys2Proof.Machine.execReset s
  | .scalarAccessComplete g id => Sys2Proof.Machine.execScalarAccessComplete g id s
  | .linkTrainDone port => Sys2Proof.Machine.execLinkTrainDone port s
  | .illegalScalarWord => Sys2Proof.Machine.execIllegalScalarWord s
  | .scalarFetchFault => Sys2Proof.Machine.execScalarFetchFault s

end Sys2Proof.Machine
end

