-- ==== Sys2Proof/Machine/Turns.lean ====
section
/-!
DEFINITION. What one step of the device is: the agents of the device and of its outside, and one turn of each (02 R14, 11
R191, 01 R11, 03 R55, 24 R377, 25 R404 to R406). Which agent moves next is the model's own plain data, `State.agenda`;
with an empty agenda the turns go round the agents that the state has.
-/
namespace Sys2Proof.Machine

/-! ## Time -/

/-- A join-wait entry n ticks later (R55). -/
def FEntry.later (e : FEntry) (n : Nat) : FEntry :=
  if e.kind = .joinWait then { e with tleft := e.tleft - n, lapsed := e.lapsed || decide (e.tleft < n) } else e

/-- The group is parked: it sleeps at its `wwait`, `tkt` or `join` (R35, R36, R204). -/
def Group.parked (x : Group) : Bool := match x.wait with | .wwait _ _ => true | .tkt _ => true | .join _ => true | _ => false

/-- The group's TLEFT fields count: it is on its slot and not parked, and its context is not halted by a vacate (R55, R61). -/
def State.counting (s : State) (x : Group) : Bool :=
  x.residence == .resident && !x.parked && ((s.ctx x.ctx).st == .running || (match (s.ctx x.ctx).vac with | some v => v.open_ | none => false))

/-- What `%gtime` gains in a tick, in the units of `State.gunits` (R11, R450). -/
def State.tickUnits (s : State) : Nat := (20 * (1000000000 + s.trim)).toNat

/-- n arithmetic ticks pass: `%atick` advances by n, `%gtime` by 20/17 ns a tick under the trim (R11, R450); what was complete within
the tick that ends is charged no longer (R129). -/
def State.elapse (s0 : State) (n : Nat) : State :=
  let s := if n = 0 then s0 else s0.releaseNow
  { s with
    atick := s.atick + n
    marks := if n = 0 then s.marks else []
    gunits := s.gunits + n * s.tickUnits
    groups := s.groups.each (fun x => if s.counting x then { x with front := x.front.map (fun e => e.later n) } else x) }

/-! ## The scalar thread of a group -/

/-- What a scalar thread executes next. -/
inductive Fetch where
  | instr (i : Instr)
  | missing (page : Nat)
  | spoilt (loc : Nat × Nat)
  deriving DecidableEq, Repr

/-- The scalar instruction at the `pc` of a group (R142, R191): a word that is no scalar instruction is illegal; a bad `pc`
raises instruction-fetch. -/
def State.scalarAt (s : State) (x : Group) : Fetch :=
  match s.fetchScalar x x.pc.toNat with
  | .bad => .instr .scalarFetchFault
  | .missing pg => .missing pg
  | .spoilt loc => .spoilt loc
  | .bytes bs =>
    match decode bs with
    | .ok (i, _) => .instr (if i.kind = .scalar then i else .illegalScalarWord)
    | .error _ => .instr .illegalScalarWord

/-- The state in which a group's scalar instruction is executed. -/
def State.poised (s : State) (g : Nat) : State :=
  { s.setGrp g { s.grp g with atEdge := false } with cur := g }

/-- The group has passed its instruction: it has moved, waits, or has left its path. -/
def Group.moved (x y : Group) : Bool :=
  y.pc != x.pc || y.wait != x.wait || y.trap != x.trap || y.residence != x.residence || y.queue != x.queue || y.pfWait != x.pfWait

/-- The scalar word at the `pc` of a group, as a number. -/
def State.scalarWord (s : State) (x : Group) : Nat :=
  match s.fetchScalar x x.pc.toNat with
  | .bytes bs => leNat bs
  | _ => 0

/-- What comes of the scalar instruction at the `pc` of a group. -/
def State.scalarRun (s : State) (g : Nat) (x : Group) : Out :=
  match s.scalarAt x with
  | .missing pg => .next ((s.poised g).pageFaultScalar g pg 3)
  | .spoilt loc => .next ((s.poised g).trapData loc)
  | .instr i => exec i (s.poised g)

/-- A branch may lead to itself: it issues, although it leaves the group as it was, unless its registers are waited for (R16, R191). -/
def State.branches (s : State) (x : Group) (i : Instr) : Bool :=
  let free (rs ws ms : List Nat) : Bool := !(s.scoreWaits x rs ws ms)
  match i with
  | .jmp _ => true
  | .call _ => free [] [1] []
  | .ret => free [1] [] []
  | .jr a | .brEq a _ | .brNe a _ | .brLt a _ | .brGe a _ | .brGt a _ | .brLe a _ => free [a] [] []
  | .fsplit k _ => free [] [] [k]
  | _ => false

/-- The instruction of a group has issued, where `u` is what has come of it. -/
def State.hasIssued (s u : State) (g : Nat) (x : Group) : Bool :=
  x.moved (u.grp g) || (match s.scalarAt x with | .instr i => s.branches x i | _ => false)

/-! ### The scalar pipe of a quadrant (R367) -/

/-- The control cycles of a die that start in the present tick. -/
def State.cycles (s : State) (d : Nat) : Nat := { s with gunits := s.gunits + s.tickUnits }.ccnt d - s.ccnt d

/-- The scalar instructions that a quadrant has issued in the present tick. -/
def State.scalarUsed (s : State) (core quad : Nat) : Nat := s.marks.count (.scalar core quad)

/-- The control cycle of a quadrant's next scalar instruction. -/
def State.cycle (s : State) (core quad : Nat) : Nat := s.ccnt (dieOfCore core) + s.scalarUsed core quad

/-- One group goes before another at the scalar pipe in a control cycle: the preferred slot, a live trap record or an open handler
window, the least recent issue, the slot index. -/
def scalarBefore (cycle : Nat) (a b : Group) : Bool :=
  let odd (x : Group) : Bool := x.slot != cycle % 2
  if odd a ≠ odd b then odd b
  else if a.handling ≠ b.handling then a.handling
  else if a.lastScalar ≠ b.lastScalar then decide (a.lastScalar < b.lastScalar)
  else decide (a.sidx < b.sidx)

/-- A group's scalar instruction would issue now. -/
def State.ready (s : State) (g : Nat) (x : Group) : Bool :=
  s.canScalar x && (match s.scalarRun g x with | .next u => s.hasIssued u g x | _ => true)

/-- The quadrant of a group has no control cycle left in this tick, or issues from another of its groups first (R367). -/
def State.yields (s : State) (g : Nat) (x : Group) : Bool :=
  let quad := x.sidx % 4
  decide (s.cycles (dieOfCore x.core) ≤ s.scalarUsed x.core quad) ||
  s.groups.any (fun kv => kv.1 != g && kv.2.core == x.core && kv.2.sidx % 4 == quad && scalarBefore (s.cycle x.core quad) kv.2 x && s.ready kv.1 kv.2)

/-- A group has faulted: a trap, a stop, or a page that it waits for. -/
def Group.faulted (x y : Group) : Bool := x.fell y || y.pfWait != x.pfWait

/-- A scalar instruction that observes what others have done: the core keeps no copy of memory beyond it (R90, R97, R202). -/
def observes : Instr → Bool
  | .wcnt .. | .hwait _ | .htest .. | .hcancel .. | .join _ | .dfetch _ | .ddone | .barBlk _ | .barClu _ | .launch .. => true
  | _ => false

/-- A scalar instruction of a group has issued, with the outcome `u`: it takes a control cycle of its quadrant; the age of a group
starts with its first (R38); an armed sampler tags it (R441). -/
def State.scalarIssued (s u : State) (g : Nat) (x : Group) : State :=
  let quad := x.sidx % 4
  let y := u.grp g
  let v := ({ u with marks := .scalar x.core quad :: u.marks }.setGrp g { y with
    age := some (y.age.getD s.atick), lastScalar := s.cycle x.core quad + 1 }).sampleIssue s g (s.scalarWord x) false x.m0
  match s.scalarAt x with
  | .instr i => if observes i then v.l1Drop x.core x.ctx (fun _ => true) else v
  | _ => v

/-- What a scalar instruction comes to, given its outcome `u`. Where it would fault, and the lane instruction that the group's quadrant
would issue in this tick would fault too, the lane fault is taken (R395). -/
def State.scalarDone (s u : State) (g : Nat) (x : Group) : State :=
  let t := s.inOrder u g x false
  if !(s.hasIssued t g x) then t
  else
    let v := match execLaneIssue x.core (x.sidx % 4) s with | .next v => v | _ => s
    if x.faulted (t.grp g) && x.faulted (v.grp g) then v else s.scalarIssued t g x

/-- One instruction of a group's scalar thread. At the boundary before it, join-waits whose deadline has passed resolve
(R55); a group that may not execute, or whose turn it is not, stands still. -/
def State.scalarTurn (s : State) (g : Nat) : Out :=
  match Map.find s.groups g with
  | none => .next s
  | some x =>
    if !(s.canScalar x) then .next s
    else if x.trap.isNone && x.front.any (fun e => e.kind == .joinWait && e.lapsed) then exec (.joinWaitTimeout g) s
    else if s.yields g x then .next s
    else
      match s.scalarRun g x with
      | .next u => .next (s.scalarDone u g x)
      | o => o

/-! ## The agents -/

/-- Steps of Bervos and of the outside that happen before the device is up (R446, R452). -/
def early : Instr → Bool
  | .powerGood | .reset | .telemetry _ | .step _ _ | .ceiling _ _ | .trim _ | .logread _ | .fwupdate _ | .retire _ _ | .hostlink _
  | .linkTrainDone _ => true
  | _ => false

/-- An event may happen: it is a step of an agent, and the device is up or the step belongs to bring-up. -/
def State.mayHappen (s : State) (i : Instr) : Bool := i.kind == .step && (s.boot == 6 || early i)

/-- A step after which a group goes on from what others have done: no core keeps an older copy of memory (R90, R98, R202). -/
def joins : Instr → Bool
  | .barrierRelease _ | .dfetchWake _ | .joinWake _ | .launchPlace _ | .childPlace _ | .groupRestore _ | .resumeExchange _
  | .vacateDrainDone _ | .shootdown _ | .pfdone .. | .registerWrite .. => true
  | _ => false

/-- A step of an engine, of firmware, of a controller or of the outside. -/
def State.event (s : State) (i : Instr) : Out :=
  match exec i s with
  | .next t => .next (if joins i then { t with l1 := [] } else t)
  | o => o

/-- A turn that cancels a launch whose dispenser has served a request in this tick falls in a later one: a `dfetch` of the tick of a
cancel returns the sentinel (R34). -/
def State.late (s t : State) : Bool :=
  s.marks.any (fun m => match m with | .served l _ => !(s.cancelled l) && t.cancelled l | _ => false)

/-- The outcome of a turn, where it may fall in this tick. -/
def State.settle (s : State) : Out → Out
  | .next t => .next (if s.late t then s else t)
  | o => o

/-- An item that step 4 of bring-up has found faulty is retired from the start (R446). -/
def State.foundFaulty (s : State) (kind n : Nat) : State :=
  if s.boot ≠ 4 then s
  else match kind with
    | 0 => { s with retCores := n :: s.retCores }
    | 1 => { s with retDies := n :: s.retDies }
    | 2 => { s with retStacks := n :: s.retStacks }
    | 3 => { s with retChans := n :: s.retChans }
    | _ => s

/-- One turn of an agent. -/
def State.turn (s : State) : Turn → Out
  | .scalar g => if s.boot = 6 then s.settle (s.scalarTurn g) else .next s
  | .event i => if s.mayHappen i then s.settle (s.event i) else .next s
  | .elapse n => .next (s.elapse n)
  | .part g id k => .next (s.performPart g id k)
  | .tlbDrop k => .next { s with tlb := s.tlb.eraseIdx k }
  | .park g => .next (s.park g)
  | .cacheFill core c pa => .next (s.cacheFill false core c pa)
  | .cacheDrop core c line => .next (s.l1Drop core c (fun n => n.line == line))
  | .cacheHit g id k => .next (s.cacheHit g id k)
  | .load c kdesc im => .next { s with images := s.images.put (2 ^ 57 * c + kdesc) im }
  | .otherStart c va => .next ((s.thrash c va).getD (s.countStart c va))
  | .hostWrite pa bs => .next (s.writeMem pa bs)
  | .lineError pa => .next (s.recordLine pa)
  | .corrected die loc => .next { s with corrected := s.corrected.put (8 * die + loc) ((Map.get {} s.corrected (8 * die + loc)).count s.gtime) }
  | .laneError g key =>
    .next (match Map.find s.groups g with
      | some x => s.setGrp g { x with verr := if x.verr.contains key then x.verr else x.verr ++ [key] }
      | none => s)
  | .tileError k e =>
    .next (match Map.find s.tileOps k with
      | some o => if o.phase = .running ∧ o.mism.contains e = false then s.setTileOp k { o with mism := o.mism ++ [e] } else s
      | none => s)
  | .sramError loc g key =>
    let add (ks : List Nat) : List Nat := if ks.contains key then ks else ks ++ [key]
    .next (match loc with
      | 5 => { s with scrErr := add s.scrErr }
      | 7 => { s with tileErr := add s.tileErr }
      | _ => match Map.find s.groups g with
        | some x => if key = 0 then s else s.setGrp g { x with serr := add x.serr }
        | none => s)
  | .peerWrite fa bs => .next { s with peerMem := setBytes s.peerMem fa bs }
  | .faulty kind n => .next (s.foundFaulty kind n)
  | .bootFails => .next (if s.boot < 6 ∧ s.bootFail = none then { s with bootFail := some (s.boot + 1) } else s)

/-! ## Turns without an agenda -/

/-- What the device may do about a group, of itself. -/
inductive GroupAct where
  | scalar | park | laneIssue | joinWaitTimeout | uncorrectableConsume | copyOverlapStallEnd | dfetchWake |
  barrierRelease | wwaitWake | tktReread | joinWake | vgrowGrant | vgrowDeadlockSave | groupRestore |
  locketFault | debugStopSave | sampleTag | sampleRecord | stackWriteback | stackWritebackRetry
  deriving DecidableEq, Repr

/-- What the device and its firmware may do about a context, of themselves. -/
inductive CtxAct where
  | handlerWindowClose | vacateDrainDone | spillDone | fillDone | resumeExchange | boundApply | floorApply |
  shootdownDone | relaunch | watchHit | childPlace | joinedGroupSave
  deriving DecidableEq, Repr

/-- What the turret may do about a queue. -/
inductive QueueAct where
  | tailSnoop | launchPacket | signalPacket | waitPacket | waitSatisfied | graphOpen | graphCancel | copyPacket
  deriving DecidableEq, Repr

/-- What may be done about a launch. -/
inductive LaunchAct where
  | launchBind | slotRequest | launchPlace | applyOrderedAtomics | launchComplete | replayDiverged
  deriving DecidableEq, Repr

/-- What a copy engine may do about a copy; it moves 64 bytes at a time. -/
inductive CopyAct where
  | copyByteTransfer | copySuspend | copyResume | copyComplete | copyFail
  deriving DecidableEq, Repr

/-- What an array half may do about a tile operation. -/
inductive TileAct where
  | tileOpStart | tileOpComplete | tmergeResume | spanInstanceStart | parkedOpRecheck
  deriving DecidableEq, Repr

/-- What a collective engine may do about a collective. -/
inductive CollAct where
  | collInstanceStart | chunkDepart | chunkCombine | collComplete | collFail
  deriving DecidableEq, Repr

/-- What the migration engine may do about a move record. -/
inductive MoveAct where
  | lineCopy | moveAbort | moveComplete | moveRetire
  deriving DecidableEq, Repr

/-- What a fabric port may do of itself. -/
inductive PortAct where
  | linkReplay | linkTrainDone
  deriving DecidableEq, Repr

/-- What the clock of a die may do of itself. -/
inductive DieAct where
  | clockStepStart | clockRestart
  deriving DecidableEq, Repr

/-- What the device's firmware and its migration engine may do of themselves. -/
inductive DeviceAct where
  | powerGood | tokenDebit | tokenRefill | hotnessReport | moveCmd | swapCmd | evacuateCmd | abortCmd
  deriving DecidableEq, Repr

/-- The step of each. -/
def groupActRun (s : State) (g : Nat) (x : Group) : GroupAct → Out
  | .scalar => s.scalarTurn g
  | .park => .next (s.park g)
  | .laneIssue => execLaneIssue x.core (x.sidx % 4) s
  | .joinWaitTimeout => execJoinWaitTimeout g s
  | .uncorrectableConsume => execUncorrectableConsume g s
  | .copyOverlapStallEnd => execCopyOverlapStallEnd g s
  | .dfetchWake => execDfetchWake g s
  | .barrierRelease => execBarrierRelease g s
  | .wwaitWake => execWwaitWake g s
  | .tktReread => execTktReread g s
  | .joinWake => execJoinWake g s
  | .vgrowGrant => execVgrowGrant (2 * x.core + x.slot) s
  | .vgrowDeadlockSave => execVgrowDeadlockSave (2 * x.core + x.slot) s
  | .groupRestore => execGroupRestore g s
  | .locketFault => execLocketFault g s
  | .debugStopSave => execDebugStopSave g s
  | .sampleTag => execSampleTag x.core (x.sidx % 4) s
  | .sampleRecord => execSampleRecord x.core (x.sidx % 4) s
  | .stackWriteback => execStackWriteback x.core s
  | .stackWritebackRetry => execStackWritebackRetry x.core s

/-- All of them. -/
def groupActs : List GroupAct :=
  [.scalar, .park, .laneIssue, .joinWaitTimeout, .uncorrectableConsume, .copyOverlapStallEnd, .dfetchWake,
   .barrierRelease, .wwaitWake, .tktReread, .joinWake, .vgrowGrant, .vgrowDeadlockSave, .groupRestore,
   .locketFault, .debugStopSave, .sampleTag, .sampleRecord, .stackWriteback, .stackWritebackRetry]

/-- The step of each. -/
def ctxActRun (s : State) (c : Nat) : CtxAct → Out
  | .handlerWindowClose => execHandlerWindowClose c s
  | .vacateDrainDone => execVacateDrainDone c s
  | .spillDone => execSpillDone c s
  | .fillDone => execFillDone c s
  | .resumeExchange => execResumeExchange c s
  | .boundApply => execBoundApply c s
  | .floorApply => execFloorApply c s
  | .shootdownDone => execShootdownDone c s
  | .relaunch => execRelaunch c s
  | .watchHit => execWatchHit c s
  | .childPlace => execChildPlace c s
  | .joinedGroupSave => execJoinedGroupSave c s

/-- All of them. -/
def ctxActs : List CtxAct :=
  [.handlerWindowClose, .vacateDrainDone, .spillDone, .fillDone, .resumeExchange, .boundApply, .floorApply,
   .shootdownDone, .relaunch, .watchHit, .childPlace, .joinedGroupSave]

/-- The step of each. -/
def queueActRun (s : State) (c q : Nat) : QueueAct → Out
  | .tailSnoop => execTailSnoop c q s
  | .launchPacket => execLaunchPacket c q s
  | .signalPacket => execSignalPacket c q s
  | .waitPacket => execWaitPacket c q s
  | .waitSatisfied => execWaitSatisfied c q s
  | .graphOpen => execGraphOpen c q s
  | .graphCancel => execGraphCancel c q s
  | .copyPacket => execCopyPacket c q s

/-- All of them. -/
def queueActs : List QueueAct :=
  [.tailSnoop, .launchPacket, .signalPacket, .waitPacket, .waitSatisfied, .graphOpen, .graphCancel, .copyPacket]

/-- The step of each. -/
def launchActRun (s : State) (l : Nat) : LaunchAct → Out
  | .launchBind => execLaunchBind l s
  | .slotRequest => execSlotRequest l s
  | .launchPlace => execLaunchPlace l s
  | .applyOrderedAtomics => execApplyOrderedAtomics l s
  | .launchComplete => execLaunchComplete l s
  | .replayDiverged => execReplayDiverged l s

/-- All of them. -/
def launchActs : List LaunchAct :=
  [.launchBind, .slotRequest, .launchPlace, .applyOrderedAtomics, .launchComplete, .replayDiverged]

/-- The step of each. -/
def copyActRun (s : State) (k : Nat) : CopyAct → Out
  | .copyByteTransfer => execCopyByteTransfer k 64 s
  | .copySuspend => execCopySuspend k s
  | .copyResume => execCopyResume k s
  | .copyComplete => execCopyComplete k s
  | .copyFail => execCopyFail k s

/-- All of them. -/
def copyActs : List CopyAct :=
  [.copyByteTransfer, .copySuspend, .copyResume, .copyComplete, .copyFail]

/-- The step of each. -/
def tileActRun (s : State) (k : Nat) : TileAct → Out
  | .tileOpStart => execTileOpStart k s
  | .tileOpComplete => execTileOpComplete k s
  | .tmergeResume => execTmergeResume k s
  | .spanInstanceStart => execSpanInstanceStart k s
  | .parkedOpRecheck => execParkedOpRecheck k s

/-- All of them. -/
def tileActs : List TileAct :=
  [.tileOpStart, .tileOpComplete, .tmergeResume, .spanInstanceStart, .parkedOpRecheck]

/-- The step of each. -/
def collActRun (s : State) (k : Nat) : CollAct → Out
  | .collInstanceStart => execCollInstanceStart k s
  | .chunkDepart => execChunkDepart k s
  | .chunkCombine => execChunkCombine k s
  | .collComplete => execCollComplete k s
  | .collFail => execCollFail k s

/-- All of them. -/
def collActs : List CollAct :=
  [.collInstanceStart, .chunkDepart, .chunkCombine, .collComplete, .collFail]

/-- The step of each. -/
def moveActRun (s : State) (r : Nat) : MoveAct → Out
  | .lineCopy => execLineCopy r s
  | .moveAbort => execMoveAbort r s
  | .moveComplete => execMoveComplete r s
  | .moveRetire => execMoveRetire r s

/-- All of them. -/
def moveActs : List MoveAct :=
  [.lineCopy, .moveAbort, .moveComplete, .moveRetire]

/-- The step of each. -/
def portActRun (s : State) (n : Nat) : PortAct → Out
  | .linkReplay => execLinkReplay n s
  | .linkTrainDone => execLinkTrainDone n s

/-- All of them. -/
def portActs : List PortAct :=
  [.linkReplay, .linkTrainDone]

/-- The step of each. -/
def dieActRun (s : State) (d : Nat) : DieAct → Out
  | .clockStepStart => execClockStepStart d s
  | .clockRestart => execClockRestart d s

/-- All of them. -/
def dieActs : List DieAct :=
  [.clockStepStart, .clockRestart]

/-- The step of each. -/
def deviceActRun (s : State) : DeviceAct → Out
  | .powerGood => execPowerGood s
  | .tokenDebit => execTokenDebit s
  | .tokenRefill => execTokenRefill s
  | .hotnessReport => execHotnessReport s
  | .moveCmd => execMove s
  | .swapCmd => execSwap s
  | .evacuateCmd => execEvacuate s
  | .abortCmd => execAbort s

/-- All of them. -/
def deviceActs : List DeviceAct :=
  [.powerGood, .tokenDebit, .tokenRefill, .hotnessReport, .moveCmd, .swapCmd, .evacuateCmd, .abortCmd]

/-- A turn that the device may take of itself. -/
inductive Own where
  | tick
  | group (g : Nat) (a : GroupAct)
  /-- An access in flight: its completion. -/
  | access (g id : Nat)
  /-- An access in flight at the source home of a page in motion. -/
  | request (g id : Nat)
  | ctx (c : Nat) (a : CtxAct)
  | pinExpire (c va : Nat)
  | queue (c q : Nat) (a : QueueAct)
  | launch (l : Nat) (a : LaunchAct)
  | copy (k : Nat) (a : CopyAct)
  | tile (k : Nat) (a : TileAct)
  | coll (k : Nat) (a : CollAct)
  | move (r : Nat) (a : MoveAct)
  | port (n : Nat) (a : PortAct)
  | channel (n vc : Nat)
  | die (d : Nat) (a : DieAct)
  | device (a : DeviceAct)
  | corrected (die loc : Nat)
  | excursion (c start stop : Nat)
  | retirement (kind n : Nat)
  deriving DecidableEq, Repr

/-- A turn of the device's own, as it stands. -/
def State.ownAct (s : State) : Own → Out
  | .tick => .next (s.elapse 1)
  | .group g a => match Map.find s.groups g with
    | some x => groupActRun s g x a
    | none => .next s
  | .access g id => execScalarAccessComplete g id s
  | .request g id => execSourceHomeRequest g id s
  | .ctx c a => ctxActRun s c a
  | .pinExpire c va => execThrashPinExpire c va s
  | .queue c q a => queueActRun s c q a
  | .launch l a => launchActRun s l a
  | .copy k a => copyActRun s k a
  | .tile k a => tileActRun s k a
  | .coll k a => collActRun s k a
  | .move r a => moveActRun s r a
  | .port n a => portActRun s n a
  | .channel n vc => execFabricRequest n vc s
  | .die d a => dieActRun s d a
  | .device a => deviceActRun s a
  | .corrected die loc => execCorrectedThreshold die loc s
  | .excursion c start stop => execBoundExcursion c start stop s
  | .retirement kind n => execRetirementDone kind n s

/-- A group goes on after this turn from what others have done (R90, R98, R202). -/
def Own.joins : Own → Bool
  | .group _ .barrierRelease | .group _ .dfetchWake | .group _ .joinWake | .group _ .groupRestore | .launch _ .launchPlace
  | .ctx _ .childPlace | .ctx _ .resumeExchange | .ctx _ .vacateDrainDone => true
  | _ => false

/-- The step of a turn of the device's own. -/
def State.own (s : State) (w : Own) : Out :=
  s.settle (match s.ownAct w with
    | .next t => .next (if w.joins then { t with l1 := [] } else t)
    | o => o)

/-- The turns of a group. -/
def groupTurns (g : Nat) (x : Group) : List Own :=
  if x.residence = .ended then []
  else groupActs.map (fun a => Own.group g a) ++ x.pend.flatMap (fun p => [Own.access g p.id, Own.request g p.id])

/-- The turns of a context and of its queues. -/
def ctxTurns (c : Nat) (x : Ctx) : List Own :=
  ctxActs.map (fun a => Own.ctx c a) ++ x.pages.map (fun h => Own.pinExpire c h.va) ++
  x.queues.flatMap (fun kv => queueActs.map (fun a => Own.queue c kv.1 a))

/-- Every turn that the device itself could take once it is up. A turn whose condition does not hold changes nothing. -/
def State.ownTurns (s : State) : List Own :=
  [.tick] ++ deviceActs.map (fun a => Own.device a) ++
  s.groups.flatMap (fun kv => groupTurns kv.1 kv.2) ++
  s.ctxs.flatMap (fun kv => ctxTurns kv.1 kv.2) ++
  s.launches.flatMap (fun kv => if kv.2.phase = .finished then [] else launchActs.map (fun a => Own.launch kv.1 a)) ++
  s.copies.flatMap (fun kv => copyActs.map (fun a => Own.copy kv.1 a)) ++
  s.tileOps.flatMap (fun kv => tileActs.map (fun a => Own.tile kv.1 a)) ++
  s.colls.flatMap (fun kv => collActs.map (fun a => Own.coll kv.1 a)) ++
  s.moves.flatMap (fun kv => moveActs.map (fun a => Own.move kv.1 a)) ++
  s.ports.flatMap (fun kv => portActs.map (fun a => Own.port kv.1 a) ++ kv.2.rx.map (fun q => Own.channel kv.1 q.1)) ++
  s.clocks.flatMap (fun kv => dieActs.map (fun a => Own.die kv.1 a)) ++
  s.corrected.map (fun kv => Own.corrected (kv.1 / 8) (kv.1 % 8)) ++
  s.excursions.map (fun e => Own.excursion e.1 e.2.1 e.2.2) ++
  s.retiring.map (fun e => Own.retirement e.1 e.2)

/-- The turn taken where nothing is on the agenda: the next step of bring-up, then the turns of the state in rotation. -/
def State.autoTurn (s : State) : Own :=
  if s.boot ≠ 6 then .device .powerGood
  else s.ownTurns.getD (s.turnNo % s.ownTurns.length) .tick

/-- ONE STEP OF THE DEVICE: the turn that the agenda names, or the device's own. -/
def State.advance (s : State) : Out :=
  match s.agenda with
  | t :: rest => { s with agenda := rest }.turn t
  | [] => { s with turnNo := s.turnNo + 1 }.own s.autoTurn

end Sys2Proof.Machine
end

