-- ==== Sys2Proof/Machine/Step.lean ====
section
/-!
DEFINITION. The step of the machine, and the placing of one instruction where the next step runs it.
-/
namespace Sys2Proof.Machine

/-- One step: the turn that the agenda names, or, with an empty agenda, the device's own. -/
def step (s : State) : Host.Outcome State Fault Refusal := s.advance

/-- The page table of `State.withFetchWord`: levels 4 to 0 from 2^40 + 0x1000 up, and one page of type HBM at virtual address
0x10000. -/
def fetchTables (m : List Host.Cell) : List Host.Cell :=
  let t : Nat := 2 ^ 40
  let m1 := setLE m (t + 0x1000) 8 (2 ^ 63 + t + 0x2000)
  let m2 := setLE m1 (t + 0x2000) 8 (2 ^ 63 + t + 0x3000)
  let m3 := setLE m2 (t + 0x3000) 8 (2 ^ 63 + t + 0x4000)
  let m4 := setLE m3 (t + 0x4000) 8 (2 ^ 63 + t + 0x5000)
  setLE m4 (t + 0x5008) 8 (2 ^ 63 + 2 ^ 62 + 7 * 2 ^ 56 + t + 0x20000 + 1)

/-- The launch of `State.withFetchWord`: one block of one group, scalar code at 0x10000, lane code at 0x18000. -/
def fetchLaunch : Launch :=
  { phase := .running, b := 1, ncores := 1, pb := 1, places := [(0, 0)],
    kd := { sbase := 0x10000, ssize := 0x8000, lbase := 0x18000, lsize := 0x7FF8 } }

/-- The machine with one instruction where its next step fetches: the device is up, context 0 is RUNNING with one launch of
one group, and the group is the next to move. A scalar word stands at the group's `pc`. A lane word heads the block that the
group's lane queue holds, or, in class 6, the block that a `vrun` at the `pc` names. -/
def State.withFetchWord (s : State) (nbits w : Nat) : State :=
  let g := s.clock + 1
  let lane := decide (32 < nbits)
  let direct := lane && laneClass w == 6
  let m := fetchTables s.mem
  let m1 := if lane then setLE m (2 ^ 40 + 0x28000) 12 w else m
  let m2 := if lane && !direct then m1 else setLE m1 (2 ^ 40 + 0x20000) 4 (if direct then encode (.vrun 0) else w)
  let c : Ctx := { s.ctx 0 with en := true, st := .running, ptroot := BitVec.ofNat 64 (2 ^ 40 + 0x1000), part := 1#1440 }
  let x : Group := { launch := g, block := g, queue := if lane && !direct then [{ mask := 0xFFFFFFFF#32, fmt := 0x08840000#32 }] else [] }
  { s with
    boot := 6, mem := m2, ctxs := s.ctxs.put 0 c, clock := g
    launches := s.launches.put g fetchLaunch
    blocks := s.blocks.put g { launch := g, bases := [0] }
    groups := s.groups.put g x
    agenda := [if lane && !direct then .event (.laneIssue 0 0) else .scalar g] }

end Sys2Proof.Machine
end

