-- ==== Sys2Proof/Safety.lean ====
section
/-!
DEFINITION. What counts as a safe step and a well-formed state, and the conditions and results in whose terms the statements
speak of instructions.
-/
namespace Sys2Proof.Machine

/-! ## Well-formed states -/

/-- The memory of the device and the memory of its peers are in canonical form. -/
def State.MemWf (s : State) : Prop := Memory.wf s.mem = true ∧ Memory.wf s.peerMem = true

/-! ## Scalar instructions -/

/-- The scalar instruction of group x may take its effect (11 R177, 09 R143, 02 R16, 25 R406): x is the group that the step is
about, the registers lie in its allocation, no enqueued lane instruction stands in the way, no source is marked. -/
def ScalarReady (s : State) (x : Group) (reads writes masks : List Nat) : Prop :=
  Map.find s.groups s.cur = some x ∧ x.sOk (reads ++ writes) = true ∧ s.scoreWaits x reads writes masks = false ∧
  (reads.any (fun r => x.serr.contains r)) = false

/-- The outcome is the next state in which group x alone has changed, into y. -/
def GivesGroup (s : State) (y : Group) (o : Out) : Prop := o = .next (s.setGrp s.cur y)

/-- Scalar register d of x receives v, and nothing else of the machine changes but the `pc`, which becomes p: the frame of a
register instruction. Register 0 stays zero; the written register loses its error mark. -/
def GivesRegAt (s : State) (x : Group) (d : Nat) (v p : W64) (o : Out) : Prop :=
  ∃ y : Group, GivesGroup s y o ∧ y = { x with sreg := y.sreg, serr := y.serr, pc := p } ∧
    (∀ r, y.sr r = if r = d ∧ d ≠ 0 then v else x.sr r) ∧ (∀ r, r ∈ y.serr ↔ r ∈ x.serr ∧ ¬(r = d ∧ d ≠ 0))

/-- `GivesRegAt` with the next instruction's address. -/
def GivesReg (s : State) (x : Group) (d : Nat) (v : W64) (o : Out) : Prop := GivesRegAt s x d v (x.pc + 4#64) o

/-- The three-operand operations (R179, R180), each with its result. -/
def alu3Table : List ((Nat → Nat → Nat → Instr) × (W64 → W64 → W64)) :=
  [(.add, fun x y => x + y), (.sub, fun x y => x - y), (.mul, fun x y => x * y),
   (.mulh, fun x y => BitVec.ofInt 64 (x.toInt * y.toInt / 2 ^ 64)), (.mulhn, fun x y => BitVec.ofNat 64 (x.toNat * y.toNat / 2 ^ 64)),
   (.div, fun x y => if y = 0#64 then 0xFFFFFFFFFFFFFFFF#64 else BitVec.ofInt 64 (Int.tdiv x.toInt y.toInt)),
   (.divn, fun x y => if y = 0#64 then 0xFFFFFFFFFFFFFFFF#64 else BitVec.ofNat 64 (x.toNat / y.toNat)),
   (.rem, fun x y => if y = 0#64 then x else BitVec.ofInt 64 (Int.tmod x.toInt y.toInt)),
   (.remn, fun x y => if y = 0#64 then x else BitVec.ofNat 64 (x.toNat % y.toNat)),
   (.and, fun x y => x &&& y), (.or, fun x y => x ||| y), (.xor, fun x y => x ^^^ y), (.andn, fun x y => x &&& ~~~y),
   (.shl, fun x y => x <<< (y.toNat % 64)), (.shr, fun x y => x >>> (y.toNat % 64)), (.sra, fun x y => x.sshiftRight (y.toNat % 64)),
   (.min, fun x y => if x.toInt ≤ y.toInt then x else y), (.max, fun x y => if x.toInt ≤ y.toInt then y else x),
   (.minn, fun x y => if x.toNat ≤ y.toNat then x else y), (.maxn, fun x y => if x.toNat ≤ y.toNat then y else x)]

/-- The two-address forms, each with the three-operand form of the same operation. -/
def alu2Table : List ((Nat → Nat → Instr) × (Nat → Nat → Nat → Instr)) :=
  [(.add2A, .add), (.sub2A, .sub), (.mul2A, .mul), (.mulh2A, .mulh), (.mulhn2A, .mulhn), (.div2A, .div), (.divn2A, .divn),
   (.rem2A, .rem), (.remn2A, .remn), (.and2A, .and), (.or2A, .or), (.xor2A, .xor), (.andn2A, .andn), (.shl2A, .shl), (.shr2A, .shr),
   (.sra2A, .sra), (.min2A, .min), (.max2A, .max), (.minn2A, .minn), (.maxn2A, .maxn)]

/-- The unary operations (R181), each with its result. -/
def alu1Table : List ((Nat → Nat → Instr) × (W64 → W64)) :=
  [(.mov, fun x => x), (.neg, fun x => 0#64 - x), (.not, fun x => ~~~x),
   (.clz, fun x => BitVec.ofNat 64 ((List.range 64).countP (fun j => decide (x.toNat < 2 ^ j)))),
   (.ctz, fun x => BitVec.ofNat 64 ((List.range 64).countP (fun j => x.toNat % 2 ^ (j + 1) == 0))),
   (.popc, fun x => BitVec.ofNat 64 ((List.range 64).countP (fun j => x.getLsbD j))), (.brev, fun x => x.reverse),
   (.sxt8, fun x => (x.setWidth 8).signExtend 64), (.sxt16, fun x => (x.setWidth 16).signExtend 64),
   (.sxt32, fun x => (x.setWidth 32).signExtend 64), (.zxt8, fun x => (x.setWidth 8).setWidth 64),
   (.zxt16, fun x => (x.setWidth 16).setWidth 64), (.zxt32, fun x => (x.setWidth 32).setWidth 64)]

/-- The comparisons (R182), each with its condition. -/
def cmpTable : List ((Nat → Nat → Nat → Instr) × (W64 → W64 → Bool)) :=
  [(.cmpEq, fun x y => decide (x = y)), (.cmpNe, fun x y => decide (x ≠ y)), (.cmpLt, fun x y => decide (x.toInt < y.toInt)),
   (.cmpGe, fun x y => decide (y.toInt ≤ x.toInt)), (.cmpLtn, fun x y => decide (x.toNat < y.toNat)),
   (.cmpGen, fun x y => decide (y.toNat ≤ x.toNat))]

/-- A 16-bit immediate, sign-extended and zero-extended (R148). -/
def sImm (im : Nat) : W64 := (BitVec.ofNat 16 im).signExtend 64
/-- Zero-extended. -/
def zImm (im : Nat) : W64 := (BitVec.ofNat 16 im).setWidth 64

/-- The immediate operations (R183), each with its result on the old value of its register. -/
def immTable : List ((Nat → Nat → Instr) × (Nat → W64 → W64)) :=
  [(.lih, fun im v => (v <<< 16) ||| zImm im), (.addi, fun im v => v + sImm im), (.andi, fun im v => v &&& zImm im),
   (.ori, fun im v => v ||| zImm im), (.xori, fun im v => v ^^^ zImm im), (.shli, fun im v => v <<< (im % 64)),
   (.shri, fun im v => v >>> (im % 64)), (.srai, fun im v => v.sshiftRight (im % 64))]

/-- The conditional branches (R191), each with its condition on the register as `i64`. -/
def branchTable : List ((Nat → Nat → Instr) × (Int → Bool)) :=
  [(.brEq, fun v => decide (v = 0)), (.brNe, fun v => decide (v ≠ 0)), (.brLt, fun v => decide (v < 0)), (.brGe, fun v => decide (0 ≤ v)),
   (.brGt, fun v => decide (0 < v)), (.brLe, fun v => decide (v ≤ 0))]

/-- The target of a branch or of a jump: words forward or back from the instruction (R144). -/
def branchTo (x : Group) (o : Nat) : W64 := x.pc + 4#64 * (BitVec.ofNat 16 o).signExtend 64
/-- Of a jump or a call. -/
def jumpTo (x : Group) (o : Nat) : W64 := x.pc + 4#64 * (BitVec.ofNat 26 o).signExtend 64

/-- The register instructions, which read and write scalar registers alone, each with what it reads and writes. -/
def registerForms (d a b im : Nat) : List (Instr × List Nat × List Nat) :=
  alu3Table.map (fun p => (p.1 d a b, [a, b], [d])) ++ alu2Table.map (fun p => (p.1 d a, [d, a], [d])) ++
  alu1Table.map (fun p => (p.1 d a, [a], [d])) ++ cmpTable.map (fun p => (p.1 d a b, [a, b], [d])) ++
  immTable.map (fun p => (p.1 d im, [d], [d])) ++
  [(.sel d a b, [d, a, b], [d]), (.lea 0 d a b, [a, b], [d]), (.lea 1 d a b, [a, b], [d]), (.lea 2 d a b, [a, b], [d]),
   (.lea 3 d a b, [a, b], [d]), (.li d im, [], [d])]

/-! ## The frontier table (R43 to R55) -/

/-- The lanes that wait at a scalar address as an ordinary path; none where no ordinary entry holds it. -/
def Group.pathAt (x : Group) (a : Nat) : W32 :=
  match x.front.find? (fun e => e.kind == .ordinary && e.addr == a) with
  | some e => e.mask
  | none => 0#32

/-- A push to an address finds an ordinary entry there, or a free one (R45, R53). -/
def Group.roomFor (x : Group) (a : Nat) : Bool := x.front.any (fun e => e.kind == .free || (e.kind == .ordinary && e.addr == a))

/-- No two ordinary entries hold one address (R43). -/
def Group.pathsApart (x : Group) : Prop :=
  ∀ (i j : Nat) (e f : FEntry), x.front[i]? = some e → x.front[j]? = some f → e.kind = .ordinary → f.kind = .ordinary → e.addr = f.addr → i = j

/-- y is x with another frontier table, path, format and wait, and nothing else changed. -/
def Group.movesPath (x y : Group) : Prop := y = { x with front := y.front, pc := y.pc, m0 := y.m0, fmt := y.fmt, wait := y.wait }

/-- The eligible entry with the lowest ADDR satisfying a test is the i-th (R43, R58). -/
def Group.lowest (x : Group) (i : Nat) (e : FEntry) (p : FEntry → Bool) : Prop :=
  x.front[i]? = some e ∧ x.eligible e = true ∧ p e = true ∧
  ∀ (j : Nat) (f : FEntry), x.front[j]? = some f → x.eligible f = true → p f = true → j ≠ i → e.addr < f.addr

/-- The group runs the lanes of an entry (R50), the entry freed. -/
def Group.runs (y : Group) (e : FEntry) : Prop := y.m0 = e.mask ∧ y.fmt = e.fmt ∧ y.pc = BitVec.ofNat 64 (4 * e.addr) ∧ y.wait = .none

/-! ## Special registers (R157) -/

/-- `%ccnt` of a die at a time: the step's count and the clock's rate since; it stands still while the clock is stopped (R448, R449). -/
def clockCount (k : DieClock) (now : Nat) : Nat :=
  k.cstepC + ((match k.relock with | some r => r.1 | none => now) - k.cstepG) * k.cfreq / 1000

/-- What is left of an open handler window, for the groups that R458 puts in it; else 0 (R126, R137; log 175). -/
def windowLeft (s : State) (x : Group) : Nat :=
  match (s.ctx x.ctx).vac, x.trap with
  | some v, some r => if v.open_ = true ∧ r.atT0 = true then v.d - (s.gtime - v.t0) else 0
  | _, _ => 0

/-- The special registers by code, each with its value (R157, R126, R131, R198, R448). -/
def specialTable : List (Nat × (State → Group → Nat)) :=
  [(0x000, fun s _ => s.gtime),
   (0x001, fun s x => clockCount (s.clk (x.core / 80)) s.gtime),
   (0x002, fun s x => (s.clk (x.core / 80)).cstepG), (0x003, fun s x => (s.clk (x.core / 80)).cstepC), (0x004, fun s x => (s.clk (x.core / 80)).cfreq), (0x005, fun s _ => s.atick),
   (0x010, fun _ x => x.fmt.toNat), (0x011, fun _ x => x.fflags.toNat),
   (0x012, fun _ x => (x.trap.map (fun r => r.tcause.toNat)).getD 0),
   (0x013, fun _ x => (x.trap.map (fun r => r.f.toNat)).getD 0),
   (0x014, fun _ x => x.stklim), (0x018, fun _ x => x.sigdim), (0x019, fun _ x => x.sigdepth), (0x01A, fun _ x => x.blevel),
   (0x01B, fun _ x => x.blimit), (0x020, fun _ x => x.gid), (0x021, fun s x => (s.blk x.block).bid), (0x022, fun s x => (s.lau x.launch).lid),
   (0x023, fun _ x => x.core), (0x024, fun _ x => x.core / 80), (0x025, fun s x => (s.lau x.launch).ncores),
   (0x030, fun _ x => x.rstack.reverse.getD 0 0), (0x031, fun _ x => x.rstack.reverse.getD 1 0), (0x032, fun _ x => x.rstack.reverse.getD 2 0),
   (0x033, fun _ x => x.rstack.reverse.getD 3 0), (0x040, fun s x => (s.ctx x.ctx).vbcur.toNat), (0x041, fun s x => 700 + (s.ctx x.ctx).maxCharge),
   (0x042, fun s x => (s.ctx x.ctx).vbcur.toNat - (700 + (s.ctx x.ctx).maxCharge)), (0x043, fun _ x => x.vmode.toNat),
   (0x044, fun s x => windowLeft s x),
   (0x050, fun _ _ => 700), (0x051, fun _ _ => 1600), (0x052, fun _ _ => 2400), (0x053, fun _ _ => 6000), (0x054, fun _ _ => 8000),
   (0x055, fun _ _ => 400), (0x056, fun _ _ => 1200), (0x058, fun s x => (s.ctx x.ctx).floor (x.core / 80) 0),
   (0x059, fun s x => (s.ctx x.ctx).floor (x.core / 80) 1), (0x05A, fun s x => (s.ctx x.ctx).floor 4 2), (0x05B, fun s x => (s.ctx x.ctx).floor 4 3),
   (0x05C, fun s x => (s.ctx x.ctx).floor (x.core / 80) 4)]

/-- A format word without a reserved pattern (R119). -/
def fmtLegal (v : Nat) : Prop := v / 2 ^ 28 = 0 ∧ v % 2 ^ 9 = 0 ∧ v / 2 ^ 14 % 4 ≠ 3 ∧ v / 2 ^ 11 % 8 < 6 ∧ v / 2 ^ 9 % 4 ≠ 3

/-- The fields of the format word (R199): the bit of the field mask, the lowest and the highest bit. -/
def fmtFields : List (Nat × Nat × Nat) := [(5, 24, 27), (4, 20, 23), (3, 16, 19), (2, 14, 15), (1, 11, 13), (0, 9, 10)]

/-! ## Traps (R57 to R59, R393 to R396) -/

/-- The group on its handler path after a cause of a scalar instruction (R57). -/
def Group.inHandler (x : Group) (code arg vector : Nat) : Group :=
  { x with
    trap := some { pc := x.pc, m0 := x.m0, fmt := x.fmt, f := x.m0, held := x.queue, i := none, whole := true
                   tcause := BitVec.ofNat 32 (arg * 65536 + code), handler := .trap }
    pc := BitVec.ofNat 64 vector, queue := [], replay := none, wait := .none }

/-- In t the group g, which was x, is stopped (R396): it counts as ended, runs nothing, and its launch is cancelled and fails. -/
def Stopped (t : State) (g : Nat) (x : Group) : Prop :=
  (∃ y, Map.find t.groups g = some y ∧ y.residence = .ended ∧ y.stopped = true ∧ y.queue = [] ∧ y.launch = x.launch ∧ y.pc = x.pc) ∧
  (t.lau x.launch).cancelled = true ∧ (t.lau x.launch).fail ≠ 0

/-- What runs again of the faulting lane instruction for the lanes that retry (R59, R212): it alone for those lanes, or, where its cause
concerned the whole group, as it stood unless no lane retries. -/
def TrapRec.runsAgain (r : TrapRec) (retry : W32) : List LaneBlock :=
  (r.i.map (fun b => if r.whole = true then { b with redo := if retry = 0#32 then some 0#32 else b.redo } else { b with redo := some retry, bad := 0#32 })).toList

/-! ## Accesses to memory (R98, R129, R188, R189) -/

/-- In t an operation of context c has been charged under a key on each resource that it costs (R129), and no other context has changed. -/
def Charged (s t : State) (c key : Nat) (cs : Costs) : Prop :=
  (∀ d, d ≠ c → t.ctx d = s.ctx d) ∧
  t.ctx c = { s.ctx c with ledger := (s.ctx c).ledger ++ (cs.filter (fun k => k.amt != 0)).map (fun k => (⟨key, k.res, k.amt, (s.ctx c).epoch, k.floor⟩ : Charge)) }

/-- An access of one part may issue: its address leads to its place, a read finds no uncorrectable data there, the vacate check of R134 is
passed, and its counter and the queues it enters have room (R98, R71, R72). -/
def AccessFits (s : State) (x : Group) (a : Part) (w : Want) (k : AccessKind) (cl : OpClass) : Prop :=
  s.resolve s.cur x true a.va a.size w = .ok a.place ∧ (w = .wr ∨ s.placeBad x a.place a.size = false) ∧
  s.issueCheck x.ctx x.strict (s.inWindow x) (s.accessCosts s.cur x k [a]) = .ok ∧ s.room s.cur x cl { kind := k, parts := [a] } = true

/-- In t the access p of the current group x has issued, under the next number: it is the youngest in flight, in its counter, its costs are
charged to the context, the thread has passed on, and besides only the TLB, hotness and the contexts touched by a suspension have changed. -/
def Issued (s : State) (x : Group) (p : Pend) (cl : OpClass) (cs : Costs) (t : State) : Prop :=
  p.id = s.clock + 1 ∧ p.seq = x.seq ∧ p.cls = some cl ∧ (∀ a ∈ p.parts, a.done = false) ∧
  t = { s with tlb := t.tlb, hot := t.hot, touched := t.touched, ctxs := t.ctxs, clock := s.clock + 1 }.setGrp s.cur
        { x with pend := x.pend ++ [p], seq := x.seq + 1, ops := x.ops ++ [(⟨p.id, cl, false⟩ : OpEntry)], pc := x.pc + 4#64
                 loadNo := if cl = OpClass.l then x.loadNo + 1 else x.loadNo } ∧
  Charged s t x.ctx p.id cs

/-- The kind of a scalar atomic by its AOP code and width (R189): add, and, or, xor; min and max in either order; exchange; compare and swap. -/
def satomKind (aop w : Nat) : AccessKind :=
  let i : Ty := if w = 1 then .i64 else .i32
  let n : Ty := if w = 1 then .n64 else .n32
  match aop with
  | 4 => .atomic 4 i 0 | 5 => .atomic 5 i 0 | 6 => .atomic 4 n 0 | 7 => .atomic 5 n 0 | 8 => .atomic 6 n 0 | 9 => .atomic 7 n 0
  | k => .atomic k n 0

/-- What a scalar atomic of a width in bits leaves in memory (R189): the old value, the operand, the value compared. -/
def satomResult (aop bits old x c : Nat) : Nat :=
  let int (v : Nat) : Int := if v < 2 ^ (bits - 1) then v else (v : Int) - 2 ^ bits
  match aop with
  | 0 => (old + x) % 2 ^ bits
  | 1 => old &&& x
  | 2 => old ||| x
  | 3 => old ^^^ x
  | 4 => if int old ≤ int x then old else x
  | 5 => if int old ≤ int x then x else old
  | 6 => Nat.min old x
  | 7 => Nat.max old x
  | 8 => x
  | _ => if old = c then x else old

/-- A form of scalar access: the instruction, what it reads and writes, its size, what it asks of a page, the code of R402 for that, its kind
and its counter. -/
structure ScalarAccessForm where
  instr : Instr
  reads : List Nat
  writes : List Nat
  size : Nat
  want : Want
  access : Nat
  kind : AccessKind
  cls : OpClass

/-- The forms of scalar access. -/
def scalarAccessForms (d a sz sgn ord scope w aop : Nat) : List ScalarAccessForm :=
  [⟨.lds d a sz sgn ord scope, [a], [d], 2 ^ sz, .rd, 0, .load, .l⟩, ⟨.sts d a sz ord scope, [d, a], [], 2 ^ sz, .wr, 1, .store, .s⟩,
   ⟨.satom d a aop ord scope w, if aop = 9 then [d, d + 1, a] else [d, a], if aop = 9 then [d, d + 1] else [d], if w = 1 then 8 else 4, .at_, 2,
    satomKind aop w, .l⟩]

/-- The access p, of the one part a, of group g, which is x, is in flight and can be performed now: its place is served, no other access of
the group must come before it, and in scratch it is the oldest in its banks' queues (R71). -/
def InFlight (s : State) (g : Nat) (x : Group) (p : Pend) (a : Part) : Prop :=
  Map.find s.groups g = some x ∧ p ∈ x.pend ∧ p.id ≠ 0 ∧ (∀ q ∈ x.pend, q.id = p.id → q = p) ∧ p.parts = [a] ∧ a.done = false ∧
  s.served x.ctx a = true ∧ s.bankFirst x p a = true ∧ ∀ q ∈ x.pend, mustWait s.moves x.ctx x.pend p q (some a) = false

/-- In t the access p of group g, which was x and is y, is complete: it has left the group and its counter is told, its charge is released, its
watch hits wait for their records, and no other group has changed; the core's L1 cache may have dropped lines (R9, R90), and the choice between
lanes of a store that clash has been made. -/
def Completed (s t : State) (g : Nat) (x y : Group) (p : Pend) : Prop :=
  Map.find t.groups g = some y ∧ (∀ h, h ≠ g → Map.find t.groups h = Map.find s.groups h) ∧
  y.pend = x.pend.filter (fun q => q.id != p.id) ∧ y.ops = (x.finishOp p.id).ops ∧
  (∀ c, c ≠ x.ctx → t.ctx c = s.ctx c) ∧
  t.ctx x.ctx = { s.ctx x.ctx with ledger := (s.ctx x.ctx).ledger.filter (fun k => k.key != p.id), hits := (s.ctx x.ctx).hits ++ p.watch } ∧
  t = { s with mem := t.mem, errLines := t.errLines, errFrames := t.errFrames, ctxs := t.ctxs, groups := t.groups, l1 := t.l1, freeCtr := t.freeCtr } ∧
  (∀ n ∈ t.l1, n ∈ s.l1)

/-! ## Handles and work (R196, R200 to R201, R305, R313) -/

/-- A word names operation number n of the group x, with handle h (R196). -/
def Group.names (x : Group) (s : State) (w : W64) (n : Nat) (h : Handle) : Prop :=
  w.toNat / 2 ^ 44 % 2 ^ 16 = (s.lau x.launch).lid ∧ w.toNat / 2 ^ 34 % 2 ^ 10 = x.gid ∧ w.toNat % 2 ^ 34 = n ∧
  Map.find x.handles n = some h ∧ h.kind = w.toNat / 2 ^ 60 ∧ 1 ≤ h.kind ∧ h.kind ≤ 3

/-- The group x is not behind another that the dispenser of its launch has served in this tick: by core, slot and `%gid` (R30). -/
def State.InTurn (s : State) (x : Group) : Prop := ∀ k, Mark.served x.launch k ∈ s.marks → k ≤ x.place

/-- The dispenser of its launch has served group x in this tick. -/
def State.servedBy (s : State) (x : Group) : State := { s with marks := .served x.launch x.place :: s.marks }

/-- The outcome is the next state in which group g, which is x, has received a unit word in register d, in a state t that differs from the one before in the
launch alone: it holds the unit u, at a level, and passes on, served in this tick (R30). -/
def GivesUnit (g : Nat) (t : State) (x : Group) (d : Nat) (w : W64) (u : Option UnitRef) (level : Nat) (o : Out) : Prop :=
  ∃ y, o = .next ((t.servedBy x).setGrp g y) ∧
    y = { x with sreg := y.sreg, serr := y.serr, unit := u, blevel := level, ordq := 0, wait := .none, pc := x.pc + 4#64 } ∧
    ∀ r, y.sr r = if r = d ∧ d ≠ 0 then w else x.sr r

/-- A tile is quartered (R313, R306): the extents are powers of two from 1 to 32,768, the tile is at least 4 wide both ways, its children are
within the level limit and their coordinates below the sentinel's. -/
def quartered (e0 e1 k limit : Nat) (w : W64) : Bool :=
  let u0 := w.toNat % 65536
  let u1 := w.toNat / 65536 % 65536
  (List.range 16).any (fun i => e0 == 2 ^ i) && (List.range 16).any (fun i => e1 == 2 ^ i) && decide (4 ≤ e0 / 2 ^ k) && decide (4 ≤ e1 / 2 ^ k) &&
  decide (k + 1 ≤ limit) && decide (2 * u0 + 1 ≤ 0xFFFE) && decide (2 * u1 + 1 ≤ 0xFFFE)

/-- The mask of a list of lanes as a number. -/
def laneMask (ls : List Nat) : Nat := (ls.map (fun n => 2 ^ n)).sum

/-- In t, with the group as y, the push of the group x on some lanes is over: register d holds a word, the lanes are done, and besides only the
launch has changed; the dispenser has served it in this tick (R30). -/
def PushedLanes (s t : State) (x y : Group) (d : Nat) (w : W64) (ls : List Nat) : Prop :=
  t = { s.servedBy x with launches := t.launches, groups := t.groups } ∧ (∀ g, g ≠ s.cur → Map.find t.groups g = Map.find s.groups g) ∧
  y = { x with sreg := y.sreg, serr := y.serr, lut := y.lut, pc := x.pc + 4#64 } ∧ (∀ r, y.sr r = if r = d ∧ d ≠ 0 then w else x.sr r) ∧
  ∀ n, Map.find y.lut n = if n ∈ ls then (Map.find x.lut n).map (fun e => { e with done := true }) else Map.find x.lut n

/-- The nodes ks are the units of some lanes handed off, the last lane first: descendants with the same word and level (R313, R314). -/
def HandedOff (x : Group) (t : State) (ks ls : List Nat) : Prop :=
  ks.length = ls.length ∧ ∀ (i n k : Nat), ls[i]? = some n → ks.reverse[i]? = some k → ∃ u, (Map.get {} x.lut n).unit = some u ∧
    let c := Map.get {} (t.lau x.launch).units k
    c.word = u.word ∧ c.level = u.level ∧ c.parent = some u.node

/-- The nodes cs are the children of some lanes' tiles, the last lane first and, for each, (1,1) first (R313). -/
def Quartered (x : Group) (t : State) (cs ls : List Nat) : Prop :=
  cs.length = 4 * ls.length ∧ ∀ (i j n k : Nat), ls[i]? = some n → j < 4 → cs.reverse[4 * i + j]? = some k → ∃ u, (Map.get {} x.lut n).unit = some u ∧
    let c := Map.get {} (t.lau x.launch).units k
    c.word.toNat % 65536 = 2 * (u.word.toNat % 65536) + j % 2 ∧ c.word.toNat / 65536 % 65536 = 2 * (u.word.toNat / 65536 % 65536) + j / 2 ∧
    c.word.toNat / 2 ^ 32 = u.word.toNat / 2 ^ 32 ∧ c.level = u.level + 1 ∧ c.parent = some u.node

/-! ## Waits on words, saves (R203, R204, R353) -/

/-- In t an operation of context c has been charged that is complete within the tick (R178): besides its charge, only the TLBs, the contexts
touched by a suspension and copies dropped from the L1 caches have changed. -/
def ChargedNow (s t : State) (c : Nat) (cs : Costs) : Prop :=
  t = { s with tlb := t.tlb, touched := t.touched, ctxs := t.ctxs, l1 := t.l1 } ∧ (∀ n ∈ t.l1, n ∈ s.l1) ∧ Charged s t c 0 cs

/-- The watched word at an address of the group g, which is x, can be read now and holds v, at these costs: no queued lane access stands before
it, no earlier access of the group must come first, the address leads to a place that is served and holds no uncorrectable data, and the vacate
check is passed. -/
def ReadsWord (s : State) (g : Nat) (x : Group) (va v : Nat) (cs : Costs) : Prop :=
  s.memQueued x = false ∧ ∃ pl, s.resolve g x true va 8 .rd = .ok pl ∧ s.placeBad x pl 8 = false ∧
    let part : Part := { va := va, place := pl, size := 8 }
    let p : Pend := { id := s.clock + 1, kind := .load, seq := x.seq, scope := 4, parts := [part] }
    s.served x.ctx part = true ∧ (∀ q ∈ x.pend, mustWait s.moves x.ctx x.pend p q (some part) = false) ∧ cs = s.accessCosts g x .load [part] ∧
    s.issueCheck x.ctx x.strict (s.inWindow x) cs = .ok ∧ v = (s.performIn g x p part).val

/-- The pages of the group's locket frame are resident (R352, R399). -/
def State.FrameMapped (s : State) (x : Group) : Prop :=
  (s.ctxPa x.ctx ((s.ctx x.ctx).lkbase.toNat + 40960 * x.locket)).isSome = true ∧
  (s.ctxPa x.ctx ((s.ctx x.ctx).lkbase.toNat + 40960 * x.locket + 40959)).isSome = true

/-- In t the group g, which is x, is saved with a CAUSE, at this time, on its die (R353, R11); no other group has changed. -/
def SavedIn (s t : State) (g : Nat) (x : Group) (cause : Nat) : Prop :=
  Map.find t.groups g = some { x with residence := .saved cause, savedGt := s.gtime, savedDie := x.core / 80 } ∧
  (∀ h, h ≠ g → Map.find t.groups h = Map.find s.groups h) ∧
  t.launches = s.launches ∧ t.scratch = s.scratch ∧ t.tiles = s.tiles ∧ t.tlb = s.tlb

/-! ## Lane arithmetic (R213 to R242, R303 to R316) -/

/-- The lane instruction at the head of the queue of x may take its effect (R143, R16, R71, R395): x is the group that the step is about; the
registers lie in the allocations; no access in flight will write one of them; no source is marked in an active lane; every lane has its
stochastic state. -/
def LaneReady (s : State) (x : Group) (mk : Nat) (reads writes sreads swrites : List Nat) : Prop :=
  Map.find s.groups s.cur = some x ∧ (∀ r ∈ reads ++ writes, r < 8 * x.valloc ∧ r ∉ x.pendV) ∧
  (∀ r ∈ sreads ++ swrites, r < 64 * x.salloc ∧ (r ≠ 0 → r ∉ x.pendS)) ∧
  (∀ r ∈ reads, ∀ l, l < 32 → (x.active mk).getLsbD l = true → 32 * r + l ∉ x.verr) ∧ (∀ r ∈ sreads, r ∉ x.serr) ∧ x.lfsr.length = 32

/-- Each active lane l of x receives the words and the stochastic state of f l, the flags are ORed into `%fflags`, and nothing else of the
machine changes but the lane queue, which the instruction leaves (R214, R117, R115): the frame of a lane instruction. A written entry loses its
error mark. -/
def GivesLanes (s : State) (x : Group) (mk : Nat) (e : Bool) (f : Nat → LaneOut) (o : Out) : Prop :=
  let on (l : Nat) : Bool := (x.active mk).getLsbD l
  ∃ y : Group, GivesGroup s y o ∧ y = { (x.popLane e) with vreg := y.vreg, verr := y.verr, fflags := y.fflags, lfsr := y.lfsr } ∧
    (∀ k l, l < 32 → y.vr k l = if on l then ((f l).words.lookup k).getD (x.vr k l) else x.vr k l) ∧
    (∀ k l, l < 32 → (32 * k + l ∈ y.verr ↔ 32 * k + l ∈ x.verr ∧ ¬(on l = true ∧ ∃ w, (k, w) ∈ (f l).words))) ∧
    (∀ j, y.fflags.getLsbD j = (x.fflags.getLsbD j || (List.range 32).any (fun l => on l && (f l).flags.getLsbD j))) ∧
    (∀ l, l < 32 → y.seed l = if on l then (f l).lfsr.getD (x.seed l) else x.seed l)

/-- The active lanes' bits of mask d become those of f, flags are ORed into `%fflags`, and nothing else changes but the queue (R221). -/
def GivesMask (s : State) (x : Group) (mk : Nat) (e : Bool) (d : Nat) (f : Nat → Bool) (fl : W32) (o : Out) : Prop :=
  ∃ y : Group, GivesGroup s y o ∧ y = { (x.popLane e) with masks := y.masks, fflags := x.fflags ||| fl } ∧
    ∀ k l, l < 32 → (y.mask k).getLsbD l = if k = d ∧ d ≠ 0 ∧ (x.active mk).getLsbD l = true then f l else (x.mask k).getLsbD l

/-- Scalar register d receives v from a lane instruction, with flags and the lanes' stochastic states, and nothing else changes but the queue
(R233, R236). -/
def GivesScalar (s : State) (x : Group) (e : Bool) (d : Nat) (v : W64) (fl : W32) (seeds : List W32) (o : Out) : Prop :=
  ∃ y : Group, GivesGroup s y o ∧ y = { (x.popLane e) with sreg := y.sreg, serr := y.serr, fflags := x.fflags ||| fl, lfsr := y.lfsr } ∧
    (∀ r, y.sr r = if r = d ∧ d ≠ 0 then v else x.sr r) ∧ ∀ l, l < 32 → y.seed l = seeds.getD l 1#32

/-- The vector registers of operand b, and the scalar register (R151). -/
def bSources (a : LArgs) : List Nat := if a.sb ∨ a.imm then [] else regsOf a.ty a.vb
/-- The scalar register. -/
def sSources (a : LArgs) : List Nat := if a.sb then [a.ss] else []

/-- The integer types of the lanes. -/
def intTypes : List Ty := [.i32, .n32, .i64, .n64, .i16]
/-- The floating-point types of class 1. -/
def fltTypes : List Ty := [.f32, .f64, .f16, .bf16]

/-- The two-operand integer instructions, each with its result on words of the type's width, `sg` for a signed type (R218). -/
def int2Table : List ((LArgs → Instr) × ((w : Nat) → (sg : Bool) → BitVec w → BitVec w → BitVec w)) :=
  let int (w : Nat) (sg : Bool) (v : BitVec w) : Int := if sg then v.toInt else (v.toNat : Int)
  [(.vadd, fun _ _ x y => x + y), (.vsub, fun _ _ x y => x - y), (.vmul, fun _ _ x y => x * y),
   (.vmulh, fun w sg x y => BitVec.ofInt w (int w sg x * int w sg y / 2 ^ w)),
   (.vmin, fun w sg x y => if int w sg x ≤ int w sg y then x else y), (.vmax, fun w sg x y => if int w sg x ≤ int w sg y then y else x),
   (.vand, fun _ _ x y => x &&& y), (.vor, fun _ _ x y => x ||| y), (.vxor, fun _ _ x y => x ^^^ y), (.vandn, fun _ _ x y => x &&& ~~~y),
   (.vshl, fun w _ x y => x <<< (y.toNat % w)), (.vshr, fun w _ x y => x >>> (y.toNat % w)), (.vsra, fun w _ x y => x.sshiftRight (y.toNat % w))]

/-- The two-operand floating-point instructions, each with its exact value and what its division raises (R222). -/
def flt2Table : List ((LArgs → Instr) × (RMode → Val → Val → Val × W32)) :=
  [(.vfadd, fun rm x y => (Val.sum rm [x, y], 0#32)), (.vfsub, fun rm x y => (Val.sum rm [x, y.negate], 0#32)),
   (.vfmul, fun _ x y => (x.mul y, 0#32)), (.vfdiv, fun _ x y => x.div y)]

/-- The three-operand ones: one rounding of a product and a sum. -/
def flt3Table : List ((LArgs → Instr) × (RMode → Val → Val → Val → Val)) :=
  [(.vfma, fun rm x y z => Val.sum rm [x.mul y, z]), (.vfms, fun rm x y z => Val.sum rm [x.mul y, z.negate]),
   (.vfnma, fun rm x y z => Val.sum rm [(x.mul y).negate, z])]

/-- The special functions (R227). -/
def sfuTable : List ((LArgs → Instr) × Sfu) :=
  [(.vexp2, .exp2), (.vlog2, .log2), (.vsin, .sin), (.vcos, .cos), (.vrcp, .rcp), (.vrsq, .rsq)]

/-- An exact value rounded once into its registers (R222, R115). -/
def roundedOut (t : Ty) (d : Nat) (rm : RMode) (fz : Nat) (seed : W32) (v : Val) (fl : W32) : LaneOut :=
  let r := roundVal t rm fz seed v
  { words := elemWords t d r.bits, flags := r.flags ||| fl, lfsr := some r.lfsr }

/-- A sum of terms rounded to nearest even in `f32`. -/
def rounded32 (fz : Nat) (ts : List Val) : W32 := BitVec.ofNat 32 (roundVal .f32 .rne fz 0#32 (Val.sum .rne ts)).bits

/-- A condition of `vcmp` on the order of two values (R221). -/
def holds (cc : Nat) (o : Ordering) : Bool :=
  match cc with
  | 0 => o == .eq | 1 => o != .eq | 2 => o == .lt | 3 => o != .gt | 4 => o == .gt | _ => o != .lt

/-- The order of two floating-point values that are not NaNs; -0 equals +0 (R224). -/
def order (x y : Val) : Ordering := if x.lt y then .lt else if y.lt x then .gt else .eq

/-- The combination of lane values under an integer operator of `vred` (R233): 0 add, 1 min, 2 max, 3 and, 4 or, 5 xor. -/
def intFold (op : Nat) (t : Ty) (vs : List Nat) : Nat :=
  let w := tyWidth t
  let int (v : BitVec w) : Int := if tySigned t then v.toInt else (v.toNat : Int)
  let f (x y : BitVec w) : BitVec w := match op with
    | 0 => x + y
    | 1 => if int x ≤ int y then x else y
    | 2 => if int x ≤ int y then y else x
    | 3 => x &&& y
    | 4 => x ||| y
    | _ => x ^^^ y
  let id : BitVec w := match op with
    | 1 => if tySigned t then BitVec.intMax w else BitVec.allOnes w
    | 2 => if tySigned t then BitVec.intMin w else 0
    | 3 => BitVec.allOnes w
    | _ => 0
  ((vs.map (BitVec.ofNat w)).foldl f id).toNat

/-- An encoding lies in an interval, in the order of the type (R124). -/
def Ivl.holds (t : Ty) (v : Nat) (i : Ivl) : Prop :=
  if t = .f32 then (fv v).isNan = false ∧ (fv v).lt (fv i.lo) = false ∧ (fv i.hi).lt (fv v) = false
  else intVal t i.lo ≤ intVal t v ∧ intVal t v ≤ intVal t i.hi

/-- A finite `f32` encoding. -/
def finite32 (v : Nat) : Prop := v < 2 ^ 32 ∧ v / 2 ^ 23 % 256 ≠ 255

/-- The distance of two exact values. -/
def distance (x y : Exact) : Exact := { Exact.sum [x, { y with neg := !y.neg }] false with neg := false }

/-! ## Lane accesses (R98, R243 to R261) -/

/-- In t the lane access p of the current group x has issued, under the next number: it is the youngest in flight, in its counter (a fence is in
none), its costs are charged to the context, the instruction has left the queue, the lanes' stochastic states are `seeds`, and besides only the
TLB, hotness, the buffered ordered atomics and the contexts touched by a suspension have changed; accesses to private memory also bring their lines
into the stack cache, which may write others back (R77). -/
def LaneIssued (s : State) (x : Group) (p : Pend) (cl : Option OpClass) (cs : Costs) (e : Bool) (seeds : List W32) (t : State) : Prop :=
  p.id = s.clock + 1 ∧ p.seq = x.seq ∧ p.cls = cl ∧ p.lane = true ∧ p.fmt = x.head.fmt ∧ (∀ a ∈ p.parts, a.done = false) ∧
  t = { s with tlb := t.tlb, hot := t.hot, touched := t.touched, ctxs := t.ctxs, launches := t.launches, clock := s.clock + 1
               stack := t.stack, mem := t.mem, peerMem := t.peerMem, errLines := t.errLines, errFrames := t.errFrames }.setGrp s.cur
        { (x.popLane e) with pend := x.pend ++ [p], seq := x.seq + 1, ops := x.ops ++ (cl.map (fun k => (⟨p.id, k, false⟩ : OpEntry))).toList, lfsr := seeds
                             loadNo := if cl = some OpClass.l then x.loadNo + 1 else x.loadNo } ∧
  ((∀ a ∈ p.parts, ∀ o, a.place ≠ .stack o) → t.stack = s.stack ∧ t.mem = s.mem ∧ t.peerMem = s.peerMem ∧ t.errLines = s.errLines ∧ t.errFrames = s.errFrames) ∧
  Charged s t x.ctx p.id cs

/-- A form of lane access: the instruction, its address form, whether only dome pages are reached, what it asks of a page, its size, what it reads and
writes, its kind, counter, destination and order, and, for each lane, its operands and whether the lane draws. -/
structure LaneAccessForm where
  instr : Instr
  form : Form
  dome : Bool
  want : Want
  size : Nat
  reads : List Nat
  writes : List Nat
  kind : AccessKind
  cls : OpClass
  dest : Dest
  acq : Bool
  rel : Bool
  value : Group → Nat → Nat
  compare : Group → Nat → Nat
  draws : Group → Bool

/-- The loads and stores of class 3 (R243, R245). -/
def loadStoreForms (a : MArgs) : List LaneAccessForm :=
  let load (i : Instr) (f : Form) (dome : Bool) : LaneAccessForm :=
    ⟨i, f, dome, .rd, szBytes a.sz, formRegs f a.va, szRegs a.vd a.sz, .load, .l, .vreg a.vd a.sz, decide (a.ord = 1), false, fun _ _ => 0, fun _ _ => 0, fun _ => false⟩
  let store (i : Instr) (f : Form) (dome : Bool) : LaneAccessForm :=
    ⟨i, f, dome, .wr, szBytes a.sz, formRegs f a.va ++ szRegs a.vd a.sz, [], .store, .s, .none, false, decide (a.ord = 2), fun x l => x.szVal a.vd a.sz l, fun _ _ => 0, fun _ => false⟩
  [load (.vld a) .window false, load (.vldg a) .pair false, load (.vlds a) .scratch false, load (.vldd a) .window true,
   store (.vst a) .window false, store (.vstg a) .pair false, store (.vsts a) .scratch false, store (.vstd a) .window true]

/-- The atomics of class 4 (R250, R258). -/
def laneAtomicForms (a : MArgs) : List LaneAccessForm :=
  let f := formOf a.am
  let stochastic (x : Group) : Bool := tyIsFloat a.ty && decide (modeOf a.rm x.head.fmt = .rst)
  [⟨.vatom a, f, false, .at_, tyWidth a.ty / 8, formRegs f a.va ++ regsOf a.ty a.vb ++ (if a.md = 7 then regsOf a.ty a.vc else []),
     if a.noret then [] else regsOf a.ty a.vd, .atomic a.md a.ty a.rm, if a.noret then .s else .l, if a.noret then .none else .vold a.vd (tyIs64 a.ty),
     decide (a.ord % 2 = 1), decide (2 ≤ a.ord), fun x l => x.elem a.ty a.vb l, fun x l => if a.md = 7 then x.elem a.ty a.vc l else 0,
     fun x => decide (a.md = 0) && stochastic x⟩,
   ⟨.vbank a, f, true, .at_, tyWidth a.ty / 8, formRegs f a.va ++ regsOf a.ty a.vb, [], .bank a.md a.ty a.rm, .s, .none, false, decide (2 ≤ a.ord),
     fun x l => x.elem a.ty a.vb l, fun _ _ => 0, fun x => decide (a.md < 3) && stochastic x⟩]

/-- The accesses of a form, one for each active lane, in ascending lanes, at the offsets o and the places pl. -/
def LaneAccessForm.parts (q : LaneAccessForm) (s : State) (x : Group) (a : MArgs) (o : Nat → Int) (size : Nat) (pl : Nat → Place) : List Part :=
  (lanesOf (x.active a.msk)).map (fun l =>
    let acc := s.laneAccess x q.form a.win q.dome q.want l (o l) size
    { lane := l, va := acc.va, place := pl l, size := size, x := q.value x l, c := q.compare x l, win := acc.win
      draw := if q.kind = .load ∨ q.kind = .store then 0#32 else x.seed l })

/-- Every active lane's access leads to its place, the vacate check is passed, and the counter, the queues and the stack cache have room. -/
def LaneFits (s : State) (x : Group) (a : MArgs) (q : LaneAccessForm) (o : Nat → Int) (size : Nat) (pl : Nat → Place) : Prop :=
  (∀ l, l < 32 → (x.active a.msk).getLsbD l = true → (s.laneAccess x q.form a.win q.dome q.want l (o l) size).res = .ok (pl l)) ∧
  s.issueCheck x.ctx x.strict (s.inWindow x) (s.accessCosts s.cur x q.kind (q.parts s x a o size pl)) = .ok ∧
  s.room s.cur x q.cls { kind := q.kind, parts := q.parts s x a o size pl } = true

/-- The access p of group g, which is x, is in flight and can be performed now, all of it: its parts lie in the device's memory at the homes
`home`, which are served, and no other access of the group must come before. -/
def LaneInFlight (s : State) (g : Nat) (x : Group) (p : Pend) (home : Part → Nat) : Prop :=
  Map.find s.groups g = some x ∧ p ∈ x.pend ∧ p.id ≠ 0 ∧ (∀ q ∈ x.pend, q.id = p.id → q = p) ∧ x.pfWait = [] ∧
  (∀ a ∈ p.parts, a.done = false ∧ s.served x.ctx a = true ∧ (∀ q ∈ x.pend, mustWait s.moves x.ctx x.pend p q (some a) = false) ∧
    ∃ pa page typ gen, a.place = .phys pa page typ gen ∧ homeOf x.ctx page gen pa s.moves = home a) ∧
  ∀ q ∈ x.pend, mustWait s.moves x.ctx x.pend p q none = false

/-- Updates of memory one after another (R94, R253): the memory they leave, and the old value each of them read. -/
def updatesRun (f : Part → Nat → Nat) (home : Part → Nat) : List Host.Cell → List Part → List Host.Cell × List Nat
  | m, [] => (m, [])
  | m, a :: t =>
    let old := getLE m (home a) a.size
    let r := updatesRun f home (setLE m (home a) a.size (f a old)) t
    (r.1, old :: r.2)

/-- The accesses ps in an order in which those of one place come as they are in qs (R81, R258): lanes at one address one after another, ascending. -/
def OneByOne (qs ps : List Part) : Prop := ps.Perm qs ∧ ∀ pl, ps.filter (fun a => a.place == pl) = qs.filter (fun a => a.place == pl)

/-- A word of a loaded element (R245): bytes and halves are extended by their size code. -/
def loadedWord (sz old j : Nat) : W32 :=
  match sz with
  | 1 => (BitVec.ofNat 8 old).signExtend 32
  | 3 => (BitVec.ofNat 16 old).signExtend 32
  | _ => BitVec.ofNat 32 (old / 2 ^ (32 * j))

/-- An integer atomic by its code (R251): add, and, or, xor, min, max, exchange, compare and swap. -/
def intAtomic (aop : Nat) (t : Ty) (old x c : Nat) : Nat :=
  match aop with
  | 0 => (old + x) % 2 ^ tyWidth t
  | 1 => old &&& x
  | 2 => old ||| x
  | 3 => old ^^^ x
  | 4 => if intVal t old ≤ intVal t x then old else x
  | 5 => if intVal t old ≤ intVal t x then x else old
  | 6 => x
  | _ => if old = c then x else old

/-- A step of an integer bank operation by its code (R258). -/
def intBank (bop : Nat) (t : Ty) (m b : Nat) : Nat :=
  match bop with
  | 0 => (m + b) % 2 ^ tyWidth t
  | 1 => (m + 2 ^ tyWidth t - b) % 2 ^ tyWidth t
  | 2 => m * b % 2 ^ tyWidth t
  | 3 => if intVal t m ≤ intVal t b then m else b
  | 4 => if intVal t m ≤ intVal t b then b else m
  | 5 => m &&& b
  | 6 => m ||| b
  | _ => m ^^^ b

/-! ## Tile operations (R262 to R283, R317 to R326) -/

/-- A form of tile instruction: its kind, the registers it captures, whether it needs a converged path, what it captures as vector, and the accesses
of its rows. -/
structure TileForm where
  instr : Instr
  kind : TileKind
  vregs : List Nat
  sregs : List Nat
  windowed : Bool
  conv : Bool
  vec : Group → List W32
  rows : State → Group → List LaneAcc
  pre : State → TileOp → Option Nat

/-- The forms of tile instruction. -/
def tileForms (a : TArgs) : List TileForm :=
  let plain (i : Instr) (k : TileKind) : TileForm := ⟨i, k, [], [], false, false, fun _ => [], fun _ _ => [], fun _ _ => none⟩
  let rows (i : Instr) (k : TileKind) (f : State → Group → List LaneAcc) : TileForm := ⟨i, k, [], [a.ss], true, false, fun _ => [], f, fun _ _ => none⟩
  let sig (i : Instr) (k : TileKind) (vs : List Nat) (v : Group → List W32) : TileForm := ⟨i, k, vs, [], false, false, v, fun _ _ => [], fun _ o => o.sigCause⟩
  let idx : List Nat := (List.range (shpRows a.shp / 32)).map (fun i => a.vx + i)
  let vec (x : Group) : List W32 := (List.range (if bitOf a.md 3 then 128 else shpRows a.shp)).map (fun i => x.vr (a.vx + i / 32) (i % 32))
  [rows (.tld a) .tld (fun s x => s.rowAccesses x a .rd), rows (.tst a) .tst (fun s x => s.rowAccesses x a .wr),
   plain (.tzero a) .tzero, plain (.tcvt a) .tcvt, plain (.tadd a) .tadd, rows (.tmerge a) .tmerge (fun s x => s.mergeAccesses x a),
   ⟨.tmma a, .tmma, idx, [a.ss], false, true, vec, fun _ _ => [], fun s o => s.gatherCause o⟩,
   ⟨.tmmq a, .tmmq, idx, [a.ss], false, true, vec, fun _ _ => [],
     fun s o => match s.rulerOf o with
       | some ld => if (ld.f1 && ld.f2) = false ∧ ld.depthK < qGroup o.fmt then some 0x04 else s.gatherCause o
       | none => s.gatherCause o⟩,
   sig (.sigz a) .sigz [] (fun _ => []), sig (.sigx a) .sigx [a.vx] (fun x => (List.range x.head.sigdim).map (fun l => x.vr a.vx l)),
   sig (.sigj a) .sigj [] (fun _ => []), sig (.siglog a) .siglog [] (fun _ => [])]

/-- In t the tile operation o of the current group x has entered its queues and the T counter (R263): it stands at the tail of each half it uses, is
charged, and the instruction has left the lane queue; no tile, register or byte of memory has changed. -/
def TileEntered (s : State) (x : Group) (o : TileOp) (cs : Costs) (e : Bool) (t : State) : Prop :=
  let k := s.tileOps.fresh
  (∃ w sp, Map.find t.tileOps k = some { o with opId := s.clock + 1, charge := s.clock + 1, span := sp, watch := w } ∧ (o.spanF = false → sp = none)) ∧
  (∀ j, j ≠ k → Map.find t.tileOps j = Map.find s.tileOps j) ∧
  (∀ h, Map.get [] t.halves h = if h ∈ o.halvesUsed.map (fun i => 2 * o.core + i) then Map.get [] s.halves h ++ [k] else Map.get [] s.halves h) ∧
  t = { s with tlb := t.tlb, hot := t.hot, touched := t.touched, ctxs := t.ctxs, launches := t.launches, tileOps := t.tileOps, halves := t.halves, clock := s.clock + 1 }.setGrp s.cur
        { (x.popLane e) with tileNo := x.tileNo + 1, ops := x.ops ++ [(⟨s.clock + 1, .t, false⟩ : OpEntry)] } ∧
  Charged s t x.ctx (s.clock + 1) cs

/-- In t the tile operation number k, which was o, is complete (R263, R271): it has left its queues and its counter, its charge is released, its group
holds the causes it met, and no other operation or group has changed. -/
def TileFinished (s t : State) (k : Nat) (o : TileOp) (causes : List Nat) (hits : List Hit) : Prop :=
  Map.find t.tileOps k = none ∧ (∀ j, j ≠ k → Map.find t.tileOps j = Map.find s.tileOps j) ∧
  (∀ h, Map.get [] t.halves h = if h ∈ o.halvesUsed.map (fun i => 2 * o.core + i) then (Map.get [] s.halves h).filter (fun j => j != k) else Map.get [] s.halves h) ∧
  t.ctx o.ctx = { s.ctx o.ctx with ledger := (s.ctx o.ctx).ledger.filter (fun c => c.key != o.charge), hits := (s.ctx o.ctx).hits ++ hits } ∧
  (∀ c, c ≠ o.ctx → t.ctx c = s.ctx c) ∧
  (∀ g, g ≠ o.group → Map.find t.groups g = Map.find s.groups g) ∧
  ∃ seeds, t.grp o.group = { (s.grp o.group).finishOp o.opId with deferred := (s.grp o.group).deferred ++ causes.map (fun c => ⟨c, o.opNo⟩), lfsr := seeds }

/-- The elements of tiles that an operation gives: f z e is the new word of element e of tile z, or none where it stays. -/
def GivesTiles (s t : State) (o : TileOp) (f : Nat → Nat → Option Nat) : Prop :=
  (∀ z e v, f z e = some v → t.tileAt o z e = v % 2 ^ 32) ∧
  ∀ j, (∀ z e, f z e ≠ none → j ≠ tileKey o.core o.slot o.wide z e) → Map.get 0#32 t.tiles j = Map.get 0#32 s.tiles j

/-- No element and no scratch byte carries an error bit, and the rows of an operation lie in the device's memory without uncorrectable lines. -/
def CleanOp (s : State) (o : TileOp) : Prop :=
  s.tileErr = [] ∧ s.scrErr = [] ∧ (s.grp o.group).ctx = o.ctx ∧ (∀ p ∈ o.rows, s.served o.ctx p = true) ∧
  ∀ p ∈ o.rows, ∃ pa page typ gen, p.place = .phys pa page typ gen ∧ s.lineBad (homeOf o.ctx page gen pa s.moves) = false

/-- The home of a place, some bytes further on. -/
def State.homeAt (s : State) (c : Nat) (n : Nat) (p : Part) : Nat :=
  match p.place with
  | .phys pa page _ gen => homeOf c page gen (pa + n) s.moves
  | _ => 0

/-- A deterministic rounding of an exact value under an operation's mode and flushing (R118, R120). -/
def TileOp.round (o : TileOp) (t : Ty) (v : Val) : Nat := (roundVal t (modeOf o.args.rm o.fmt) (fmtFZ o.fmt) 0#32 v).bits

/-! ## Launches (R24 to R27, R172 to R175, R360, R364) -/

/-- A descriptor breaks a limit of R172 or R173. -/
def KDesc.outOfLimits (k : KDesc) : Prop :=
  let entry (o : Nat) : Prop := k.ssize ≤ o ∨ o % 4 ≠ 0
  k.reservedZero = false ∨ k.g = 0 ∨ k.spanCode = 3 ∨ (k.wide = false ∧ 96 < k.g) ∨ (k.wide = true ∧ (192 < k.g ∨ k.g % 2 = 1)) ∨ k.smax < k.smin ∨
  k.vmax < k.vmin ∨ k.smin = 0 ∨ k.vmin = 0 ∨ 16 < k.smax ∨ 32 < k.vmax ∨ (k.wide = false ∧ 256 < k.scr) ∨ (k.wide = true ∧ 512 < k.scr) ∨ 16 < k.rgn ∨
  entry k.entry ∨ (k.trapv ≠ 0xFFFFFFFF ∧ entry k.trapv) ∨ (k.vh = true ∧ entry k.vhand) ∨ (k.iv = true ∧ entry k.ivent) ∨
  (k.fmtv = true ∧ fmtValid k.fmtw = false) ∨ k.priv % 16 ≠ 0

/-- No slot, or no frame, holds the minima of a descriptor (R173). -/
def KDesc.fitsNoSlot (k : KDesc) : Prop :=
  let h := if k.wide then k.g / 2 else k.g
  512 * 1024 < h * k.vmin * 8 * 128 ∨ 32768 < h * k.smin * 64 ∨ 76 < k.smin + 2 * k.vmin

/-- A table of n unit indices at an address names each index below n exactly once (R29). -/
def State.OrderTable (s : State) (c va n : Nat) : Prop := ∀ i, i < n → ∃ j, j < n ∧ s.vRead c (va + 4 * j) 4 = i

/-- In t the launch l, which was x, has ended with a status word (R360, R363, R33): the word and the signal are written, the launch counter is one
more, its packet is complete or its handle has a status, its graph counts it; no other launch, context or group has changed. -/
def LaunchEnded (s t : State) (l : Nat) (x : Launch) (word hstat : Nat) : Prop :=
  let count (u : State) (va : Nat) (n : Nat) : State := u.vWrite x.ctx va 8 ((u.vRead x.ctx va 8 + n) % 2 ^ 64)
  let w := s.vWrite x.ctx x.lr.status 8 word
  let c := s.ctx x.ctx
  let d := t.ctx x.ctx
  Map.find t.launches l = some { x with phase := .finished } ∧ (∀ m, m ≠ l → Map.find t.launches m = Map.find s.launches m) ∧
  t = { s with mem := t.mem, peerMem := t.peerMem, errLines := t.errLines, errFrames := t.errFrames, ctxs := t.ctxs, groups := t.groups, launches := t.launches } ∧
  (∀ n, n ≠ x.ctx → t.ctx n = s.ctx n) ∧
  d = { c with queues := d.queues, graphs := d.graphs, phaseEnds := d.phaseEnds, jobEnds := d.jobEnds } ∧
  (∀ q i, x.queue = some (q, i) →
    (Map.get {} d.queues q).taken = (Map.get {} c.queues q).taken.map (fun p => if p.index = i then { p with done := true } else p)) ∧
  (∀ g n y h, x.parent = some (g, n) → Map.find s.groups g = some y → Map.find y.handles n = some h →
    Map.find t.groups g = some { y with handles := y.handles.put n { h with status := hstat } }) ∧
  (∀ g, (∀ n, x.parent ≠ some (g, n)) → Map.find t.groups g = Map.find s.groups g) ∧
  (x.lr.graph = 0xFFFF → d.graphs = c.graphs ∧
    let u := count (if x.lr.sig = 0 then w else count w x.lr.sig x.lr.sigv) c.cntbase.toNat 1
    t.mem = u.mem ∧ t.peerMem = u.peerMem) ∧
  ∀ gr, x.lr.graph ≠ 0xFFFF → Map.find c.graphs x.lr.graph = some gr → gr.open_ = true →
    Map.find d.graphs x.lr.graph = some { gr with ended := gr.ended + 1, open_ := decide (gr.ended + 1 < gr.nl) }

/-- In t the launch l, which was x, is placed (R18, R22, R25, R26, R456): it runs; block bid stands at its bid-th span with a scratch base on each
core; each of its groups is resident in its slot, as a group starts, with a locket frame of its own; tiles of a slot that held no block read 0.
No byte of memory, other launch or older group has changed. -/
def LaunchPlaced (s t : State) (l : Nat) (x : Launch) : Prop :=
  let k := x.kd
  let span := 2 ^ k.spanCode
  Map.find t.launches l = some { x with phase := .running, target := (s.ctx x.ctx).targetFor x.lr.kdesc } ∧
  (∀ m, m ≠ l → Map.find t.launches m = Map.find s.launches m) ∧
  t = { s with launches := t.launches, groups := t.groups, blocks := t.blocks, ctxs := t.ctxs, clock := t.clock, freeCtr := t.freeCtr
               tiles := t.tiles, tileErr := t.tileErr, scratch := t.scratch, scrErr := t.scrErr, scrOwner := t.scrOwner } ∧
  (∀ g, g ≤ s.clock → Map.find t.groups g = Map.find s.groups g) ∧
  (∀ c, c ≠ x.ctx → t.ctx c = s.ctx c) ∧ t.ctx x.ctx = { s.ctx x.ctx with targets := (t.ctx x.ctx).targets } ∧
  ∀ bid core0 sl, x.places[bid]? = some (core0, sl) → ∃ b bases,
    Map.find t.blocks b = some { launch := l, ctx := x.ctx, bid := bid, core0 := core0, span := span, slot := sl, wide := k.wide, bases := bases } ∧
    bases.length = span ∧ (∀ a ∈ bases, a + k.scr * 1024 ≤ if k.wide then 524288 else 262144) ∧
    ((∀ kv ∈ s.blocks, ∀ a ∈ kv.2.bases, a % 1024 = 0) → ∀ a ∈ bases, a % 1024 = 0) ∧
    (∀ i, i < span → s.blocksOn x.ctx (core0 + i) = [] → ∀ h e, h < 2 → k.wide = true ∨ h = sl →
      Map.get 0#32 t.tiles (65536 * (2 * (core0 + i) + h) + e % 65536) = 0#32) ∧
    (∀ i a, bases[i]? = some a → (∀ g, s.clock < g → Map.find s.groups g = none) → ∀ kv ∈ s.blocksOn x.ctx (core0 + i), kv.2.wide = true ∨ kv.2.slot = sl →
      let a' := kv.2.bases.getD (core0 + i - kv.2.core0) 0
      a + k.scr * 1024 ≤ a' ∨ a' + (s.lau kv.2.launch).kd.scr * 1024 ≤ a) ∧
    ∀ gid, gid < k.g * span → ∃ (g : Nat) (y : Group), s.clock < g ∧ Map.find t.groups g = some y ∧ y.locket < (s.ctx x.ctx).lkcount.toNat ∧
      (∀ h z, (h, z) ∈ t.groups → z.ctx = x.ctx → z.residence ≠ .ended → z.locket = y.locket → h = g) ∧
      y = { ctx := x.ctx, launch := l, block := b, gid := gid, core := core0 + gid / k.g, slot := if k.wide then gid % 2 else sl, sidx := y.sidx
            salloc := k.smin, valloc := k.vmin, sreg := [], vreg := [], m0 := 0xFFFFFFFF#32, masks := [], wins := [], ops := [], trap := none
            pc := BitVec.ofNat 64 (if k.iv then k.ivent else k.entry), fmt := if k.fmtv then BitVec.ofNat 32 k.fmtw else 0x08840000#32
            stklim := k.priv, sigdim := Nat.max 1 (k.sigs % 256), sigdepth := Nat.max 1 (k.sigs / 256 % 256), interval := k.iv, locket := y.locket
            lfsr := (List.range 32).map (fun i => lfsrInit x.lr.seed bid gid i) }

/-! ## The belfry's registers (R340, R372, R378, R386, R400, R417, R420, R431) -/

/-- A plain register of a context: its address, whether it is written only in FREE, READY and VACATED, the values it takes, and what a write changes. -/
structure PlainReg where
  addr : Nat
  off : Bool
  ok : Nat → Bool
  put : Ctx → W64 → Ctx

/-- A size of a ring of 64 to 65,536 records, or 0 (R400, R431). -/
def ringOk (n : Nat) : Bool := n == 0 || (List.range 11).any (fun i => n == 2 ^ (6 + i))

/-- The plain registers of context c. -/
def plainRegs (c : Nat) : List PlainReg :=
  let any (_ : Nat) : Bool := true
  let al (k n : Nat) : Bool := n % k == 0
  [⟨0x400018 + 0x1000 * c, true, any, fun x v => { x with ptroot := v &&& 0xFFFFFFFFFFFFF000#64 }⟩,
   ⟨0x400030 + 0x1000 * c, true, al 65536, fun x v => { x with lkbase := v }⟩, ⟨0x400038 + 0x1000 * c, true, any, fun x v => { x with lkcount := v }⟩,
   ⟨0x400040 + 0x1000 * c, true, al 65536, fun x v => { x with vibase := v }⟩,
   ⟨0x420010 + 0x100 * c, false, any, fun x v => { x with prio := v &&& 3#64 }⟩, ⟨0x420018 + 0x100 * c, false, fun n => decide (n ≤ 10000), fun x v => { x with minrun := v }⟩,
   ⟨0x420020 + 0x100 * c, true, al 4096, fun x v => { x with qtbase := v }⟩, ⟨0x420028 + 0x100 * c, true, fun n => decide (n ≤ 64), fun x v => { x with qcount := v }⟩,
   ⟨0x420030 + 0x100 * c, true, al 65536, fun x v => { x with cntbase := v }⟩, ⟨0x420038 + 0x100 * c, false, fun n => decide (n ≤ 256), fun x v => { x with poolmax := v }⟩,
   ⟨0x430000 + 0x100 * c, false, al 65536, fun x v => { x with sdaddr := v }⟩,
   ⟨0x430008 + 0x100 * c, false, fun n => decide (1 ≤ n ∧ n ≤ 2 ^ 32), fun x v => { x with sdlen := v }⟩,
   ⟨0x430020 + 0x100 * c, false, al 4096, fun x v => { x with htbase := v }⟩,
   ⟨0x430028 + 0x100 * c, false, fun n => n == 0 || (List.range 13).any (fun i => n == 2 ^ (8 + i)), fun x v => { x with htsize := v }⟩,
   ⟨0x430038 + 0x100 * c, false, any, fun x v => { x with htmin := v &&& 0xFF#64 }⟩, ⟨0x430040 + 0x100 * c, false, any, fun x v => { x with migpol := v &&& 0x1FFFF#64 }⟩,
   ⟨0x450000 + 0x100 * c, false, al 4096, fun x v => { x with fq := { x.fq with base := v } }⟩, ⟨0x450008 + 0x100 * c, false, ringOk, fun x v => { x with fq := { x.fq with size := v } }⟩,
   ⟨0x450020 + 0x100 * c, false, al 4096, fun x v => { x with eq := { x.eq with base := v } }⟩, ⟨0x450028 + 0x100 * c, false, ringOk, fun x v => { x with eq := { x.eq with size := v } }⟩,
   ⟨0x450048 + 0x100 * c, false, any, fun x v => { x with ivec := v &&& 0x80000000000007FF#64 }⟩,
   ⟨0x460000 + 0x100 * c, false, al 4096, fun x v => { x with commbase := v }⟩,
   ⟨0x470000 + 0x200 * c, false, any, fun x v => { x with dbgctl := v &&& 3#64 }⟩,
   ⟨0x470008 + 0x200 * c, false, al 4096, fun x v => { x with dq := { x.dq with base := v } }⟩, ⟨0x470010 + 0x200 * c, false, ringOk, fun x v => { x with dq := { x.dq with size := v } }⟩,
   ⟨0x470028 + 0x200 * c, false, al 4096, fun x v => { x with sq := { x.sq with base := v } }⟩, ⟨0x470030 + 0x200 * c, false, ringOk, fun x v => { x with sq := { x.sq with size := v } }⟩]

/-- A property holds of every register of context c whose write is a step of its own: the address, the values, and the step. -/
def stepRegs (c : Nat) (v : W64) (p : Nat → (Nat → Bool) → Instr → Prop) : Prop :=
  let any (_ : Nat) : Bool := true
  let code (k n : Nat) : Bool := n % 16 == k
  p (0x400000 + 0x1000 * c) any (.ctxctlWrite c v) ∧ p (0x400010 + 0x1000 * c) (code 1) (.vacate c) ∧ p (0x400010 + 0x1000 * c) (code 2) (.resume c) ∧
  p (0x400010 + 0x1000 * c) (code 3) (.disable c) ∧ p (0x400020 + 0x1000 * c) any (.vbreqWrite c v) ∧ p (0x400050 + 0x1000 * c) any (.evtClear c v) ∧
  p (0x420000 + 0x100 * c) any (.quotaWrite c v) ∧ p (0x430010 + 0x100 * c) (fun n => n % 2 == 1) (.shootdown c) ∧ p (0x450040 + 0x100 * c) any (.pfdone c v) ∧
  p (0x470048 + 0x200 * c) any (.speriodWrite c v) ∧ p (0x470050 + 0x200 * c) (code 1) (.debugStop c v) ∧ p (0x470050 + 0x200 * c) (code 2) (.debugResume c v) ∧
  p (0x470050 + 0x200 * c) (code 3) (.debugStep c v) ∧ p 0x461028 any (.pctlWrite v) ∧
  (∀ n, n < 45 → p (0x400100 + 0x1000 * c + 8 * n) any (.floorWrite c n v)) ∧ (∀ n, n < 12 → p (0x400280 + 0x1000 * c + 8 * n) any (.floorWrite c (45 + n) v)) ∧
  (∀ n, n < 23 → p (0x400300 + 0x1000 * c + 8 * n) any (.partWrite c n v)) ∧ (∀ n, n < 16 → p (0x470080 + 0x200 * c + 8 * n) any (.watchpointWrite c n v)) ∧
  (∀ n, n < 24 → p (0x470100 + 0x200 * c + 8 * n) any (.targetWrite c (n / 6) (n % 6) v))

/-- Contexts are listed once each, by rising number. -/
def State.ctxsApart (s : State) : Prop := Map.sortedFrom 0 s.ctxs = true

/-- What context c repays lender l of a withheld refill (R370): lenders ascending, each what is owed, while it lasts. -/
def Ctx.repays (x : Ctx) (r l : Nat) : Nat := Nat.min (Map.get 0 x.debt l) (r - ((List.range l).map (fun k => Map.get 0 x.debt k)).sum)

/-! ## Host queues (R355 to R366) -/

/-- Queue q of the enabled context c is x, the one queue of the device; it is in service, waits for no page, and has packets in hand as given. -/
def OneQueue (s : State) (c q : Nat) (x : Queue) (taken : List Packet) : Prop :=
  s.ctxsApart ∧ s.allQueues = [(c, q, x)] ∧ (s.ctx c).en = true ∧ x.inert = false ∧ x.pfPage = none ∧ x.taken = taken

/-- p is the entry of queue x at HEAD (R355): the 128 bytes at RING + 128 * (HEAD mod SIZE), of the kind of its first byte. -/
def EntryAt (s : State) (c q : Nat) (x : Queue) (p : Packet) : Prop :=
  let d := (s.ctx c).qtbase.toNat + 256 * q
  p = { index := x.head, kind := s.vRead c (s.vRead c d 8 + 128 * (x.head % s.vRead c (d + 8) 4)) 1, data := p.data } ∧ p.data.length = 128 ∧
  ∀ i, i < 128 → (p.data.getD i 0#8).toNat = s.vRead c (s.vRead c d 8 + 128 * (x.head % s.vRead c (d + 8) 4) + i) 1

/-- The memory with HEAD of the queue advanced in its descriptor (R356). -/
def State.headWritten (s : State) (c q : Nat) (x : Queue) : State := s.vWrite c ((s.ctx c).qtbase.toNat + 256 * q + 0x10) 8 ((x.head + 1) % 2 ^ 64)

/-- In t queue q of context c has passed the entry of x at HEAD and has packets in hand as given; no other context has changed. -/
def PassedEntry (s t : State) (c q : Nat) (x : Queue) (taken : List Packet) : Prop :=
  let z := Map.get {} (t.ctx c).queues q
  z.head = (x.head + 1) % 2 ^ 64 ∧ z.tail = x.tail ∧ z.inert = false ∧ z.taken = taken ∧ ∀ d, d ≠ c → t.ctx d = s.ctx d

/-- A record of the event or fault queue is the last that was posted (R400 to R402). -/
def LastRecord (s t : State) (kind code c lid gid a0 a1 : Nat) : Prop := t.bervosLog.getLast? = some (record32 kind code c lid gid s.gtime a0 a1)

/-- A launch lies in a level that a cancel names (R33, R361): 1 a launch, 2 a graph, 3 a phase, 4 a job. -/
def inLevel (s : State) (c level id : Nat) (x : Launch) : Prop :=
  let open_ (g : Nat) (gr : Graph) : Prop := Map.find (s.ctx c).graphs g = some gr ∧ gr.open_ = true
  match level with
  | 1 => x.lid = id
  | 2 => x.lr.graph = id ∧ ∃ gr, open_ id gr
  | 3 => ∃ gr, open_ x.lr.graph gr ∧ gr.phase = id
  | _ => ∃ gr, open_ x.lr.graph gr ∧ gr.job = id

/-! ## Moves of pages (R380 to R392) -/

/-- k is the command at MQHEAD (R386): its fields, and whether it is malformed in itself. -/
def CommandAt (s : State) (k : MCmd) : Prop :=
  let a := s.mqbase.toNat + 64 * (s.mqhead % s.mqsize.toNat)
  s.mqsize ≠ 0#64 ∧ s.mqhead < s.mqtail.toNat ∧ k.index = s.mqhead ∧ k.at_ = a ∧ k.op = s.readLE a 1 ∧ k.ctx = s.readLE (a + 1) 1 ∧ k.stack = s.readLE (a + 4) 4 ∧
  k.va = s.readLE (a + 8) 8 ∧ k.arg = s.readLE (a + 0x10) 8 ∧ k.narg = s.readLE (a + 0x18) 8 ∧
  (k.bad = true ↔ s.readLE (a + 2) 2 ≠ 0 ∨ s.readLE (a + 0x30) 16 ≠ 0 ∨ k.op = 0 ∨ 4 < k.op ∨ (k.op ≠ 3 ∧ 15 < k.ctx) ∨ (k.op = 3 ∧ 11 < k.stack))

/-- The command at MQHEAD is taken, and its STATUS written (R386). -/
def State.commandEnds (s : State) (k : MCmd) (status : Nat) : State :=
  ({ s with mqhead := s.mqhead + 1 }).writeMem (k.at_ + 0x20) (leBytes 8 status)

/-- No move of a page may start (R386): PIN, a type that does not migrate, NOMIG, or a record that copies names the page. -/
def State.staysPut (s : State) (c va : Nat) (l : Leaf) : Prop :=
  l.bits.getLsbD 55 = true ∨ 2 < l.bits.toNat / 2 ^ 59 % 8 ∨ (s.ctx c).nomig = true ∨
  ∃ kv ∈ s.moves, kv.2.ctx = c ∧ kv.2.phase ≠ .forwarding ∧ ∃ p ∈ kv.2.pgs, p.va ≤ va ∧ va < p.va + 128 * kv.2.lines

/-- The starts of a page that stand in the window which ends now (R389). -/
def State.startsOf (s : State) (c va : Nat) : List Nat := ((s.ctx c).hist va).starts.filter (fun t => decide (s.gtime < t + 4000000))

/-- The bound lets a page start (R389). -/
def State.mayStart (s : State) (c va : Nat) : Prop := ((s.ctx c).hist va).pinEnd ≤ s.gtime ∧ (s.startsOf c va).length < 2

/-- w is the leaf l for a new frame (R384, R379, R385): its frame and tier, the permissions and PIN of l, and the next GEN, which is never 0 nor
the one to skip. -/
def NewLeaf (s : State) (l : W64) (dst skip : Nat) (w : W64) : Prop :=
  let gen (n : Nat) : Nat := n % 65535 + 1
  let g := l.toNat % 65536
  w.toNat / 2 ^ 62 = 3 ∧ w.toNat / 2 ^ 59 % 8 = s.typOf dst % 8 ∧ (∀ i, 52 ≤ i → i < 59 → w.getLsbD i = l.getLsbD i) ∧
  w.toNat % 2 ^ 52 / 65536 = dst % 2 ^ 52 / 65536 ∧ w.toNat % 65536 = if gen g = skip then gen (gen g) else gen g

/-- The record m moves a page, whose leaf was l, to a frame (R381). -/
def MovesPage (s : State) (p : MovePage) (va : Nat) (l : Leaf) (dst skip : Nat) : Prop :=
  p.va = va ∧ p.src = l.bits.toNat / 65536 % 2 ^ 36 * 65536 ∧ p.dst = dst ∧ p.leaf = l.bits ∧ p.leafAt = l.at_ ∧ NewLeaf s l.bits dst skip p.newLeaf

/-- A record that has just been started (R381): no line copied, none locked. -/
def FreshMove (m : Move) (c lines : Nat) (cmd : Option Nat) (evac : Bool) : Prop :=
  m.ctx = c ∧ m.lines = lines ∧ m.done = 0 ∧ m.locked = false ∧ m.phase = .copying ∧ m.cmd = cmd ∧ m.evac = evac ∧ m.abort = none ∧ m.abortCmds = []

/-- In t the record number r is m, and no other record has changed. -/
def RecordIs (s t : State) (r : Nat) (m : Option Move) : Prop := Map.find t.moves r = m ∧ ∀ j, j ≠ r → Map.find t.moves j = Map.find s.moves j

/-- No access in flight names a line of the old frames of a record under an old generation (R384, R385). -/
def NoneToOldFrame (s : State) (mv : Move) : Prop :=
  let old (p : Part) : Prop := p.done = false ∧ ∃ pa page typ gen, p.place = .phys pa page typ gen ∧
    ∃ q ∈ mv.pgs, q.va ≤ page ∧ page < q.va + 128 * mv.lines ∧ q.src ≤ pa ∧ pa < q.src + 128 * mv.lines ∧ q.newLeaf.toNat % 65536 ≠ gen
  (∀ kv ∈ s.groups, kv.2.ctx = mv.ctx → ∀ q ∈ kv.2.pend, ∀ p ∈ q.parts, ¬ old p) ∧ (∀ kv ∈ s.tileOps, kv.2.ctx = mv.ctx → ∀ p ∈ kv.2.rows, ¬ old p)

/-! ## Steps and invariants (R14, R191, R150, R367, R339) -/

/-- The word at the `pc` of a group (R191, R142): its four bytes in the launch's copy of the code, none in a line recorded as uncorrectable. -/
def State.WordAtPc (s : State) (x : Group) (w : Nat) : Prop :=
  x.pc.toNat % 4 = 0 ∧ x.pc.toNat < (s.kd x).ssize ∧ s.vBad x.ctx ((s.kd x).sbase + x.pc.toNat) 4 = false ∧ ∀ j, j < 4 → s.codeByte x ((s.kd x).sbase + x.pc.toNat + j) = (leBytes 4 w)[j]?

/-- The instruction number p from the lane base (R150): its twelve bytes, none in a line recorded as uncorrectable. -/
def State.LaneWordAt (s : State) (x : Group) (p w : Nat) : Prop :=
  12 * p + 12 ≤ (s.kd x).lsize ∧ s.vBad x.ctx ((s.kd x).lbase + 12 * p) 12 = false ∧ ∀ j, j < 12 → s.codeByte x ((s.kd x).lbase + 12 * p + j) = (leBytes 12 w)[j]?

/-- A turn from s to t cancels a launch whose dispenser has served a request in this tick: it cannot fall in this tick (R34). -/
def State.cancelsServed (s t : State) : Prop := ∃ l key, Mark.served l key ∈ s.marks ∧ s.cancelled l = false ∧ t.cancelled l = true

/-- What an instruction has come to, t from s, cannot come in this tick: the group x traps at the test of R134, and an operation that comes
after it in the order of that rule has been charged in this tick. -/
def State.outOfOrder (s t : State) (g : Nat) (x : Group) (lane : Bool) : Prop :=
  x.boundTrap (t.grp g) = true ∧ s.chargedAfter x.ctx (x.issueKey lane) = true

/-- The state with a note of the order of R134, where the group x has charged its context between s and t. -/
def State.noted (s t : State) (x : Group) (lane : Bool) : State :=
  { t with marks := if (s.ctx x.ctx).ledger.length < (t.ctx x.ctx).ledger.length then .charged x.ctx (x.issueKey lane) :: t.marks else t.marks }

/-- Group x goes before group y in the choice of a quadrant (R367): the slot preferred in this tick, a live trap record, the least recent issue, the
slot index. -/
def State.goesBefore (s : State) (x y : Group) : Prop :=
  let odd (z : Group) : Prop := z.slot ≠ s.atick % 2
  (¬ odd x ∧ odd y) ∨ ((odd x ↔ odd y) ∧ ((x.trap ≠ none ∧ y.trap = none) ∨ ((x.trap ≠ none ↔ y.trap ≠ none) ∧
    (x.lastIssue < y.lastIssue ∨ (x.lastIssue = y.lastIssue ∧ x.sidx < y.sidx)))))

/-- A lane instruction of x has left the head of its queue, or a cause has been raised: y differs in one of these. -/
def Group.laneMoved (x y : Group) : Prop :=
  y.queue.length ≠ x.queue.length ∨ y.head.pos ≠ x.head.pos ∨ y.head.redo ≠ x.head.redo ∨ y.trap ≠ x.trap ∨ y.residence ≠ x.residence ∨ y.pfWait ≠ x.pfWait ∨
  y.replay ≠ x.replay

/-- Memory is in its canonical form, and the tables of the device list each key once, keys rising. -/
def State.TablesWf (s : State) : Prop :=
  s.MemWf ∧ Map.sortedFrom 0 s.groups = true ∧ Map.sortedFrom 0 s.ctxs = true ∧ Map.sortedFrom 0 s.launches = true ∧ Map.sortedFrom 0 s.hot = true ∧
  ∀ kv ∈ s.ctxs, Map.sortedFrom 0 kv.2.queues = true

/-- No slot belongs to two contexts (R339, R342). -/
def State.SlotsApart (s : State) : Prop :=
  Map.sortedFrom 0 s.ctxs = true ∧ ∀ c d i, c ≠ d → (s.ctx c).part.getLsbD i = true → (s.ctx d).part.getLsbD i = false

end Sys2Proof.Machine
end

