-- ==== Sys2Proof/Certificates/Slice0/Obligations.lean ====
section
/-!
DEFINITION. The statements about the Stalos K9. Every one speaks of the machine, of every state and operand that meets its hypotheses;
its docstring names the rules of the spec that it formalises.
-/
open Sys2Proof Sys2Proof.Machine

/-- The register instructions of the scalar thread write the value the spec gives and change nothing else (R176, R179, R180, R143, R181, R182, R183, R184, R148, R211). -/
def Obligations.ScalarResults : Prop :=
  (
    ∀ p ∈ alu3Table, ∀ (d a b : Nat) (s : State) (x : Group), ScalarReady s x [a, b] [d] [] →
      GivesReg s x d (p.2 (x.sr a) (x.sr b)) (exec (p.1 d a b) s)) ∧
  (
    (∀ q ∈ alu2Table.zip alu3Table, ∀ (d a : Nat) (s : State) (x : Group), ScalarReady s x [d, a] [d] [] →
      GivesReg s x d (q.2.2 (x.sr d) (x.sr a)) (exec (q.1.1 d a) s)) ∧
    (∀ q ∈ alu2Table, ∀ (d a : Nat) (s : State) (x : Group), ScalarReady s x [d, a] [d] [] → exec (q.1 d a) s = exec (q.2 d d a) s) ∧
    alu2Table.length = alu3Table.length) ∧
  (
    (∀ p ∈ alu1Table, ∀ (d a : Nat) (s : State) (x : Group), ScalarReady s x [a] [d] [] → GivesReg s x d (p.2 (x.sr a)) (exec (p.1 d a) s)) ∧
    (∀ p ∈ cmpTable, ∀ (d a b : Nat) (s : State) (x : Group), ScalarReady s x [a, b] [d] [] →
      GivesReg s x d (if p.2 (x.sr a) (x.sr b) then 1#64 else 0#64) (exec (p.1 d a b) s)) ∧
    (∀ (d a b : Nat) (s : State) (x : Group), ScalarReady s x [d, a, b] [d] [] →
      GivesReg s x d (if x.sr d = 0#64 then x.sr b else x.sr a) (exec (.sel d a b) s)) ∧
    (∀ (k d a b : Nat) (s : State) (x : Group), k < 4 → ScalarReady s x [a, b] [d] [] →
      GivesReg s x d (x.sr a + x.sr b * BitVec.ofNat 64 (2 ^ k)) (exec (.lea k d a b) s)) ∧
    (∀ (d im : Nat) (s : State) (x : Group), im < 65536 → ScalarReady s x [] [d] [] → GivesReg s x d (sImm im) (exec (.li d im) s)) ∧
    (∀ p ∈ immTable, ∀ (d im : Nat) (s : State) (x : Group), im < 65536 → ScalarReady s x [d] [d] [] →
      GivesReg s x d (p.2 im (x.sr d)) (exec (p.1 d im) s)) ∧
    (∀ (s : State) (x : Group), ScalarReady s x [] [] [] → GivesGroup s { x with pc := x.pc + 4#64 } (exec .nop s)))

/-- Division by zero and the overflowing division give the results of R180, and no division traps (R180). -/
def Obligations.DivisionNeverTraps : Prop :=
  ∀ (d a b : Nat) (s : State) (x : Group),
    (ScalarReady s x [a, b] [d] [] →
      (∀ i ∈ [Instr.div d a b, .divn d a b, .rem d a b, .remn d a b], ∃ v, GivesReg s x d v (exec i s)) ∧
      (x.sr b = 0#64 →
        (∀ i ∈ [Instr.div d a b, .divn d a b], GivesReg s x d 0xFFFFFFFFFFFFFFFF#64 (exec i s)) ∧
        (∀ i ∈ [Instr.rem d a b, .remn d a b], GivesReg s x d (x.sr a) (exec i s))) ∧
      (x.sr a = 0x8000000000000000#64 → x.sr b = 0xFFFFFFFFFFFFFFFF#64 →
        GivesReg s x d 0x8000000000000000#64 (exec (.div d a b) s) ∧ GivesReg s x d 0#64 (exec (.rem d a b) s))) ∧
    (ScalarReady s x [d, a] [d] [] →
      (∀ i ∈ [Instr.div2A d a, .divn2A d a, .rem2A d a, .remn2A d a], ∃ v, GivesReg s x d v (exec i s)) ∧
      (x.sr a = 0#64 →
        (∀ i ∈ [Instr.div2A d a, .divn2A d a], GivesReg s x d 0xFFFFFFFFFFFFFFFF#64 (exec i s)) ∧
        (∀ i ∈ [Instr.rem2A d a, .remn2A d a], GivesReg s x d (x.sr d) (exec i s))) ∧
      (x.sr d = 0x8000000000000000#64 → x.sr a = 0xFFFFFFFFFFFFFFFF#64 →
        GivesReg s x d 0x8000000000000000#64 (exec (.div2A d a) s) ∧ GivesReg s x d 0#64 (exec (.rem2A d a) s)))

/-- Branches go where the spec says, and register instructions check ranges, wait, and raise marked data in order (R191, R144, R148, R147, R177, R143, R16, R176, R406, R395). -/
def Obligations.RegisterAndBranchInstructions : Prop :=
  (
    (∀ (o : Nat) (s : State) (x : Group), o < 2 ^ 26 →
      (ScalarReady s x [] [] [] → GivesGroup s { x with pc := jumpTo x o } (exec (.jmp o) s)) ∧
      (ScalarReady s x [] [1] [] → GivesRegAt s x 1 (x.pc + 4#64) (jumpTo x o) (exec (.call o) s))) ∧
    (∀ (s : State) (x : Group), ScalarReady s x [1] [] [] → GivesGroup s { x with pc := x.sr 1 } (exec .ret s)) ∧
    (∀ (a : Nat) (s : State) (x : Group), ScalarReady s x [a] [] [] → GivesGroup s { x with pc := x.sr a } (exec (.jr a) s)) ∧
    (∀ p ∈ branchTable, ∀ (a o : Nat) (s : State) (x : Group), o < 2 ^ 16 → ScalarReady s x [a] [] [] →
      GivesGroup s { x with pc := if p.2 (x.sr a).toInt then branchTo x o else x.pc + 4#64 } (exec (p.1 a o) s))) ∧
  (
    ∀ (d a b im : Nat), ∀ q ∈ registerForms d a b im, ∀ (s : State) (x : Group), Map.find s.groups s.cur = some x →
      (x.sOk (q.2.1 ++ q.2.2) = false → exec q.1 s = .next (s.trapGroup s.cur cRange)) ∧
      (x.sOk (q.2.1 ++ q.2.2) = true → s.scoreWaits x q.2.1 q.2.2 [] = true → exec q.1 s = .next s) ∧
      (x.sOk (q.2.1 ++ q.2.2) = true → s.scoreWaits x q.2.1 q.2.2 [] = false → (∃ r ∈ q.2.1, r ∈ x.serr) →
        exec q.1 s = .next ((s.postGrp s.cur .fault 4 cData 0 6).trapGroup s.cur cData)))

/-- fsplit divides the path, fent files the entries and takes the lowest path, fnext gives way, as the frontier rules say (R47, R45, R43, R53, R144, R48, R50, R58, R49). -/
def Obligations.FrontierInstructions : Prop :=
  (
    ∀ (k o : Nat) (s : State) (x : Group), o < 2 ^ 16 → ScalarReady s x [] [] [k] →
      let taken := x.m0 &&& x.mask k
      let fall := x.m0 &&& ~~~(x.mask k)
      let next := x.pc + 4#64
      let target := branchTo x o
      let back := decide ((x.pc.toNat : Int) + 4 * (BitVec.ofNat 16 o).toInt < (next.toNat : Int))
      let far := if back then next.toNat / 4 else target.toNat / 4
      (taken = 0#32 ∨ target = next → GivesGroup s { x with pc := next } (exec (.fsplit k o) s)) ∧
      (taken ≠ 0#32 → target ≠ next → fall = 0#32 → GivesGroup s { x with pc := target } (exec (.fsplit k o) s)) ∧
      (taken ≠ 0#32 → target ≠ next → fall ≠ 0#32 → x.roomFor far = true →
        ∃ (y : Group), GivesGroup s y (exec (.fsplit k o) s) ∧
          y = { x with front := y.front, m0 := if back then taken else fall, pc := if back then target else next } ∧
          ∀ a, y.pathAt a = if a = far then x.pathAt a ||| (if back then fall else taken) else x.pathAt a) ∧
      (taken ≠ 0#32 → target ≠ next → fall ≠ 0#32 → x.roomFor far = false → exec (.fsplit k o) s = .next (s.trapGroup s.cur cFrontier))) ∧
  (
    ∀ (s : State) (x : Group), ScalarReady s x [] [] [] → x.pathsApart → x.pc.toNat % 4 = 0 → x.pc.toNat < 2 ^ 34 →
      let here := x.pc.toNat / 4
      let all := x.m0 ||| x.pathAt here
      ((∀ e ∈ x.front, x.eligible e = true → here ≤ e.addr) →
        ∃ (y : Group), GivesGroup s y (exec .fent s) ∧ y = { x with front := y.front, m0 := all, pc := x.pc + 4#64 } ∧
          ∀ a, y.pathAt a = if a = here then 0#32 else x.pathAt a) ∧
      (∀ (i : Nat) (e : FEntry), x.lowest i e (fun f => decide (f.addr < here)) → (x.roomFor here = true →
        ∃ (y : Group), GivesGroup s y (exec .fent s) ∧ x.movesPath y ∧ y.runs e ∧
          ∀ a, y.pathAt a = if a = here then all else if a = e.addr then 0#32 else x.pathAt a) ∧
        (x.roomFor here = false → exec .fent s = .next (s.trapGroup s.cur cFrontier)))) ∧
  (
    ∀ (s : State) (x : Group), ScalarReady s x [] [] [] → x.pathsApart → x.pc.toNat % 4 = 0 → x.pc.toNat < 2 ^ 34 →
      let there := x.pc.toNat / 4 + 1
      (x.roomFor there = false → exec .fnext s = .next (s.trapGroup s.cur cFrontier)) ∧
      (x.roomFor there = true → (∀ e ∈ x.front, x.eligible e = true → e.addr = there) →
        ∃ (y : Group), GivesGroup s y (exec .fnext s) ∧ x.movesPath y ∧ y.pc = x.pc + 4#64 ∧ y.m0 = x.pathAt there ||| x.m0 ∧
          ∀ a, y.pathAt a = if a = there then 0#32 else x.pathAt a) ∧
      (x.roomFor there = true → ∀ (i : Nat) (e : FEntry), x.lowest i e (fun f => f.addr != there) →
        ∃ (y : Group), GivesGroup s y (exec .fnext s) ∧ x.movesPath y ∧ y.runs e ∧
          ∀ a, y.pathAt a = if a = there then x.pathAt there ||| x.m0 else if a = e.addr then 0#32 else x.pathAt a))

/-- fany counts the active lanes of a mask (R52). -/
def Obligations.FanyCounts : Prop :=
  ∀ (d k : Nat) (s : State) (x : Group),
    (ScalarReady s x [] [d] [k] →
      let n := (List.range 32).countP (fun l => (x.m0 &&& x.mask k).getLsbD l)
      GivesReg s x d (BitVec.ofNat 64 n) (exec (.fany d k) s) ∧ n ≤ 32 ∧ (n = 0 ↔ x.m0 &&& x.mask k = 0#32)) ∧
    (Map.find s.groups s.cur = some x → x.sOk [d] = true → k ≠ 0 → x.queue ≠ [] → (∃ i ∈ s.queued x, k ∈ (laneUse i).masks) →
      exec (.fany d k) s = .next s)

/-- fjoin meets, waits or times out at a join, and end retires a path, lets the next run, or ends the group (R54, R50, R53, R55, R51, R27, R271). -/
def Obligations.PathsJoinAndEnd : Prop :=
  (
    ∀ (k d t : Nat) (s : State) (x : Group), ScalarReady s x [] [d] [k] → x.pc.toNat % 4 = 0 → x.pc.toNat < 2 ^ 34 →
      let a := x.pc.toNat / 4
      let lacks := x.mask k &&& ~~~(x.m0 ||| x.retired)
      ((∀ e ∈ x.front, e.kind = .joinWait → e.addr ≠ a) →
        (t = 0 → GivesReg s x d (if lacks = 0#32 then 1#64 else 0#64) (exec (.fjoin k d t) s)) ∧
        (t ≠ 0 → (∃ e ∈ x.front, e.kind = .free) →
          (lacks = 0#32 → ∃ (y : Group), GivesGroup s y (exec (.fjoin k d t) s) ∧
            y = { x with front := y.front, sreg := y.sreg, serr := y.serr, pc := x.pc + 4#64 } ∧
            (∀ r, y.sr r = if r = d ∧ d ≠ 0 then 1#64 else x.sr r) ∧ ∀ b, y.pathAt b = x.pathAt b) ∧
          (lacks ≠ 0#32 → ∃ (y : Group), GivesGroup s y (exec (.fjoin k d t) s) ∧ x.movesPath y ∧
            (∃ e ∈ y.front, e.kind = .joinWait ∧ e.addr = a ∧ e.mask = x.m0 ∧ e.jset = x.mask k ∧ e.fmt = x.fmt ∧ e.sd = d ∧ e.tleft = 16 * t) ∧
            ((∀ e ∈ x.front, x.eligible e = false) → y.m0 = 0#32 ∧ y.wait = .frontier) ∧
            (∀ (i : Nat) (e : FEntry), x.lowest i e (fun _ => true) → y.runs e))) ∧
        (t ≠ 0 → (∀ e ∈ x.front, e.kind ≠ .free) → exec (.fjoin k d t) s = .next (s.trapGroup s.cur cFrontier))) ∧
      (∀ (i : Nat) (e : FEntry), x.front[i]? = some e → e.kind = .joinWait → e.addr = a →
        (∀ (j : Nat) (f : FEntry), x.front[j]? = some f → f.kind = .joinWait → f.addr = a → j = i) →
        let short := decide (e.jset &&& ~~~(e.mask ||| x.m0 ||| x.retired) ≠ 0#32)
        (short = false ∨ e.lapsed = true →
          ∃ (y : Group), GivesGroup s y (exec (.fjoin k d t) s) ∧
            y = { x with front := y.front, sreg := y.sreg, serr := y.serr, pc := x.pc + 4#64, m0 := e.mask ||| x.m0, fmt := e.fmt } ∧
            (∀ r, y.sr r = if r = e.sd ∧ e.sd ≠ 0 then (if short then 0#64 else 1#64) else x.sr r) ∧ (y.front[i]?).map (fun f => f.kind) = some .free) ∧
        (short = true → e.lapsed = false →
          ∃ (y : Group), GivesGroup s y (exec (.fjoin k d t) s) ∧ x.movesPath y ∧ y.front[i]? = some { e with mask := e.mask ||| x.m0 } ∧
            ((∀ f ∈ x.front, x.eligible f = false) → y.m0 = 0#32 ∧ y.wait = .frontier) ∧
            (∀ (j : Nat) (f : FEntry), x.lowest j f (fun _ => true) → y.runs f)))) ∧
  (
    ∀ (s : State) (x : Group), ScalarReady s x [] [] [] →
      (x.queue ≠ [] → exec .endPath s = .next s) ∧
      (x.queue = [] → x.deferred = [] → x.verr = [] →
        ((∀ e ∈ x.front, e.kind = .free) →
          ∃ (y : Group), GivesGroup s y (exec .endPath s) ∧ y.residence = .ended ∧ y.retired = x.retired ||| x.m0 ∧ y.m0 = 0#32 ∧ (∀ r, y.sr r = 0#64) ∧
            ∀ k l, y.vr k l = 0#32) ∧
        ((∀ e ∈ x.front, e.kind ≠ .joinWait) → ∀ (i : Nat) (e : FEntry), x.lowest i e (fun _ => true) →
          ∃ (y : Group), GivesGroup s y (exec .endPath s) ∧ y.runs e ∧ y = { x with front := y.front, pc := y.pc, m0 := y.m0, fmt := y.fmt, wait := y.wait, retired := x.retired ||| x.m0 } ∧
            (x.pathsApart → ∀ a, y.pathAt a = if a = e.addr then 0#32 else x.pathAt a)) ∧
        (∀ (i : Nat) (e : FEntry), x.trap = none → x.front[i]? = some e → e.kind = .joinWait → e.jset &&& ~~~(e.mask ||| x.retired ||| x.m0) = 0#32 →
          (∀ (j : Nat) (f : FEntry), x.front[j]? = some f → j ≠ i → f.kind = .free) →
          ∃ (y : Group), GivesGroup s y (exec .endPath s) ∧ y.m0 = e.mask ∧ y.fmt = e.fmt ∧ y.pc = BitVec.ofNat 64 (4 * (e.addr + 1)) ∧
            (∀ r, y.sr r = if r = e.sd ∧ e.sd ≠ 0 then 1#64 else x.sr r) ∧ y.retired = x.retired ||| x.m0)))

/-- wset, winv and wlim fill, clear and read a window; prvaddr gives a backing address and ldk a constant (R185, R186, R68, R65, R64, R187, R76, R190, R5). -/
def Obligations.WindowAndConstantInstructions : Prop :=
  (
    ∀ (k : Nat) (s : State) (x : Group),
      (∀ (a : Nat), ScalarReady s x [a] [] [] →
        let v := (x.sr a).toNat
        (2 ^ 57 ≤ v → exec (.wset k a) s = .next (s.trapGroup s.cur cNoncan)) ∧
        (v < 2 ^ 57 → ∃ (t : State) (w : Window), exec (.wset k a) s = .next (t.setGrp s.cur (x.setWin k w).adv) ∧ t = { s with tlb := t.tlb } ∧
          (v / 2 ^ 48 = 0x1FF ∨ v / 2 ^ 48 = 0x1FE → t = s ∧
            w = { vbase := v, frame := v % 2 ^ 48, lim := 0x200000, typ := if v / 2 ^ 48 = 0x1FF then 6 else 7, prd := true, pwr := true, pat := true, v := true }) ∧
          (v / 2 ^ 48 < 0x1FE → (∀ l, s.xlate (.core x.core) x.ctx v ≠ .leaf l) → w = { vbase := v, v := true }) ∧
          (v / 2 ^ 48 < 0x1FE → ∀ l, s.xlate (.core x.core) x.ctx v = .leaf l →
            w = { vbase := v, v := true, frame := leafPa l v, tag := leafGen l.bits, typ := leafType l.bits, prd := leafRd l.bits, pwr := leafWr l.bits,
                  pat := leafAt l.bits, lim := w.lim } ∧ 0 < w.lim ∧ w.lim ≤ 0x200000 - v % 65536 ∧ (v + w.lim) % 65536 = 0))) ∧
      (ScalarReady s x [] [] [] → GivesGroup s (x.setWin k { x.win k with v := false }).adv (exec (.winv k) s)) ∧
      (∀ (d : Nat), ScalarReady s x [] [d] [] →
        ((x.win k).v = false → GivesReg s x d 0#64 (exec (.wlim d k) s)) ∧
        ((x.win k).v = true → (x.win k).st = false → GivesReg s x d (BitVec.ofNat 64 (x.win k).lim) (exec (.wlim d k) s)) ∧
        ((x.win k).v = true → (x.win k).st = true → ∃ w : Window, w.vbase = (x.win k).vbase ∧ w.v = true ∧ w.st = false ∧
          GivesReg s (x.setWin k w) d (BitVec.ofNat 64 w.lim) (exec (.wlim d k) s)))) ∧
  (
    ∀ (d : Nat) (s : State) (x : Group),
      (∀ (a : Nat), ScalarReady s x [a] [d] [] →
        let v := (x.sr a).toNat
        let o := v % 2 ^ 48
        let kd := s.kd x
        (2 ^ 57 ≤ v → exec (.prvaddr d a) s = .next (s.trapGroup s.cur cNoncan)) ∧
        (v < 2 ^ 57 → v / 2 ^ 48 ≠ 0x1FE → GivesReg s x d (x.sr a) (exec (.prvaddr d a) s)) ∧
        (v / 2 ^ 48 = 0x1FE → x.stklim ≤ o → exec (.prvaddr d a) s = .next (s.trapGroup s.cur cStk)) ∧
        (v / 2 ^ 48 = 0x1FE → o < x.stklim →
          GivesReg s x d (BitVec.ofNat 64 ((s.lau x.launch).pb + (((s.blk x.block).bid * (kd.g * 2 ^ kd.spanCode) + x.gid) * kd.priv + (o - o % 4)) * 32 + o % 4))
            (exec (.prvaddr d a) s))) ∧
      (∀ (k : Nat), ScalarReady s x [] [d] [] →
        let kd := s.kd x
        (kd.csize ≤ k → exec (.ldk d k) s = .next (s.trapGroup s.cur cFetch)) ∧
        (k < kd.csize → ∀ (bs : List Byte), s.fetchAt x (kd.cbase + 8 * k) 8 = .bytes bs →
          let now := BitVec.ofNat 64 (leNat bs)
          ((∀ old, (s.lau x.launch).ctab[k]? = some old → old = now) → GivesReg s x d now (exec (.ldk d k) s)) ∧
          (∀ old, (s.lau x.launch).ctab[k]? = some old → old ≠ now →
            ∃ (v : _) (y : Group), (v = old ∨ v = now) ∧ exec (.ldk d k) s = .next ({ s with freeCtr := s.freeCtr + 1 }.setGrp s.cur y) ∧ y = (x.setSr d v).adv))))

/-- sget reads each special register; sset and fmtset write each within its range, field by field, and trap outside it (R198, R157, R131, R448, R117, R119, R75, R199, R146). -/
def Obligations.SpecialRegisters : Prop :=
  (
    ∀ p ∈ specialTable, ∀ (d : Nat) (s : State) (x : Group), ScalarReady s x [] [d] [] →
      (p.1 ≠ 0x011 ∨ x.queue = [] → GivesReg s x d (BitVec.ofNat 64 (p.2 s x)) (exec (.sget d p.1) s)) ∧
      (p.1 = 0x011 → x.queue ≠ [] → exec (.sget d p.1) s = .next s)) ∧
  (
    ∀ (a : Nat) (s : State) (x : Group), ScalarReady s x [a] [] [] →
      let v := (x.sr a).toNat
      (v < 2 ^ 32 → fmtLegal v → GivesGroup s { x with fmt := (x.sr a).setWidth 32, pc := x.pc + 4#64 } (exec (.sset 0x010 a) s)) ∧
      (¬(v < 2 ^ 32 ∧ fmtLegal v) → exec (.sset 0x010 a) s = .next (s.trapGroup s.cur cFmt)) ∧
      (x.queue ≠ [] → exec (.sset 0x011 a) s = .next s) ∧
      (x.queue = [] → GivesGroup s { x with fflags := BitVec.ofNat 32 (v % 32), pc := x.pc + 4#64 } (exec (.sset 0x011 a) s)) ∧
      (v % 16 = 0 → v ≤ (s.kd x).priv → GivesGroup s { x with stklim := v, pc := x.pc + 4#64 } (exec (.sset 0x014 a) s)) ∧
      (¬(v % 16 = 0 ∧ v ≤ (s.kd x).priv) → exec (.sset 0x014 a) s = .next (s.trapGroup s.cur cIllegal)) ∧
      (1 ≤ v → v ≤ 32 → GivesGroup s { x with sigdim := v, pc := x.pc + 4#64 } (exec (.sset 0x018 a) s)) ∧
      (v = 0 ∨ 32 < v → exec (.sset 0x018 a) s = .next (s.trapGroup s.cur cIllegal)) ∧
      (1 ≤ v → v ≤ 8 → GivesGroup s { x with sigdepth := v, pc := x.pc + 4#64 } (exec (.sset 0x019 a) s)) ∧
      (v = 0 ∨ 8 < v → exec (.sset 0x019 a) s = .next (s.trapGroup s.cur cIllegal)) ∧
      (v ≤ 8 → GivesGroup s { x with blimit := v, pc := x.pc + 4#64 } (exec (.sset 0x01B a) s)) ∧
      (8 < v → exec (.sset 0x01B a) s = .next (s.trapGroup s.cur cIllegal)) ∧
      GivesGroup s { x with vmode := BitVec.ofNat 32 (v % 2), pc := x.pc + 4#64 } (exec (.sset 0x043 a) s) ∧
      (∀ r, r ∉ [0x010, 0x011, 0x014, 0x018, 0x019, 0x01B, 0x043] → GivesGroup s { x with pc := x.pc + 4#64 } (exec (.sset r a) s))) ∧
  (
    ∀ (f a : Nat) (s : State) (x : Group), f < 64 → ScalarReady s x [a] [] [] →
      ∀ y : W32, (∀ j, j < 32 → y.getLsbD j = if (∃ p ∈ fmtFields, p.2.1 ≤ j ∧ j ≤ p.2.2 ∧ f.testBit p.1) then (x.sr a).getLsbD j else x.fmt.getLsbD j) →
        (fmtLegal y.toNat → GivesGroup s { x with fmt := y, pc := x.pc + 4#64 } (exec (.fmtset f a) s)) ∧
        (¬ fmtLegal y.toNat → exec (.fmtset f a) s = .next (s.trapGroup s.cur cFmt)))

/-- A scalar cause and a lane cause form the trap record, hold the queue and start the handler, or stop the group (R57, R393, R394, R396, R58, R158). -/
def Obligations.CausesTaken : Prop :=
  (
    ∀ (code arg : Nat) (s : State) (x : Group), Map.find s.groups s.cur = some x →
      (x.trap = none → (s.kd x).trapv ≠ 0xFFFFFFFF → s.trapGroup s.cur code arg = s.setGrp s.cur (x.inHandler code arg (s.kd x).trapv)) ∧
      (x.trap ≠ none ∨ (s.kd x).trapv = 0xFFFFFFFF → Stopped (s.trapGroup s.cur code arg) s.cur x)) ∧
  (
    ∀ (code mk : Nat) (f : W32) (w : Bool) (s : State) (x : Group) (b : LaneBlock) (rest : List LaneBlock),
      Map.find s.groups s.cur = some x → x.queue = b :: rest →
      (x.trap = none → (s.kd x).trapv ≠ 0xFFFFFFFF → s.trapLanes s.cur code f w = s.setGrp s.cur
        { x with trap := some { pc := x.pc, m0 := x.m0, fmt := x.fmt, f := f, held := rest, i := some b, whole := w, tcause := BitVec.ofNat 32 code, handler := .trap }
                 pc := BitVec.ofNat 64 (s.kd x).trapv, m0 := f, queue := [], replay := none, wait := .none }) ∧
      (x.trap ≠ none ∨ (s.kd x).trapv = 0xFFFFFFFF → Stopped (s.trapLanes s.cur code f w) s.cur x) ∧
      let on := x.active mk ||| b.bad
      s.laneCause x mk code = s.trapLanes s.cur code (if on = 0#32 then x.m0 else on) (decide (on = 0#32)))

/-- trap, an unarmed brk, an illegal word and a fetch outside the code enter the handler; an armed brk stops at the edge (R211, R208, R393, R434, R191, R158). -/
def Obligations.TrapInstructions : Prop :=
  ∀ (n : Nat) (s : State) (x : Group), ScalarReady s x [] [] [] →
    (x.trap = none → (s.kd x).trapv ≠ 0xFFFFFFFF →
      GivesGroup s (x.inHandler 0x40 n (s.kd x).trapv) (exec (.trap n) s) ∧
      GivesGroup s (x.inHandler 0x01 0 (s.kd x).trapv) (exec .illegalScalarWord s) ∧
      GivesGroup s (x.inHandler 0x18 0 (s.kd x).trapv) (exec .scalarFetchFault s) ∧
      ((s.ctx x.ctx).dbgctl.getLsbD 0 = false → (∀ t, s.target (s.lau x.launch) = some t → t.tqctl.getLsbD 35 = false) →
        GivesGroup s (x.inHandler 0x41 n (s.kd x).trapv) (exec (.brk n) s))) ∧
    ((s.ctx x.ctx).dbgctl.getLsbD 0 = true ∨ (∃ g, s.target (s.lau x.launch) = some g ∧ g.tqctl.getLsbD 35 = true) →
      GivesGroup s { x with pc := x.pc + 4#64, atEdge := true, dbgStop := some 1, brkArg := n } (exec (.brk n) s))

/-- tret resumes what its cause allows and vdone closes a vacate handler; each restores what the record holds (R59, R212, R58, R57, R210, R337). -/
def Obligations.ReturnsFromHandlers : Prop :=
  (
    ∀ (k : Nat) (s : State) (x : Group), ScalarReady s x [] [] [k] →
      (x.trap = none → exec (.tret k) s = .next (s.trapGroup s.cur cIllegal)) ∧
      (∀ r, x.trap = some r → r.handler = .trap → (x.m0 ≠ r.f ∨ (∃ e ∈ x.front, e.kind ≠ .free ∧ e.hnd = true)) →
        ∃ (t : State), exec (.tret k) s = .next t ∧ Stopped t s.cur x) ∧
      (∀ r, x.trap = some r → r.handler = .trap → x.m0 = r.f → (∀ e ∈ x.front, e.kind ≠ .free → e.hnd = false) →
        (∀ e ∈ x.front, e.kind = .joinWait → e.lapsed = false) → r.m0 ≠ 0#32 →
        let retry := r.f &&& x.mask k
        GivesGroup s { x with trap := none, m0 := r.m0, fmt := r.fmt, wait := .none
                              pc := if r.i = none ∧ retry = 0#32 then r.pc + 4#64 else r.pc
                              queue := x.queue ++ r.runsAgain retry ++ r.held } (exec (.tret k) s))) ∧
  (
    ∀ (s : State) (x : Group), ScalarReady s x [] [] [] →
      ((∀ r, x.trap = some r → r.handler = .trap) → exec .vdone s = .next (s.trapGroup s.cur cIllegal)) ∧
      (∀ r, x.trap = some r → r.handler = .vacate → (∃ e ∈ x.front, e.kind ≠ .free ∧ e.hnd = true) → ∃ (t : State), exec .vdone s = .next t ∧ Stopped t s.cur x) ∧
      (∀ r, x.trap = some r → r.handler = .vacate → (∀ e ∈ x.front, e.kind ≠ .free → e.hnd = false) →
        (∀ e ∈ x.front, e.kind = .joinWait → e.lapsed = false) → r.m0 ≠ 0#32 →
        ∃ (y : Group), GivesGroup s y (exec .vdone s) ∧ y.trap = none ∧ y.m0 = r.m0 ∧ y.fmt = r.fmt ∧ y.queue = x.queue ++ r.held ∧ y.window = false ∧
          y.vdone = (s.ctx x.ctx).vac.isSome ∧ (r.f ≠ 0#32 → y.pc = r.pc) ∧ y.sreg = x.sreg ∧ y.vreg = x.vreg ∧ y.front = x.front))

/-- Scalar loads, stores and atomics issue where their address and the check allow, and complete at the home of their bytes (R188, R189, R98, R129, R134, R147, R94, R382). -/
def Obligations.ScalarAccesses : Prop :=
  (
    ∀ (d a sz ord scope : Nat) (pl : Place) (s : State) (x : Group), s.memQueued x = false →
      let va := (x.sr a).toNat
      (∀ (sgn : Nat), let part : Part := { va := va, place := pl, size := 2 ^ sz };
        ScalarReady s x [a] [d] [] → AccessFits s x part .rd .load .l →
        ∃ (p : _) (t : State), exec (.lds d a sz sgn ord scope) s = .next t ∧ Issued s x p .l (s.accessCosts s.cur x .load [part]) t ∧ p.parts = [part] ∧
          p.kind = .load ∧ p.dest = .sreg d (decide (sgn = 1)) ∧ p.acq = decide (ord = 1) ∧ p.scope = scope ∧ p.lane = false) ∧
      (let part : Part := { va := va, place := pl, size := 2 ^ sz, x := (x.sr d).toNat % 2 ^ (8 * 2 ^ sz) };
        ScalarReady s x [d, a] [] [] → AccessFits s x part .wr .store .s →
        ∃ (p : _) (t : State), exec (.sts d a sz ord scope) s = .next t ∧ Issued s x p .s (s.accessCosts s.cur x .store [part]) t ∧ p.parts = [part] ∧
          p.kind = .store ∧ p.dest = .none ∧ p.rel = decide (ord = 2) ∧ p.scope = scope ∧ p.lane = false) ∧
      (∀ (aop w : Nat), aop < 10 → w < 2 →
        let n := if w = 1 then 8 else 4
        let v := (x.sr d).toNat % 2 ^ (8 * n)
        let part : Part := { va := va, place := pl, size := n, x := if aop = 9 then (x.sr (d + 1)).toNat % 2 ^ (8 * n) else v, c := v };
        ScalarReady s x (if aop = 9 then [d, d + 1, a] else [d, a]) (if aop = 9 then [d, d + 1] else [d]) [] → AccessFits s x part .at_ (satomKind aop w) .l →
        ∃ (p : _) (t : State), exec (.satom d a aop ord scope w) s = .next t ∧ Issued s x p .l (s.accessCosts s.cur x (satomKind aop w) [part]) t ∧ p.parts = [part] ∧
          p.kind = satomKind aop w ∧ p.dest = .sreg d false ∧ p.acq = decide (ord % 2 = 1) ∧ p.rel = decide (2 ≤ ord) ∧ p.scope = scope)) ∧
  (
    ∀ (g : Nat) (s : State) (x : Group) (p : Pend) (a : Part) (pa page typ gen : Nat), InFlight s g x p a → x.pfWait = [] → a.place = .phys pa page typ gen →
      let h := homeOf x.ctx page gen pa s.moves
      let old := getLE s.mem h a.size
      (p.kind = .store ∨ s.lineBad h = false) →
      (∀ (d : Nat) (sgn : Bool), p.kind = .load → p.dest = .sreg d sgn → a.size ∈ [1, 2, 4, 8] →
        ∃ (t : State) (y : Group), exec (.scalarAccessComplete g p.id) s = .next t ∧ Completed s t g x y p ∧ t.mem = s.mem ∧
          y = { x with sreg := y.sreg, serr := y.serr, pend := y.pend, ops := y.ops } ∧
          ∀ r, y.sr r = if r = d ∧ d ≠ 0 then (if sgn then (BitVec.ofNat (8 * a.size) old).signExtend 64 else BitVec.ofNat 64 old) else x.sr r) ∧
      (p.kind = .store → p.dest = .none → ∃ (t : State) (y : Group), exec (.scalarAccessComplete g p.id) s = .next t ∧ Completed s t g x y p ∧ y = { x with pend := y.pend, ops := y.ops } ∧
          ∀ b, getByte t.mem b = if h ≤ b ∧ b < h + a.size then BitVec.ofNat 8 (a.x / 2 ^ (8 * (b - h))) else getByte s.mem b) ∧
      (∀ (d aop w : Nat), aop < 10 → w < 2 → p.kind = satomKind aop w → p.dest = .sreg d false → a.size = (if w = 1 then 8 else 4) →
        a.x < 2 ^ (8 * a.size) → a.c < 2 ^ (8 * a.size) →
        let new := satomResult aop (8 * a.size) old a.x a.c
        ∃ (t : State) (y : Group), exec (.scalarAccessComplete g p.id) s = .next t ∧ Completed s t g x y p ∧ y = { x with sreg := y.sreg, serr := y.serr, pend := y.pend, ops := y.ops } ∧
          (∀ b, getByte t.mem b = if h ≤ b ∧ b < h + a.size then BitVec.ofNat 8 (new / 2 ^ (8 * (b - h))) else getByte s.mem b) ∧
          ∀ r, y.sr r = if r = d ∧ d ≠ 0 then BitVec.ofNat 64 old
            else if aop = 9 ∧ r = d + 1 then (if old = a.c then 1#64 else 0#64) else x.sr r))

/-- A scalar access waits for the queued lane accesses, then raises its causes in the order of R188, then meets the vacate check (R188, R189, R67, R69, R63, R375, R134, R177). -/
def Obligations.ScalarAccessCauses : Prop :=
  ∀ (d a sz sgn ord scope w aop : Nat), aop < 10 → ∀ q ∈ scalarAccessForms d a sz sgn ord scope w aop, ∀ (s : State) (x : Group), ScalarReady s x q.reads q.writes [] →
    let va := (x.sr a).toNat
    (s.memQueued x = true → exec q.instr s = .next s) ∧
    (s.memQueued x = false →
      (2 ^ 57 ≤ va → exec q.instr s = .next (s.trapGroup s.cur 0x10)) ∧
      (va < 2 ^ 57 → va % q.size ≠ 0 → exec q.instr s = .next (s.trapGroup s.cur 0x12)) ∧
      (va < 2 ^ 57 → va % q.size = 0 →
        (va / 2 ^ 48 = 0x1FF → (s.kd x).scr * 1024 ≤ va % 2 ^ 48 → exec q.instr s = .next (s.trapGroup s.cur 0x13)) ∧
        (va / 2 ^ 48 = 0x1FE → exec q.instr s = .next (s.trapGroup s.cur 0x15)) ∧
        (va / 2 ^ 48 < 0x1FE →
          (s.xlate (.core x.core) x.ctx va = .malformed → exec q.instr s = .next (s.trapGroup s.cur 0x17)) ∧
          (∀ l, s.xlate (.core x.core) x.ctx va = .leaf l → leafAllows l.bits q.want = false → exec q.instr s = .next (s.trapGroup s.cur 0x15)) ∧
          (s.xlate (.core x.core) x.ctx va = .absent → exec q.instr s = .next (s.pageFaultScalar s.cur (va / 65536 * 65536) q.access)))) ∧
      (∀ pl, s.resolve s.cur x true va q.size q.want = .ok pl → (q.want = .wr ∨ s.placeBad x pl q.size = false) → ∃ part : Part, part.va = va ∧ part.place = pl ∧
        part.size = q.size ∧
        let verdict := s.issueCheck x.ctx x.strict (s.inWindow x) (s.accessCosts s.cur x q.kind [part])
        (verdict = .tooLarge → exec q.instr s = .next (s.trapGroup s.cur 0x31)) ∧
        (verdict = .bound → exec q.instr s = .next (s.trapGroup s.cur 0x30)) ∧
        let room := s.room s.cur x q.cls { kind := q.kind, parts := [part] }
        (verdict = .stall ∨ (verdict = .ok ∧ room = false) → exec q.instr s = .next s) ∧ (31 ≤ x.count q.cls → room = false)))

/-- The issue check admits an operation exactly when it keeps every charge within LIMIT, and says which way it fails (R134, R343, R132, R130, R458, R135). -/
def Obligations.VacateCheck : Prop :=
  ∀ (s : State) (c : Nat) (strict inWindow : Bool) (cs : Costs),
    let k := s.ctx c
    let limit := match k.vac with | some v => k.checkBound - 700 - (if v.open_ then s.gtime - v.t0 else 0) | none => k.checkBound - 700
    let small : Prop := ∀ p ∈ cs, p.amt ≤ k.checkBound - 700
    let fits : Prop := ∀ p ∈ cs, k.chargeOn p.res + p.amt ≤ limit
    (s.issueCheck c strict inWindow cs = .ok ↔ small ∧ fits) ∧
    (s.issueCheck c strict inWindow cs = .tooLarge ↔ ¬ small) ∧
    (s.issueCheck c strict inWindow cs = .bound ↔ small ∧ ¬ fits ∧ strict = true ∧ inWindow = false) ∧
    (s.issueCheck c strict inWindow cs = .stall ↔ small ∧ ¬ fits ∧ ¬(strict = true ∧ inWindow = false)) ∧
    (∀ key, s.issueCheck c strict inWindow cs = .ok → (cs.map (fun p => p.res)).Nodup → (∀ r, k.chargeOn r ≤ limit) →
      ∀ r, ((s.addCharges c key cs).ctx c).chargeOn r ≤ limit)

/-- wcnt, fence and the handle instructions wait for or report operations as the counters and handles say (R195, R98, R194, R271, R395, R196, R197, R301). -/
def Obligations.CountersAndHandles : Prop :=
  (
    ∀ (s : State) (x : Group), ScalarReady s x [] [] [] →
      (∀ (l st c t k : Nat),
        let within (cl : OpClass) (n : Nat) : Prop := n = 31 ∨ (x.ops.filter (fun e => e.cls == cl)).length ≤ n
        let all : Prop := within .l l ∧ within .s st ∧ within .c c ∧ within .t t ∧ within .k k
        let clear : Prop := x.queue = [] ∨ (31 ≤ l ∧ 31 ≤ st ∧ 31 ≤ t)
        let covered (e : Deferred) : Prop := e.opNo < x.tileNo - t
        let marked (e : Nat) : Prop := (∃ n, Map.find x.verrOf e = some n ∧ n + l < x.loadNo) ∨ (Map.find x.verrOf e = none ∧ l = 0)
        (all → clear → (∀ e ∈ x.deferred, ¬ covered e) → (∃ e ∈ x.verr, marked e) →
          ∃ (y : Group), y = { x with verr := y.verr } ∧ (∀ e, e ∈ y.verr ↔ e ∈ x.verr ∧ ¬ marked e) ∧
            exec (.wcnt l st c t k) s = .next (((s.setGrp s.cur y).postGrp s.cur .fault 4 cData 0 6).trapGroup s.cur cData)) ∧
        (all → clear → (∀ e ∈ x.deferred, ¬ covered e) → (∀ e ∈ x.verr, ¬ marked e) → GivesGroup s { x with pc := x.pc + 4#64 } (exec (.wcnt l st c t k) s)) ∧
        (¬ clear → exec (.wcnt l st c t k) s = .next s) ∧ (¬ all → exec (.wcnt l st c t k) s = .next s) ∧
        (all → clear → ∀ e ∈ x.deferred, covered e → (∀ f ∈ x.deferred, f ≠ e → e.opNo < f.opNo) →
          ∃ (y : Group), y = { x with deferred := y.deferred } ∧ (∀ f, f ∈ y.deferred ↔ f ∈ x.deferred ∧ ¬ covered f) ∧
            exec (.wcnt l st c t k) s = .next ((s.setGrp s.cur y).trapGroup s.cur e.code))) ∧
      (x.queue = [] → x.verr = [] → GivesGroup s { x with pc := x.pc + 4#64 } (exec .vsync s)) ∧
      (x.queue ≠ [] → exec .vsync s = .next s)) ∧
  (
    ∀ (d a : Nat) (s : State) (x : Group),
      ((∀ n h, ¬ x.names s (x.sr a) n h) →
        (ScalarReady s x [a] [] [] → exec (.hwait a) s = .next (s.trapGroup s.cur 0x08)) ∧
        (ScalarReady s x [a] [d] [] → exec (.htest d a) s = .next (s.trapGroup s.cur 0x08) ∧ exec (.hcancel d a) s = .next (s.trapGroup s.cur 0x08))) ∧
      (∀ (n : Nat) (h : Handle), x.names s (x.sr a) n h →
        (ScalarReady s x [a] [] [] → (h.status ≠ 0 → GivesGroup s { x with pc := x.pc + 4#64 } (exec (.hwait a) s)) ∧ (h.status = 0 → exec (.hwait a) s = .next s)) ∧
        (ScalarReady s x [a] [d] [] →
          GivesReg s x d (BitVec.ofNat 64 h.status) (exec (.htest d a) s) ∧
          (h.status ≠ 0 ∨ h.kind = 2 ∨ (h.kind = 1 ∧ (Map.get {} s.copies h.obj).begun = true) ∨ (h.kind = 3 ∧ (s.lau h.obj).phase ∈ [.running, .finished]) →
            GivesReg s x d 0#64 (exec (.hcancel d a) s)) ∧
          (h.status = 0 → h.kind = 1 → (Map.get {} s.copies h.obj).begun = false → (Map.get {} s.copies h.obj).charge ≠ 0 →
            let cp := Map.get {} s.copies h.obj
            ∃ (t : State) (y : Group), exec (.hcancel d a) s = .next t ∧ t = { s with copies := t.copies, ctxs := t.ctxs, groups := s.groups.put s.cur y } ∧
              t.copies = s.copies.put h.obj { cp with status := 2 } ∧
              (t.ctx x.ctx).ledger = (s.ctx x.ctx).ledger.filter (fun k => k.key != cp.charge) ∧
              y = { x with sreg := y.sreg, serr := y.serr, pc := x.pc + 4#64, ops := (x.finishOp cp.opId).ops, handles := x.handles.put n { h with status := 2 } } ∧
              ∀ r, y.sr r = if r = d ∧ d ≠ 0 then 1#64 else x.sr r) ∧
          (h.status = 0 → h.kind = 3 → (s.lau h.obj).phase ∈ [.unbound, .bound] → (s.lau h.obj).parent = some (s.cur, n) →
            ∃ (t : State) (y : Group), exec (.hcancel d a) s = .next t ∧ Map.find t.groups s.cur = some y ∧ (t.lau h.obj).phase = .finished ∧
              y = { x with sreg := y.sreg, serr := y.serr, pc := x.pc + 4#64, handles := x.handles.put n { h with status := 2 } } ∧
              ∀ r, y.sr r = if r = d ∧ d ≠ 0 then 1#64 else x.sr r))))

/-- dfetch hands out pushed units first, then grid units in order, then waits or gives the sentinel; in interval mode it gives the lanes units (R200, R29, R30, R28, R34, R305, R304, R303). -/
def Obligations.DfetchHandsOut : Prop :=
  (
    ∀ (d : Nat) (s : State) (x : Group), ScalarReady s x [] [d] [] → x.unit = none → x.lut = [] → x.interval = false → s.InTurn x →
      let l := s.lau x.launch
      let next := l.gridNext
      (s.cancelled x.launch = true → GivesUnit s.cur s x d sentinel none 0 (exec (.dfetch d) s)) ∧
      (s.cancelled x.launch = false → l.target = none →
        (∀ k ks, l.pushed = k :: ks →
          let u : UnitRef := ⟨k, (Map.get {} l.units k).word, (Map.get {} l.units k).level⟩
          GivesUnit s.cur (s.setLau x.launch { l with pushed := ks }) x d u.word (some u) u.level (exec (.dfetch d) s)) ∧
        (l.pushed = [] → l.kd.iv = false → l.skip = [] → next < l.lr.units →
          let place := if l.kd.prio then s.vRead l.ctx (l.lr.uorder + 4 * next) 4 else next
          ∃ n, GivesUnit s.cur (s.setLau x.launch { l with gridNext := next + 1, units := l.units.put n { word := l.lr.word place, root := place } }) x d (l.lr.word place)
            (some ⟨n, l.lr.word place, 0⟩) 0 (exec (.dfetch d) s)) ∧
        (l.pushed = [] → l.skip = [] → (l.kd.iv = true ∨ l.lr.units ≤ next) →
          ((∃ (g : _) (y : Group), (g, y) ∈ s.groups ∧ g ≠ s.cur ∧ y.launch = x.launch ∧ y.residence ≠ .ended ∧ (y.unit ≠ none ∨ ∃ l v, (l, v) ∈ y.lut ∧ v.unit ≠ none)) →
            GivesGroup s { x with wait := .dfetch } (exec (.dfetch d) s)) ∧
          ((∀ g y, (g, y) ∈ s.groups → g ≠ s.cur → y.launch = x.launch → y.residence ≠ .ended → y.unit = none ∧ ∀ l v, (l, v) ∈ y.lut → v.unit = none) →
            GivesUnit s.cur s x d sentinel none 0 (exec (.dfetch d) s))))) ∧
  (
    ∀ (d : Nat) (s : State) (x : Group), ScalarReady s x [] [d] [] → x.unit = none → x.lut = [] → x.interval = true → s.InTurn x →
      let l := s.lau x.launch
      let n := Nat.min 32 (l.lr.units - l.gridNext)
      s.cancelled x.launch = false → l.target = none → l.ivQueue = [] → l.skip = [] → l.kd.prio = false →
      (0 < n → ∃ (t : State) (y : Group), exec (.dfetch d) s = .next (t.setGrp s.cur y) ∧ (t.lau x.launch).gridNext = l.gridNext + n ∧ t.mem = s.mem ∧
        y = { x with sreg := y.sreg, serr := y.serr, lut := y.lut, blevel := 0, ordq := 0, wait := .none, pc := x.pc + 4#64 } ∧
        (∀ r, y.sr r = if r = d ∧ d ≠ 0 then BitVec.ofNat 64 (2 ^ n - 1) else x.sr r) ∧
        ∀ (lane : Nat), (lane < n → ∃ u : UnitRef, Map.find y.lut lane = some { unit := some u, done := false, nan := false } ∧ u.level = 0 ∧ u.word = l.lr.word (l.gridNext + lane)) ∧
          (n ≤ lane → Map.find y.lut lane = none)) ∧
      (n = 0 → (∀ g y, (g, y) ∈ s.groups → g ≠ s.cur → y.launch = x.launch → y.residence ≠ .ended → y.interval = true → y.unit = none ∧ y.lut = []) →
        ∃ (y : Group), GivesGroup (s.servedBy x) y (exec (.dfetch d) s) ∧ y.interval = false ∧ y.blevel = 0 ∧ y.pc = x.pc + 4#64 ∧
          y = { x with sreg := y.sreg, serr := y.serr, interval := false, blevel := 0, ordq := 0, wait := .none, pc := x.pc + 4#64 } ∧
          ∀ r, y.sr r = if r = d ∧ d ≠ 0 then 0#64 else x.sr r)) ∧
  (∀ (d : Nat) (s : State) (x : Group), ScalarReady s x [] [d] [] → x.unit = none → x.lut = [] → ¬ s.InTurn x → exec (.dfetch d) s = .next s)

/-- dpush puts a unit at the front of the dispenser; dpush.q quarters the tiles of the lanes and dpush.e hands them off (R200, R31, R34, R313, R314, R315, R306, R32, R305). -/
def Obligations.DispenserPushes : Prop :=
  (
    (∀ (d a k : Nat) (s : State) (x : Group), Map.find s.groups s.cur = some x →
      (x.interval = true → exec (.dpush d a) s = .next (s.trapGroup s.cur 0x01)) ∧
      (x.interval = false → exec (.dpushE d k) s = .next (s.trapGroup s.cur 0x01) ∧ exec (.dpushQ d k) s = .next (s.trapGroup s.cur 0x01))) ∧
    ∀ (d a : Nat) (s : State) (x : Group), ScalarReady s x [a] [d] [] → x.interval = false →
      let l := s.lau x.launch
      let w := x.sr a
      let lost : Prop := l.budget = 0 ∨ l.lr.d0 ≤ w.toNat % 65536 ∨ l.lr.d1 ≤ w.toNat / 65536 % 65536 ∨ l.lr.d2 ≤ w.toNat / 2 ^ 32 % 65536 ∨ l.lr.d3 ≤ w.toNat / 2 ^ 48
      (¬ s.InTurn x → exec (.dpush d a) s = .next s) ∧
      (s.InTurn x →
        (x.unit = none ∨ lost → GivesReg (s.servedBy x) x d 0#64 (exec (.dpush d a) s)) ∧
        (∀ u, x.unit = some u → ¬ lost → s.cancelled x.launch = true →
          ∃ (t : State), GivesReg t x d 0#64 (exec (.dpush d a) s) ∧ t = { s.servedBy x with launches := t.launches } ∧
            (Map.get {} (t.lau x.launch).units u.node).spoiled = true) ∧
        (∀ u, x.unit = some u → s.cancelled x.launch = false → l.target = none → ¬ lost →
          ∃ (t : State) (k : _), GivesReg t x d 1#64 (exec (.dpush d a) s) ∧ t = { s.servedBy x with launches := t.launches } ∧ (t.lau x.launch).pushed = k :: l.pushed ∧
            (t.lau x.launch).budget = l.budget - 1 ∧ (Map.get {} (t.lau x.launch).units k).word = w ∧ (Map.get {} (t.lau x.launch).units k).level = x.blevel + 1 ∧
            (Map.get {} (t.lau x.launch).units k).parent = some u.node ∧ (Map.get {} (t.lau x.launch).units k).finished = false))) ∧
  (
    ∀ (d k : Nat) (s : State) (x : Group), ScalarReady s x [] [d] [k] → x.interval = true →
      let l := s.lau x.launch
      let lanes := (List.range 32).filter (fun n => (x.m0 &&& x.mask k).getLsbD n && (Map.get {} x.lut n).unit.isSome && !(Map.get {} x.lut n).done)
      let e0 := (x.sr d).toNat % 2 ^ 32
      let e1 := (x.sr d).toNat / 2 ^ 32
      let quarters (n : Nat) : Bool := (Map.get {} x.lut n).unit.any (fun u => !(Map.get {} x.lut n).nan && quartered e0 e1 u.level x.blimit u.word)
      let forms : List Instr := if d ∈ x.serr then [.dpushE d k] else [.dpushE d k, .dpushQ d k]
      (¬ s.InTurn x → ∀ i ∈ forms, exec i s = .next s) ∧
      (s.InTurn x → s.cancelled x.launch = true → ∀ i ∈ forms,
        ∃ (t : State), GivesReg t x d 0#64 (exec i s) ∧ t = { s.servedBy x with launches := t.launches } ∧ (t.lau x.launch).pushed = l.pushed ∧ (t.lau x.launch).ivQueue = l.ivQueue) ∧
      (s.InTurn x → s.cancelled x.launch = false → l.target = none →
        (∃ (t : State) (y : Group) (ks : _), exec (.dpushE d k) s = .next (t.setGrp s.cur y) ∧ PushedLanes s t x y d (BitVec.ofNat 64 (laneMask lanes)) lanes ∧
          (t.lau x.launch).pushed = ks ++ l.pushed ∧ HandedOff x t ks lanes ∧ (t.lau x.launch).ivQueue = l.ivQueue ∧ (t.lau x.launch).budget = l.budget) ∧
        (4 * lanes.length ≤ l.budget → d ∉ x.serr →
          ∃ (t : State) (y : Group) (ks : _) (cs : _), exec (.dpushQ d k) s = .next (t.setGrp s.cur y) ∧
            PushedLanes s t x y d (BitVec.ofNat 64 (2 ^ 32 * laneMask (lanes.filter (fun n => !(quarters n))) + laneMask (lanes.filter quarters))) lanes ∧
            (t.lau x.launch).pushed = ks ++ l.pushed ∧ HandedOff x t ks (lanes.filter (fun n => !(quarters n))) ∧
            (t.lau x.launch).ivQueue = cs ++ l.ivQueue ∧ Quartered x t cs (lanes.filter quarters) ∧
            (t.lau x.launch).budget = l.budget - 4 * (lanes.filter quarters).length))) ∧
  (
    ∀ (s : State) (x : Group), ScalarReady s x [] [] [] →
      (x.queue ≠ [] ∨ x.pend ≠ [] → exec .ddone s = .next s) ∧
      (x.queue = [] → x.pend = [] → x.lut = [] →
        (x.unit = none → GivesGroup s { x with pc := x.pc + 4#64 } (exec .ddone s)) ∧
        (∀ u, x.unit = some u →
          let l := s.lau x.launch
          let node := { Map.get {} l.units u.node with finished := true }
          let tree := (l.units.put u.node node).filter (fun kv => kv.2.root == node.root)
          let whole : Prop := ∀ kv ∈ tree, kv.2.finished = true ∧ kv.2.spoiled = false
          ∃ (t : State), exec .ddone s = .next (t.setGrp s.cur { x with unit := none, pc := x.pc + 4#64 }) ∧ t.groups = s.groups ∧
            (Map.get {} (t.lau x.launch).units u.node).finished = true ∧
            (¬ whole → t.mem = s.mem) ∧
            (whole → (∃ kv ∈ tree, kv.2.path = [] ∧ kv.2.complete = false) →
              t.mem = ((s.vWrite l.ctx (l.lr.bitmap + node.root / 8) 1 (s.vRead l.ctx (l.lr.bitmap + node.root / 8) 1 ||| 2 ^ (node.root % 8))).bump l.ctx 8).mem))))

/-- launch makes a child of its record with a handle; join waits for the children; waits end when what they await is done (R201, R359, R36, R365, R360, R196, R203, R204, R30). -/
def Obligations.LaunchAndJoin : Prop :=
  (
    ∀ (d a : Nat) (s : State) (x : Group), ScalarReady s x [a] [d] [] →
      let va := (x.sr a).toNat
      (x.queue ≠ [] ∨ x.pend ≠ [] → exec (.launch d a) s = .next s) ∧
      (x.queue = [] → x.pend = [] → (2 ^ 57 ≤ va → exec (.launch d a) s = .next (s.trapGroup s.cur 0x10)) ∧
        (va < 2 ^ 57 → va % 8 ≠ 0 → exec (.launch d a) s = .next (s.trapGroup s.cur 0x12)) ∧
        (∀ (ps : List Part), va % 8 = 0 → ps.length = 16 →
          (∀ (i : Nat) (p : Part), ps[i]? = some p → p = { va := va + 8 * i, size := 8, place := p.place } ∧ s.resolve s.cur x true (va + 8 * i) 8 .rd = .ok p.place ∧
            s.placeBad x p.place 8 = false ∧ s.served x.ctx p = true) →
          let cs := costsOf (((ps.take 1).flatMap (s.partItems s.cur x false false)).map (fun i => { i with bytes := 128 }))
          s.issueCheck x.ctx x.strict (s.inWindow x) cs = .ok →
          let bytes := ps.flatMap (fun p => leBytes 8 (s.performAt s.cur x .load 0#32 p).val)
          let r := recordOf bytes true
          let full : Prop := (s.ctx x.ctx).poolmax.toNat ≤ s.pendingKids (some x.ctx) ∨ 1024 ≤ s.pendingKids none
          (full → ∃ t, ChargedNow s t x.ctx cs ∧ GivesReg t x d 0#64 (exec (.launch d a) s)) ∧
          (¬ full → ∃ (t : State) (y : Group) (n : _), exec (.launch d a) s = .next t ∧ Map.find s.launches n = none ∧ Map.find t.groups s.cur = some y ∧
            (t.lau n).lr = r ∧ (t.lau n).ctx = x.ctx ∧ (t.lau n).parent = some (s.cur, x.hseq) ∧ (t.lau n).depth = (s.lau x.launch).depth + 1 ∧
            ((∀ kv ∈ s.launches, kv.2.ctx = x.ctx → kv.2.phase ≠ .finished → kv.2.lid ≠ (s.ctx x.ctx).nextLid) → (t.lau n).lid = (s.ctx x.ctx).nextLid) ∧ y.hseq = x.hseq + 1 ∧ y.pc = x.pc + 4#64 ∧
            (∀ m, y.sr m = if m = d ∧ d ≠ 0 then BitVec.ofNat 64 (3 * 2 ^ 60 + (s.lau x.launch).lid * 2 ^ 44 + x.gid * 2 ^ 34 + x.hseq) else x.sr m) ∧
            ∃ h, Map.find y.handles x.hseq = some h ∧ h.kind = 3 ∧ h.obj = n ∧
              (s.recordBad x.ctx r = false → (s.lau x.launch).depth < 8 → r.graph = 0xFFFF → h.status = 0))))) ∧
  (
    (∀ (a : Nat) (s : State) (x : Group), ScalarReady s x [a] [] [] →
      ((∀ n h, x.names s (x.sr a) n h → h.kind ≠ 3) → exec (.join a) s = .next (s.trapGroup s.cur 0x08)) ∧
      (∀ n h, x.names s (x.sr a) n h → h.kind = 3 →
        (h.status ≠ 0 → GivesGroup s { x with wait := .none, pc := x.pc + 4#64 } (exec (.join a) s)) ∧
        (h.status = 0 → GivesGroup s { x with wait := .join h.obj } (exec (.join a) s)))) ∧
    (∀ (g l : Nat) (s : State) (x : Group), Map.find s.groups g = some x →
      (x.wait = .join l → (s.lau l).phase = .finished → (s.ctx x.ctx).st = .running →
        (x.residence = .resident → exec (.joinWake g) s = .next (s.setGrp g { x with wait := .none, pc := x.pc + 4#64 })) ∧
        (x.residence = .saved 2 → s.fits x = true → ∃ y, exec (.joinWake g) s = .next (s.setGrp g y) ∧ y.residence = .resident ∧ y.wait = .none ∧
          y.pc = BitVec.ofNat 64 (s.vRead x.ctx ((s.ctx x.ctx).lkbase.toNat + 40960 * x.locket + 0x380) 4) + 4#64)) ∧
      (x.wait = .join l → ((s.lau l).phase ≠ .finished ∨ (s.ctx x.ctx).st ≠ .running) → exec (.joinWake g) s = .next s) ∧
      (x.wait = .dfetch → s.issuing x = true → x.interval = false → ∀ d bs, s.fetchScalar x x.pc.toNat = .bytes bs → decode bs = .ok (.dfetch d, []) →
        let n := s.lau x.launch
        (¬ s.InTurn x → exec (.dfetchWake g) s = .next s) ∧
        (s.InTurn x → s.cancelled x.launch = true → GivesUnit g s x d sentinel none 0 (exec (.dfetchWake g) s)) ∧
        (s.InTurn x → s.cancelled x.launch = false → n.target = none → ∀ k ks, n.pushed = k :: ks →
          let u : UnitRef := ⟨k, (Map.get {} n.units k).word, (Map.get {} n.units k).level⟩
          GivesUnit g (s.setLau x.launch { n with pushed := ks }) x d u.word (some u) u.level (exec (.dfetchWake g) s))) ∧
      (x.wait = .none → exec (.joinWake g) s = .next s ∧ exec (.dfetchWake g) s = .next s ∧ exec (.wwaitWake g) s = .next s ∧ exec (.tktReread g) s = .next s ∧
        exec (.barrierRelease g) s = .next s)))

/-- Barriers release all when the last arrives; wwait and tkt wait for a word of memory and answer what they read (R202, R23, R27, R203, R204, R178, R138). -/
def Obligations.BarriersAndWordWaits : Prop :=
  (
    (∀ (n : Nat) (s : State) (x : Group), ScalarReady s x [] [] [] →
      (x.queue = [] → x.pend = [] → GivesGroup s { x with wait := .bar 0 n } (exec (.barBlk n) s) ∧ GivesGroup s { x with wait := .bar 1 n } (exec (.barClu n) s)) ∧
      (x.queue ≠ [] ∨ x.pend ≠ [] → exec (.barBlk n) s = .next s ∧ exec (.barClu n) s = .next s)) ∧
    (∀ (g kind n : Nat) (s : State) (x : Group), Map.find s.groups g = some x → x.wait = .bar kind n → kind < 2 → (s.groups.map (fun kv => kv.1)).Nodup →
      let takesPart (y : Group) : Prop := y.launch = x.launch ∧ y.residence ≠ .ended ∧
        (if kind = 0 then y.block = x.block else (s.blk y.block).core0 / 16 = (s.blk x.block).core0 / 16)
      ((∀ h y, (h, y) ∈ s.groups → takesPart y → y.wait = .bar kind n ∧ y.residence = .resident) →
        ∃ (t : State), exec (.barrierRelease g) s = .next t ∧ t = { s with groups := t.groups } ∧
          ∀ h y, Map.find s.groups h = some y → (takesPart y → Map.find t.groups h = some { y with pc := y.pc + 4#64, wait := .none }) ∧
            (¬ takesPart y → Map.find t.groups h = some y)) ∧
      ((∃ (h : _) (y : Group), (h, y) ∈ s.groups ∧ takesPart y ∧ ¬(y.wait = .bar kind n ∧ y.residence = .resident)) → exec (.barrierRelease g) s = .next s))) ∧
  (
    ∀ (d a v : Nat) (s : State) (x : Group),
      (∀ cs, ScalarReady s x [d, a] [d] [] → ReadsWord s s.cur x (x.sr a).toNat v cs → ∃ (u t : State), ChargedNow s u x.ctx cs ∧ ChargedNow s t x.ctx cs ∧
        (v ≠ (x.sr d).toNat ∨ s.cancelled x.launch = true → GivesReg u { x with wait := .none } d (BitVec.ofNat 64 v) (exec (.wwait d a) s)) ∧
        (v = (x.sr d).toNat → s.cancelled x.launch = false → GivesGroup u { x with wait := .wwait (x.sr a).toNat v } (exec (.wwait d a) s)) ∧
        ((x.sr d).toNat ≤ v → GivesReg t { x with wait := .none } d (BitVec.ofNat 64 v) (exec (.tkt d a) s)) ∧
        (v < (x.sr d).toNat → GivesGroup t { x with wait := .tkt (x.sr a).toNat } (exec (.tkt d a) s)) ∧
        u.l1 = s.l1 ∧ t.l1 = s.l1.filter (fun n => !(n.core == x.core && n.ctx == x.ctx))) ∧
      (ScalarReady s x [d, a] [d] [] → s.memQueued x = true → exec (.wwait d a) s = .next s ∧ exec (.tkt d a) s = .next s) ∧
      (∀ (g : Nat) (bs : List Byte) (cs : Costs), Map.find s.groups g = some x → ReadsWord s g x (x.sr a).toNat v cs →
        s.fetchScalar x x.pc.toNat = .bytes bs →
        let here : Prop := x.residence = .resident ∧ s.issuing x = true
        let away : Prop := x.residence ∈ [.saved 3, .saved 5] ∧ (s.ctx x.ctx).st = .running ∧ s.fits x = true
        let woken (o : Out) : Prop :=
          (here → ∃ u, ChargedNow s u x.ctx cs ∧ o = .next (u.setGrp g ({ x with wait := .none }.setSr d (BitVec.ofNat 64 v)).adv)) ∧
          (away → ∃ u y, ChargedNow s u x.ctx cs ∧ o = .next (u.setGrp g y) ∧ y.residence = .resident ∧ y.wait = .none ∧ (d ≠ 0 → y.sr d = BitVec.ofNat 64 v))
        (∀ va old, x.wait = .wwait va old → decode bs = .ok (.wwait d a, []) →
          (v ≠ old ∨ s.cancelled x.launch = true → woken (exec (.wwaitWake g) s)) ∧
          (v = old → s.cancelled x.launch = false → exec (.wwaitWake g) s = .next s)) ∧
        (∀ va, x.wait = .tkt va → decode bs = .ok (.tkt d a, []) →
          ((x.sr d).toNat ≤ v → woken (exec (.tktReread g) s)) ∧
          (v < (x.sr d).toNat → exec (.tktReread g) s = .next s)) ∧
        (¬ here → ¬ away → exec (.wwaitWake g) s = .next s ∧ exec (.tktReread g) s = .next s)))

/-- vgrow and vshrink change the allocation, and groups are saved to and restored from their frames (R206, R37, R38, R353, R39, R40, R36, R352, R398). -/
def Obligations.RegisterRequestsAndSaves : Prop :=
  (
    (∀ (n : Nat) (s : State) (x : Group), ScalarReady s x [] [] [] →
      (x.queue ≠ [] → exec (.vgrow n) s = .next s ∧ exec (.vshrink n) s = .next s) ∧
      (x.queue = [] → x.verr = [] →
        ((s.kd x).vmax < x.valloc + n ∨ 76 < x.salloc + 2 * (x.valloc + n) → exec (.vgrow n) s = .next (s.trapGroup s.cur 0x06)) ∧
        (x.valloc + n ≤ (s.kd x).vmax → x.salloc + 2 * (x.valloc + n) ≤ 76 → GivesGroup s { x with wait := .vgrow n s.clock } (exec (.vgrow n) s)) ∧
        ((∃ r ∈ x.pendV, 8 * (x.valloc - n) ≤ r) → exec (.vshrink n) s = .next s) ∧
        (x.valloc < (s.kd x).vmin + n → (∀ r ∈ x.pendV, r < 8 * (x.valloc - n)) → exec (.vshrink n) s = .next (s.trapGroup s.cur 0x06)) ∧
        ((s.kd x).vmin + n ≤ x.valloc → (∀ r ∈ x.pendV, r < 8 * (x.valloc - n)) → ∃ (y : Group), GivesGroup s y (exec (.vshrink n) s) ∧
          y = { x with valloc := x.valloc - n, vreg := y.vreg, pc := x.pc + 4#64 } ∧
          ∀ k l, l < 32 → y.vr k l = if k < 8 * (x.valloc - n) then x.vr k l else 0#32))) ∧
    (∀ (slot g n at_ : Nat) (s : State) (x : Group), (g, x) ∈ s.slotGroups (slot / 2) (slot % 2) → x.wait = .vgrow n at_ →
      (∀ h y, (h, y) ∈ s.slotGroups (slot / 2) (slot % 2) → (h, y) ≠ (g, x) → (∃ m t', y.wait = .vgrow m t') → s.older x y = true ∧ s.older y x = false) →
      s.older x x = false →
      (8 * n ≤ s.freeV (slot / 2) (slot % 2) →
        (∀ h y, (h, y) ∈ s.groups → y.core = slot / 2 → y.slot = slot % 2 → y.residence = .saved 4 → at_ < y.savedAt) →
        ∃ (y : Group), exec (.vgrowGrant slot) s = .next (s.setGrp g y) ∧
          y = { x with valloc := x.valloc + n, vreg := y.vreg, verr := y.verr, wait := .none, pc := x.pc + 4#64 } ∧
          ∀ k l, l < 32 → y.vr k l = if k < 8 * x.valloc then x.vr k l else 0#32) ∧
      (s.freeV (slot / 2) (slot % 2) < 8 * n ∨ (∃ h y, (h, y) ∈ s.groups ∧ y.core = slot / 2 ∧ y.slot = slot % 2 ∧ y.residence = .saved 4 ∧ y.savedAt ≤ at_) →
        exec (.vgrowGrant slot) s = .next s))) ∧
  (
    (∀ (slot g : Nat) (s : State) (x : Group),
      let xs := s.slotGroups (slot / 2) (slot % 2)
      let big := xs.filter (fun kv => decide ((s.kd kv.2).vmin < kv.2.valloc))
      (∀ h y, (h, y) ∈ xs → ∃ n t', y.wait = .vgrow n t') → s.grantable (slot / 2) (slot % 2) = none → xs ≠ [] →
      s.youngest (if big = [] then xs else big) = some (g, x) → Map.find s.groups g = some x → x.pend = [] → s.FrameMapped x →
      ∃ (t : State), exec (.vgrowDeadlockSave slot) s = .next t ∧ SavedIn s t g { x with savedAt := s.clock + 1 } 4) ∧
    (∀ (c g : Nat) (s : State) (x : Group), (s.ctx c).st = .running → (∃ kv ∈ s.kids c, kv.2.phase = .bound) → s.placeKid c = none →
      s.youngest (s.groups.filter (fun kv => kv.2.ctx == c && kv.2.residence == .resident && kv.2.queue.isEmpty && kv.2.pend.isEmpty &&
        (match kv.2.wait with | .join _ => true | _ => false))) = some (g, x) → Map.find s.groups g = some x → s.FrameMapped x →
      ∃ (t : State), exec (.joinedGroupSave c) s = .next t ∧ SavedIn s t g x 2) ∧
    (∀ (g : Nat) (s : State) (x : Group), Map.find s.groups g = some x → x.residence = .saved 1 → x.pfWait = [] → x.declined = false → s.fits x = true →
      (s.ctx x.ctx).st = .running → (s.ctx x.ctx).lkFault = none →
      let rd (o n : Nat) : Nat := s.vRead x.ctx ((s.ctx x.ctx).lkbase.toNat + 40960 * x.locket + o) n
      ∃ (y : Group), exec (.groupRestore g) s = .next (s.setGrp g y) ∧ y.residence = .resident ∧ y.pfWait = [] ∧
        y.notBefore = (if x.core / 80 = x.savedDie then x.notBefore else Nat.max x.notBefore (x.savedGt + 9)) ∧
        y.pc = BitVec.ofNat 64 (rd 0x380 4) ∧ y.m0 = BitVec.ofNat 32 (rd 0x384 4) ∧ y.fmt = BitVec.ofNat 32 (rd 0x24 4) ∧
        (∀ k, k < 16 → 0 < k → y.mask k = BitVec.ofNat 32 (rd (0x44 + 4 * (k - 1)) 4)) ∧
        (∀ k, k < 64 * x.salloc → 0 < k → y.sr k = BitVec.ofNat 64 (rd (0x800 + 8 * k) 8)) ∧
        (∀ k l, k < 8 * x.valloc → l < 32 → y.vr k l = BitVec.ofNat 32 (rd (0x800 + 512 * x.salloc + 4 * (32 * k + l)) 4))))

/-- Regions, vrun, stkflush and vcost do what R207, R193, R205 and R209 say (R207, R193, R205, R77, R209, R15, R56). -/
def Obligations.RegionsBlocksAndPrices : Prop :=
  ∀ (s : State) (x : Group),
    (ScalarReady s x [] [] [] →
      (∀ id, (s.kd x).rgn ≤ x.rstack.length → exec (.rgnEnter id) s = .next (s.trapGroup s.cur 0x07)) ∧
      (∀ id, x.rstack.length < (s.kd x).rgn → GivesGroup s { x with rstack := x.rstack ++ [id], pc := x.pc + 4#64, atEdge := true } (exec (.rgnEnter id) s)) ∧
      (x.rstack = [] → exec .rgnLeave s = .next (s.trapGroup s.cur 0x07)) ∧
      (∀ ids id, x.rstack = ids ++ [id] → GivesGroup s { x with rstack := ids, pc := x.pc + 4#64, atEdge := true } (exec .rgnLeave s)) ∧
      (∀ b, (s.kd x).lsize < 12 * b + 12 → exec (.vrun b) s = .next (s.trapGroup s.cur 0x18)) ∧
      (∀ b bs, 12 * b + 12 ≤ (s.kd x).lsize → s.fetchAt x ((s.kd x).lbase + 12 * b) 12 = .bytes bs → leNat bs / 2 ^ 85 % 8 ≠ 6 →
        (x.queue.length < 8 → GivesGroup s { x with
            queue := x.queue ++ [{ start := b, mask := x.m0, fmt := x.fmt, sigdim := x.sigdim, sigdepth := x.sigdepth, vpc := x.pc.toNat, stklim := x.stklim }]
            pc := x.pc + 4#64 } (exec (.vrun b) s)) ∧
        (8 ≤ x.queue.length → exec (.vrun b) s = .next s)) ∧
      (x.queue = [] → x.pend = [] →
        let mine (n : StackLine) : Bool := n.core == x.core && n.ctx == x.ctx && n.group == s.cur
        let rest := s.stack.filter (fun n => !(mine n))
        ((∀ n ∈ s.stack, mine n = true → n.dirty = 0#32) →
          ∃ (t : State), exec .stkflush s = .next (t.setGrp s.cur { x with pc := x.pc + 4#64 }) ∧ t = { s with stack := rest, ctxs := t.ctxs } ∧ ∀ c, t.ctx c = s.ctx c) ∧
        (∀ ln pa page typ gen, s.stack.filter (fun n => mine n && n.dirty != 0#32) = [ln] → s.resolveGlobal (.core x.core) x.ctx ln.backing .wr = .ok (.phys pa page typ gen) →
          s.backServed x.ctx ln.backing = true → let cs := costsOf [s.physItem x.ctx typ pa ln.backing false 128]
          s.issueCheck x.ctx x.strict (s.inWindow x) cs = .ok →
          ∃ (t : State), exec .stkflush s = .next (t.setGrp s.cur { x with pc := x.pc + 4#64 }) ∧ t.stack = rest ∧ Charged s t x.ctx 0 cs ∧
            t = { s with stack := t.stack, mem := t.mem, peerMem := t.peerMem, errLines := t.errLines, errFrames := t.errFrames, ctxs := t.ctxs, touched := t.touched } ∧
            t.mem = ((lanesOf ln.dirty).foldl (fun u l => u.vWrite x.ctx (ln.backing + 4 * l) 4 (ln.data.getD l 0#32).toNat) s).mem))) ∧
    (∀ (d o : Nat), o < 2 ^ 16 → ScalarReady s x [] [d] [] → x.queue = [] → x.pendS = [] → x.pendV = [] →
      let target : Int := x.pc.toNat + 4 * (BitVec.ofNat 16 o).toInt
      (target < 0 ∨ target.toNat % 4 ≠ 0 ∨ (s.kd x).ssize ≤ target.toNat → exec (.vcost d o) s = .next (s.trapGroup s.cur 0x18)) ∧
      (∀ bs i, 0 ≤ target → s.fetchScalar x target.toNat = .bytes bs → decode bs = .ok (i, []) →
        (∀ c a b im, ∀ q ∈ registerForms c a b im, i = q.1 → GivesReg s x d 0#64 (exec (.vcost d o) s)) ∧
        (∀ c a sz sgn ord scope w aop, aop < 10 → ∀ q ∈ scalarAccessForms c a sz sgn ord scope w aop, i = q.instr → ∀ pl,
          s.resolve s.cur x true (x.sr a).toNat q.size q.want = .ok pl →
          GivesReg s x d (BitVec.ofNat 64 (Nat.min (2 ^ 64 - 1) (Costs.top (s.accessCosts s.cur x q.kind [{ va := (x.sr a).toNat, place := pl, size := q.size }]))))
            (exec (.vcost d o) s))))

/-- Lane loads, stores, atomics and fences issue: the lanes' accesses enter the counter, their costs are charged, the queue moves on (R243, R244, R245, R246, R248, R250, R254, R258, R260, R312, R98, R134). -/
def Obligations.LaneAccessesIssue : Prop :=
  ∀ (a : MArgs) (s : State) (x0 : Group) (pl : Nat → Place),
    (∀ q ∈ loadStoreForms a ++ laneAtomicForms a,
      let x := if q.form = .window then s.refill x0 a.win else x0
      let s0 := s.setGrp s.cur x
      let goes (o : Nat → Int) (size : Nat) (dest : Dest) : Prop :=
        (x.active a.msk = 0#32 → exec q.instr s = .next (s.setGrp s.cur (x.popLane a.e))) ∧
        (x.active a.msk ≠ 0#32 → LaneFits s0 x a q o size pl → ∃ (p : _) (t : State), exec q.instr s = .next t ∧
          (∃ seeds : List W32, LaneIssued s x p (some q.cls) (s0.accessCosts s.cur x q.kind (q.parts s0 x a o size pl)) a.e seeds t ∧
            ∀ l, l < 32 → seeds.getD l 1#32 = if q.draws x = true ∧ (x.active a.msk).getLsbD l = true then lfsrAdvance (x.seed l) else x.seed l) ∧
          p.parts = (q.parts s0 x a o size pl).flatMap Part.halves ∧ p.kind = q.kind ∧ p.dest = dest ∧ p.acq = q.acq ∧ p.rel = q.rel ∧ p.scope = a.scope)
      (x0.interval = false → LaneReady s x0 a.msk q.reads q.writes [] [] → goes (fun l => x.laneOffset q.form a.va a.im l) q.size q.dest) ∧
      (x0.interval = true → q.instr ∈ [Instr.vld a, .vlds a] → a.sz ∈ [4, 5] → a.vd % 2 = 0 → a.va % 2 = 0 → LaneReady s x0 a.msk [a.va, a.va + 1] [a.vd, a.vd + 1] [] [] →
        let point (l : Nat) : Bool := x0.vr a.va l == x0.vr (a.va + 1) l
        (∀ l, l < 32 → point l = true) → goes (fun l => ((x0.vr a.va l).toNat : Int) + sext 16 a.im) (szBytes a.sz) (.vivl a.vd))) ∧
    (LaneReady s x0 a.msk (if x0.interval then [a.va, a.va + 1] else [a.va]) [] [] [] → (x0.interval = true → a.va % 2 = 0) →
      ∃ t : State, exec (.vprf a) s = .next (t.setGrp s.cur ((s.refill x0 a.win).popLane a.e)) ∧ t = { s with l1 := t.l1, l2 := t.l2 } ∧
        ∀ n ∈ t.l1, n ∈ s.l1 ∨ (n.core = x0.core ∧ n.ctx = x0.ctx ∧ n.data = getBytes s.mem (n.line * 128) 128)) ∧
    (x0.interval = false →
      (LaneReady s x0 a.msk (formRegs (formOf a.am) a.va ++ regsOf a.ty a.vb) [] [] [] → ¬(a.rm = 6 ∧ fmtRM x0.head.fmt = 5) → x0.head.ordq = none →
        let x1 := if formOf a.am = .window then s.refill x0 a.win else x0
        let x := x1.fixOrd.1
        let s0 := s.setGrp s.cur x
        let key := s0.ordKey x
        let rm := if a.rm = 6 then fmtRM x.head.fmt else a.rm
        let q : LaneAccessForm := ⟨.vatomOrd a, formOf a.am, true, .at_, tyWidth a.ty / 8, [], [], .ordered a.md a.ty rm x0.ordq, .s, .none, false, decide (2 ≤ a.ord), fun y l => y.elem a.ty a.vb l, fun _ _ => 0, fun _ => false⟩
        let o (l : Nat) : Int := x.laneOffset (formOf a.am) a.va a.im l
        let ps := (q.parts s0 x a o q.size pl).map (fun c => { c with draw := 0#32 })
        x.active a.msk ≠ 0#32 → LaneFits s0 x a q o q.size pl → (∀ l, ∃ pa pg gen, pl l = .phys pa pg 5 gen) → key.2.length ≤ 8 → (∀ b, s.bankHeld b + 32 ≤ 4096) →
          ∃ (p : _) (t : State), exec (.vatomOrd a) s = .next t ∧ LaneIssued s x p (some .s) (s0.accessCosts s.cur x q.kind ps) a.e x.lfsr t ∧ p.parts = ps.flatMap Part.halves ∧ p.kind = q.kind ∧ p.rel = q.rel ∧
            x.ordq = x0.ordq + 1 ∧ (t.lau x.launch).ords.length = (s.lau x.launch).ords.length + ps.length ∧ (s.lau x.launch).ords <+: (t.lau x.launch).ords ∧
            ∀ (i : Nat) (c : Part), ps[i]? = some c → ∃ e, (t.lau x.launch).ords[(s.lau x.launch).ords.length + i]? = some e ∧ e.root = key.1 ∧ e.path = key.2 ∧
              e.q = x0.ordq ∧ e.lane = c.lane ∧ e.va = c.va ∧ e.x = c.x ∧ e.aop = a.md ∧ e.ty = a.ty ∧ e.rm = rm ∧ e.fmt = x0.head.fmt ∧ e.logAt = none)) ∧
    (LaneReady s x0 0 [] [] [] [] → ∃ (p : _) (t : State), exec (.fence a) s = .next t ∧ LaneIssued s x0 p none [] a.e x0.lfsr t ∧ p.parts = [] ∧ p.kind = .fence (decide (a.md % 2 = 1)) ∧ p.scope = a.scope)

/-- A lane access completes: loads arrive in their lanes, stores land, with one lane's value where lanes share a byte, atomics run one after another at the home (R245, R246, R251, R253, R258, R254, R260, R94, R98, R129, R382, R383). -/
def Obligations.LaneAccessesComplete : Prop :=
  (∀ (g : Nat) (s : State) (x : Group) (p : Pend) (home : Part → Nat), LaneInFlight s g x p home → (p.kind = .store ∨ ∀ a ∈ p.parts, s.lineBad (home a) = false) →
    let o := exec (.laneInstrComplete g p.id) s
    (exec (.sourceHomeRequest g p.id) s = if p.parts.any (fun a => match a.place with | .phys _ page _ _ => s.inMotion x.ctx page | _ => false) then o else .next s) ∧
    (∀ (d sz : Nat), p.kind = .load → p.dest = .vreg d sz → sz < 7 →
      let esz := if sz = 6 then 5 else sz
      let first (a : Part) : Nat := if sz = 6 ∧ a.va % 16 ≠ 0 then d + 2 else d
      (∀ a ∈ p.parts, a.size = szBytes esz ∧ a.lane < 32) → (p.parts.map (fun a => (first a, a.lane))).Nodup →
      ∃ (t : State) (y : Group), o = .next t ∧ Completed s t g x y p ∧ t.mem = s.mem ∧ y = { x with vreg := y.vreg, verr := y.verr, pend := y.pend, ops := y.ops } ∧
        (∀ a ∈ p.parts, ∀ j, j < (szRegs d esz).length → y.vr (first a + j) a.lane = loadedWord esz (getLE s.mem (home a) a.size) j) ∧
        ∀ k l, l < 32 → (∀ a ∈ p.parts, a.lane = l → k ∉ szRegs (first a) esz) → y.vr k l = x.vr k l) ∧
    (p.kind = .store → p.dest = .none → ∃ (t : State) (y : Group), o = .next t ∧ Completed s t g x y p ∧ y = { x with pend := y.pend, ops := y.ops } ∧
        ∀ b, let cover := p.parts.filter (fun a => decide (home a ≤ b ∧ b < home a + a.size))
          (cover = [] → getByte t.mem b = getByte s.mem b) ∧ (cover ≠ [] → ∃ a ∈ cover, getByte t.mem b = BitVec.ofNat 8 (a.x / 2 ^ (8 * (b - home a))))) ∧
    (∀ (aop rm : Nat) (ty : Ty), p.kind = .atomic aop ty rm → (∀ a ∈ p.parts, a.lane < 32) → (p.parts.map (fun a => a.lane)).Nodup → ∃ ps, OneByOne p.parts ps ∧
      let run := updatesRun (fun a old => atomStep aop ty rm p.fmt a.draw old a.x a.c) home s.mem ps
      (p.dest = .none → ∃ (t : State) (y : Group), o = .next t ∧ Completed s t g x y p ∧ t.mem = run.1 ∧ y = { x with pend := y.pend, ops := y.ops }) ∧
      ∀ (d : Nat) (wide : Bool), p.dest = .vold d wide → ∃ (t : State) (y : Group), o = .next t ∧ Completed s t g x y p ∧ t.mem = run.1 ∧
        y = { x with vreg := y.vreg, verr := y.verr, pend := y.pend, ops := y.ops } ∧
        ∀ (i : Nat) (a : Part) (old : Nat), ps[i]? = some a → run.2[i]? = some old → y.vr d a.lane = BitVec.ofNat 32 old ∧ (wide = true → y.vr (d + 1) a.lane = BitVec.ofNat 32 (old / 2 ^ 32))) ∧
    (∀ (bop rm : Nat) (ty : Ty), p.kind = .bank bop ty rm → p.dest = .none → ∃ (t : State) (y : Group), o = .next t ∧ Completed s t g x y p ∧ y = { x with pend := y.pend, ops := y.ops } ∧
      ∃ ps, OneByOne p.parts ps ∧ t.mem = (updatesRun (fun a old => bankStep bop ty rm p.fmt a.draw old a.x) home s.mem ps).1) ∧
    (∀ (aop rm q : Nat) (ty : Ty), p.kind = .ordered aop ty rm q → p.dest = .none → ∃ (t : State) (y : Group), o = .next t ∧ Completed s t g x y p ∧ t.mem = s.mem ∧ y = { x with pend := y.pend, ops := y.ops }) ∧
    (∀ (sc : Bool), p.kind = .fence sc → p.parts = [] → ∃ (t : State) (y : Group), o = .next t ∧ Completed s t g x y p ∧ t.mem = s.mem ∧ y = { x with pend := y.pend, ops := y.ops })) ∧
  (∀ (op rm old u c : Nat) (ty : Ty) (fmt d : W32), op < 8 → ty ∈ [Ty.i32, .n32, .i64, .n64] → old < 2 ^ tyWidth ty → u < 2 ^ tyWidth ty →
    atomStep op ty rm fmt d old u c = intAtomic op ty old u c ∧ bankStep op ty rm fmt d old u = intBank op ty old u)

/-- Integer lane instructions give each active lane its result; moves, selects and comparisons do, and all write nothing else (R218, R219, R220, R214, R215, R151, R221, R223, R224, R225, R118). -/
def Obligations.IntegerLaneInstructions : Prop :=
  (
    ∀ (a : LArgs) (s : State) (x : Group), a.ty ∈ intTypes → x.interval = false →
      let w := tyWidth a.ty
      let sg := tySigned a.ty
      let A (l : Nat) : BitVec w := BitVec.ofNat w (x.elem a.ty a.va l)
      let B (l : Nat) : BitVec w := BitVec.ofNat w (x.opB a l)
      let C (l : Nat) : BitVec w := BitVec.ofNat w (x.elem a.ty a.vc l)
      let D (l : Nat) : BitVec w := BitVec.ofNat w (x.elem a.ty a.vd l)
      let gives (i : Instr) (f : Nat → BitVec w) : Prop := GivesLanes s x a.msk a.e (fun l => { words := elemWords a.ty a.vd (f l).toNat }) (exec i s)
      (LaneReady s x a.msk (regsOf a.ty a.va ++ bSources a) (regsOf a.ty a.vd) (sSources a) [] → ∀ p ∈ int2Table, gives (p.1 a) (fun l => p.2 w sg (A l) (B l))) ∧
      (LaneReady s x a.msk (regsOf a.ty a.va ++ bSources a ++ regsOf a.ty a.vc) (regsOf a.ty a.vd) (sSources a) [] → gives (.vmad a) (fun l => A l * B l + C l)) ∧
      (LaneReady s x a.msk (regsOf a.ty a.va) (regsOf a.ty a.vd) [] [] →
        gives (.vclz a) (fun l => BitVec.ofNat w ((List.range w).countP (fun j => decide ((A l).toNat < 2 ^ j)))) ∧
        gives (.vpopc a) (fun l => BitVec.ofNat w ((List.range w).countP (fun j => (A l).getLsbD j))) ∧
        gives (.vbrev a) (fun l => (A l).reverse) ∧
        (∀ o n, a.im % 64 = o → a.im / 64 % 128 = n → 0 < n → o + n ≤ w →
          gives (.vbfe a) (fun l => if sg then ((A l).extractLsb' o n).signExtend w else ((A l).extractLsb' o n).setWidth w))) ∧
      (LaneReady s x a.msk (regsOf a.ty a.va ++ regsOf a.ty a.vd) (regsOf a.ty a.vd) [] [] →
        ∀ o n, a.im % 64 = o → a.im / 64 % 128 = n → 0 < n → o + n ≤ w → ∃ f : Nat → BitVec w, gives (.vbfi a) f ∧
          ∀ l j, (f l).getLsbD j = if o ≤ j ∧ j < o + n then (A l).getLsbD (j - o) else (D l).getLsbD j)) ∧
  (
    ∀ (a : LArgs) (s : State) (x : Group), x.interval = false →
      let A (l : Nat) : Nat := x.elem a.ty a.va l
      let B (l : Nat) : Nat := x.opB a l
      let dec (v : Nat) : Val := decodeVal a.ty x.fz v
      let two := LaneReady s x a.msk (regsOf a.ty a.va ++ bSources a)
      (LaneReady s x a.msk (bSources a) (regsOf a.ty a.vd) (sSources a) [] → GivesLanes s x a.msk a.e (fun l => { words := elemWords a.ty a.vd (B l) }) (exec (.vmov a) s)) ∧
      (two (regsOf a.ty a.vd) (sSources a) [] → GivesLanes s x a.msk a.e (fun l =>
        { words := elemWords a.ty a.vd (if a.vc = 0 ∨ (x.mask a.vc).getLsbD l = true then A l else B l) }) (exec (.vsel a) s)) ∧
      (two [] (sSources a) [] → a.ty ∈ intTypes → a.md % 8 < 6 →
        GivesMask s x a.msk a.e a.vd (fun l => holds (a.md % 8) (compare (intVal a.ty (A l)) (intVal a.ty (B l)))) 0#32 (exec (.vcmp a) s)) ∧
      (two [] (sSources a) [] → a.ty ∈ fltTypes → a.md % 8 < 7 →
        let un (l : Nat) : Bool := (dec (A l)).isNan || (dec (B l)).isNan
        GivesMask s x a.msk a.e a.vd (fun l => if un l then a.md % 8 == 1 || a.md % 8 == 6 else a.md % 8 != 6 && holds (a.md % 8) (order (dec (A l)) (dec (B l))))
          (if (lanesOf (x.active a.msk)).any (fun l => (dec (A l)).isSig || (dec (B l)).isSig || (un l && 2 ≤ a.md % 8 && a.md % 8 ≤ 5)) then fNV else 0#32) (exec (.vfcmp a) s)) ∧
      (two (regsOf a.ty a.vd) (sSources a) [] → a.ty ∈ fltTypes →
        let pick (big : Bool) (l : Nat) : LaneOut :=
          let u := dec (A l)
          let v := dec (B l)
          let less (p q : Val) : Bool := order p q == .lt || (p.isZero && q.isZero && p.neg && !q.neg)
          { words := elemWords a.ty a.vd (if u.isNan && v.isNan then canon a.ty else if u.isNan then flushIn a.ty x.fz (B l) else if v.isNan then flushIn a.ty x.fz (A l)
              else if (if big then less u v else less v u) then flushIn a.ty x.fz (B l) else flushIn a.ty x.fz (A l))
            flags := if u.isSig || v.isSig then fNV else 0#32 }
        GivesLanes s x a.msk a.e (pick false) (exec (.vfmin a) s) ∧ GivesLanes s x a.msk a.e (pick true) (exec (.vfmax a) s)) ∧
      (LaneReady s x a.msk (regsOf a.ty a.va) [a.vd] [] [] → a.ty ∈ fltTypes →
        ∃ c : Nat → Nat, GivesLanes s x a.msk a.e (fun l => { words := [(a.vd, BitVec.ofNat 32 (2 ^ c l))] }) (exec (.vfcls a) s) ∧
          ∀ l, match dec (A l) with
            | .nan sig => c l = if sig then 8 else 9
            | .inf n => c l = if n then 0 else 7
            | .fin v => if v.isZero then c l = (if v.neg then 3 else 4)
                else if v.top < 1 - ((tyFmt a.ty).bias : Int) then c l = (if v.neg then 2 else 5) else c l = (if v.neg then 1 else 6)))

/-- The floating-point lane instructions round the exact value once, with the mode of the instruction or of the captured format (R222, R226, R227, R228, R229, R230, R231, R118, R120). -/
def Obligations.FloatLaneResults : Prop :=
  ∀ (a : LArgs) (s : State) (x : Group), x.interval = false →
    let rm := modeOf a.rm x.head.fmt
    let dec (v : Nat) : Val := decodeVal a.ty x.fz v
    let out (l : Nat) (v : Val) (fl : W32) : LaneOut := roundedOut a.ty a.vd rm x.fz (x.seed l) v fl
    let A (l : Nat) : Val := dec (x.elem a.ty a.va l)
    let B (l : Nat) : Val := dec (x.opB a l)
    let C (l : Nat) : Val := dec (x.elem a.ty a.vc l)
    let v (r l : Nat) : Nat := (x.vr r l).toNat
    let fz := x.fz
    (LaneReady s x a.msk (regsOf a.ty a.va ++ bSources a) (regsOf a.ty a.vd) (sSources a) [] → ∀ p ∈ flt2Table,
      GivesLanes s x a.msk a.e (fun l => out l (p.2 rm (A l) (B l)).1 (p.2 rm (A l) (B l)).2) (exec (p.1 a) s)) ∧
    (LaneReady s x a.msk (regsOf a.ty a.va ++ bSources a ++ regsOf a.ty a.vc) (regsOf a.ty a.vd) (sSources a) [] → ∀ p ∈ flt3Table,
      GivesLanes s x a.msk a.e (fun l => out l (p.2 rm (A l) (B l) (C l)) 0#32) (exec (p.1 a) s)) ∧
    (LaneReady s x a.msk (regsOf a.ty a.va) (regsOf a.ty a.vd) [] [] →
      GivesLanes s x a.msk a.e (fun l => out l (A l).sqrt 0#32) (exec (.vfsqrt a) s) ∧
      ∀ p ∈ sfuTable, GivesLanes s x a.msk a.e (fun l => { words := elemWords a.ty a.vd (sfu p.2 a.ty .rne fz (A l)).bits, flags := (sfu p.2 a.ty .rne fz (A l)).flags }) (exec (p.1 a) s)) ∧
    (let d := tyOf a.md
     LaneReady s x a.msk (regsOf a.ty a.va ++ (if tyWidth d < 32 then [a.vd] else [])) (regsOf d a.vd) [] [] →
      let r (l : Nat) : Rounded := cvtElem d a.ty rm fz (a.im.testBit 8) (x.seed l) (if tyIs64 a.ty then x.elem a.ty a.va l else element (v a.va l) (a.im % 16) (tyWidth a.ty))
      GivesLanes s x a.msk a.e (fun l => { words := if tyWidth d < 32 then [(a.vd, BitVec.ofNat 32 (insertAt (v a.vd l) (a.im / 16 % 16) (tyWidth d) (r l).bits))] else elemWords d a.vd (r l).bits
                                           flags := (r l).flags, lfsr := some (r l).lfsr }) (exec (.vcvt a) s)) ∧
    (LaneReady s x a.msk [a.va, a.va + 1, a.vb, a.vb + 1, a.vc, a.vc + 1] [a.vd, a.vd + 1, a.vd + 2, a.vd + 3] [] [] →
      let f (w : Nat) : Val := decodeVal .f32 fz w
      let tr (l : Nat) (neg : Bool) : List Val := [(f (v a.vc l)).mul (f (v a.vb l)), ((f (v (a.vc + 1) l)).mul (f (v (a.vb + 1) l))).negate].map (fun t => if neg then t.negate else t)
      let ti (l : Nat) (neg : Bool) : List Val := [(f (v a.vc l)).mul (f (v (a.vb + 1) l)), (f (v (a.vc + 1) l)).mul (f (v a.vb l))].map (fun t => if neg then t.negate else t)
      (∀ l, ∀ t ∈ [tr l false, ti l false], ∃ z : Exact, Val.sum .rne t = .fin z ∧ z.isZero = false) →
      ∃ g : Nat → LaneOut, GivesLanes s x a.msk a.e g (exec (.vbfly a) s) ∧ ∀ l, (g l).words =
        [(a.vd, rounded32 fz (f (v a.va l) :: tr l false)), (a.vd + 1, rounded32 fz (f (v (a.va + 1) l) :: ti l false)),
         (a.vd + 2, rounded32 fz (f (v a.va l) :: tr l true)), (a.vd + 3, rounded32 fz (f (v (a.va + 1) l) :: ti l true))]) ∧
    (LaneReady s x a.msk (a.va :: (if a.sb then [] else [a.vb])) [a.vd, a.vd + 1] (sSources a) [] →
      let t (l : Nat) := twiddle (v a.va l) (if a.sb then (x.sr a.ss).toNat % 2 ^ 32 else v a.vb l) fz
      GivesLanes s x a.msk a.e (fun l => { words := [(a.vd, BitVec.ofNat 32 (t l).1), (a.vd + 1, BitVec.ofNat 32 (t l).2.1)], flags := (t l).2.2 }) (exec (.vtwid a) s)) ∧
    (LaneReady s x a.msk ([a.va, a.va + 1] ++ (if a.sb then [] else [a.vb, a.vb + 1])) [a.vd, a.vd + 1] (sSources a) [] →
      let br (l : Nat) : Nat := if a.sb then (x.sr a.ss).toNat % 2 ^ 32 else v a.vb l
      let bi (l : Nat) : Nat := if a.sb then (x.sr a.ss).toNat / 2 ^ 32 else v (a.vb + 1) l
      let c (l : Nat) := cmul rm fz (x.seed l) (a.md == 1) (v a.va l) (v (a.va + 1) l) (br l) (bi l)
      GivesLanes s x a.msk a.e (fun l => { words := [(a.vd, BitVec.ofNat 32 (c l).1), (a.vd + 1, BitVec.ofNat 32 (c l).2.1)], flags := (c l).2.2.1, lfsr := some (c l).2.2.2 }) (exec (.vcmul a) s)) ∧
    (LaneReady s x a.msk ([a.va, a.vc] ++ (if a.sb then [] else [a.vb])) [a.vd] (sSources a) [] →
      let b (l : Nat) : Nat := if a.sb then (x.sr a.ss).toNat % 2 ^ 32 else v a.vb l
      let r (l : Nat) := dot a.ty rm fz (x.seed l) (v a.va l) (b l) (v a.vc l)
      GivesLanes s x a.msk a.e (fun l => { words := [(a.vd, BitVec.ofNat 32 (r l).bits)], flags := (r l).flags, lfsr := some (r l).lfsr }) (exec (.vdot a) s))

/-- The cross-lane instructions move, combine and number the lanes (R232, R233, R234, R235, R236, R237, R238, R214). -/
def Obligations.CrossLaneResults : Prop :=
  ∀ (a : LArgs) (s : State) (x : Group), x.interval = false →
    let m := x.active a.msk
    let el (l : Nat) : Nat := x.elem a.ty a.va l
    let words (f : Nat → Nat) : Nat → LaneOut := fun l => { words := elemWords a.ty a.vd (f l) }
    (LaneReady s x a.msk (regsOf a.ty a.va ++ (if a.md = 0 ∧ a.sb = false then [a.vb] else [])) (regsOf a.ty a.vd) (sSources a) [] → a.md < 5 →
      let d (l : Nat) : Nat := if a.sb then (x.sr a.ss).toNat % 32 else if a.md = 0 then (x.vr a.vb l).toNat % 32 else a.im % 32
      let src (l : Nat) : Nat := match a.md with
        | 0 => d l
        | 1 => if d l ≤ l then l - d l else l
        | 2 => if l + d l < 32 then l + d l else l
        | 3 => l ^^^ d l
        | _ => (l + d l) % 32
      GivesLanes s x a.msk a.e (words (fun l => el (src l))) (exec (.vshfl a) s)) ∧
    (LaneReady s x a.msk (if a.sb then [] else regsOf a.ty a.va) (regsOf a.ty a.vd) (sSources a) [] →
      GivesLanes s x a.msk a.e (words (fun _ => if a.sb then (x.sr a.ss).toNat % 2 ^ tyWidth a.ty else el (a.im % 32))) (exec (.vbcast a) s)) ∧
    (LaneReady s x a.msk [] (regsOf a.ty a.vd) (sSources a) [] →
      GivesLanes s x a.msk a.e (fun l => { words := [(a.vd, (if a.sb then (x.sr a.ss).setWidth 32 else 0#32) + BitVec.ofNat 32 l)] }) (exec (.vlid a) s)) ∧
    (∀ w, (w = if a.md = 5 then regsOf a.ty a.va else []) → LaneReady s x a.msk w (if a.md = 7 then [a.vd] else []) (sSources a) [] →
      let p (l : Nat) : Bool := (if a.va = 0 then x.head.mask else x.mask a.va).getLsbD l
      let q (l : Nat) : Bool := (if a.vb = 0 then x.head.mask else x.mask a.vb).getLsbD l
      (a.md = 7 → GivesLanes s x a.msk a.e (fun l => { words := [(a.vd, if p l then 0xFFFFFFFF#32 else 0#32)] }) (exec (.vmsk a) s)) ∧
      (∀ f, (a.md, f) ∈ [(0, fun l => p l && q l), (1, fun l => p l || q l), (2, fun l => p l != q l), (3, fun l => p l && !(q l)), (4, fun l => !(p l)),
          (5, fun l => decide (el l ≠ 0)), (6, fun l => (x.sr a.ss).getLsbD l)] → GivesMask s x a.msk a.e a.vd f 0#32 (exec (.vmsk a) s))) ∧
    (LaneReady s x a.msk (regsOf a.ty a.va) [] [] [a.ss] →
      let signed (v : Nat) : W64 := if a.ty = .i32 then (BitVec.ofNat 32 v).signExtend 64 else BitVec.ofNat 64 v
      (m = 0#32 → GivesGroup s (x.popLane a.e) (exec (.vtos a) s)) ∧
      (m ≠ 0#32 → GivesScalar s x a.e a.ss (signed (el (a.im % 32))) 0#32 x.lfsr (exec (.vtos a) s)) ∧
      (let low := (lanesOf m).headD 0
       let r := reduceList (a.md % 8) ⟨a.ty, modeOf a.rm x.head.fmt, x.fz, x.seed low⟩ ((lanesOf m).map el)
       GivesScalar s x a.e a.ss (signed r.bits) r.flags (x.lfsr.set low r.lfsr) (exec (.vred a) s) ∧
       (a.ty ∈ [Ty.i32, .n32, .i64, .n64] → a.md % 8 < 6 → r.bits = (intFold (a.md % 8) a.ty ((lanesOf m).map el)) ∧ r.flags = 0#32))) ∧
    (LaneReady s x a.msk (regsOf a.ty a.va) (regsOf a.ty a.vd) [] [] →
      let upTo (l : Nat) : List Nat := (List.range 32).filter (fun j => m.getLsbD j && (decide (j < l) || (decide (j = l) && decide (a.md < 8))))
      let r (l : Nat) := reduceList (a.md % 8) ⟨a.ty, modeOf a.rm x.head.fmt, x.fz, x.seed l⟩ ((upTo l).map el)
      GivesLanes s x a.msk a.e (fun l => { words := elemWords a.ty a.vd (r l).bits, flags := (r l).flags, lfsr := some (r l).lfsr }) (exec (.vscan a) s))

/-- In interval mode the integer instructions give intervals that hold every element result (R239, R240, R316, R124, R303). -/
def Obligations.IntervalIntegersSound : Prop :=
  ∀ (a : LArgs) (s : State) (x : Group), a.ty ∈ [Ty.i32, .n32] → x.interval = true → a.vd % 2 = 0 → a.va % 2 = 0 → a.vc % 2 = 0 → (a.sb = true ∨ a.imm = true ∨ a.vb % 2 = 0) →
    let sg := tySigned a.ty
    let bs := if a.sb ∨ a.imm then [] else [a.vb, a.vb + 1]
    let A (l : Nat) : Ivl := x.ivl a.va l
    let B (l : Nat) : Ivl := x.ivlB a l
    let gives (i : Instr) (g : Nat → Ivl) : Prop := GivesLanes s x a.msk a.e (fun l => { words := ivlWords a.vd (g l) }) (exec i s)
    let inside (v : BitVec 32) (i : Ivl) : Prop := Ivl.holds a.ty (v.toNat) (i)
    (LaneReady s x a.msk ([a.va, a.va + 1] ++ bs) [a.vd, a.vd + 1] (sSources a) [] →
      (∀ p ∈ int2Table, ∃ g, gives (p.1 a) g ∧ ∀ (l : Nat) (u v : BitVec 32), (p.1 a ∈ (if sg then [Instr.vshr a] else [.vsra a]) → ((A l).lo < 2 ^ 31 ↔ (A l).hi < 2 ^ 31)) → (A l).isNan a.ty = false → (B l).isNan a.ty = false → inside u (A l) → inside v (B l) → inside (p.2 32 sg u v) (g l)) ∧
      (∀ i ∈ [Instr.vadd a, .vsub a, .vmul a, .vmin a, .vmax a], ∃ g, gives i g ∧ ∀ l, (A l).isNan a.ty = true ∨ (B l).isNan a.ty = true → (g l).isNan a.ty = true) ∧
      gives (.vsel a) (fun l => if a.vc = 0 ∨ (x.mask a.vc).getLsbD l = true then A l else B l)) ∧
    (LaneReady s x a.msk bs [a.vd, a.vd + 1] (sSources a) [] → gives (.vmov a) B) ∧
    (LaneReady s x a.msk ([a.va, a.va + 1] ++ bs ++ [a.vc, a.vc + 1]) [a.vd, a.vd + 1] (sSources a) [] →
      ∃ g, gives (.vmad a) g ∧ ∀ (l : Nat) (u v w : BitVec 32), (A l).isNan a.ty = false → (B l).isNan a.ty = false → (x.ivl a.vc l).isNan a.ty = false →
        inside u (A l) → inside v (B l) → inside w (x.ivl a.vc l) → inside (u * v + w) (g l)) ∧
    (LaneReady s x a.msk [a.va, a.va + 1] [a.vd, a.vd + 1] [] [] →
      ∀ p ∈ [(Instr.vclz a, fun u : BitVec 32 => BitVec.ofNat 32 ((List.range 32).countP (fun j => decide (u.toNat < 2 ^ j)))),
          (.vpopc a, fun u => BitVec.ofNat 32 ((List.range 32).countP (fun j => u.getLsbD j))), (.vbrev a, fun u => u.reverse)],
        ∃ g, gives p.1 g ∧ ∀ (l : Nat) (u : BitVec 32), (A l).isNan a.ty = false → inside u (A l) → inside (p.2 u) (g l)) ∧
    (LaneReady s x a.msk [a.va, a.va + 1] [a.vd, a.vd + 1] [] [] → ∃ g, gives (.vbfe a) g ∧ ∀ l, (A l).isNan a.ty = false → (A l).lo ≠ (A l).hi → g l = Ivl.whole a.ty) ∧
    (LaneReady s x a.msk [a.va, a.va + 1, a.vd, a.vd + 1] [a.vd, a.vd + 1] [] [] → ∃ g, gives (.vbfi a) g ∧
      ∀ l, (A l).isNan a.ty = false → (x.ivl a.vd l).isNan a.ty = false → (A l).lo ≠ (A l).hi → g l = Ivl.whole a.ty)

/-- In interval mode the floating-point instructions give intervals that hold every rounding of every element result (R241, R239, R316, R124, R125). -/
def Obligations.IntervalFloatsSound : Prop :=
  ∀ (a : LArgs) (s : State) (x : Group), a.ty = .f32 → x.interval = true → x.fz < 3 → a.vd % 2 = 0 → a.va % 2 = 0 → a.vc % 2 = 0 → (a.sb = true ∨ a.imm = true ∨ a.vb % 2 = 0) →
    let bs := if a.sb ∨ a.imm then [] else [a.vb, a.vb + 1]
    let A (l : Nat) : Ivl := x.ivl a.va l
    let B (l : Nat) : Ivl := x.ivlB a l
    let C (l : Nat) : Ivl := x.ivl a.vc l
    let gives (i : Instr) (g : Nat → Ivl) : Prop := GivesLanes s x a.msk a.e (fun l => { words := ivlWords a.vd (g l) }) (exec i s)
    let dec (v : Nat) : Val := decodeVal .f32 x.fz v
    let held (r : Val) (i : Ivl) : Prop := ∀ (rm : RMode) (d : W32), (decodeVal .f32 0 (roundVal .f32 rm x.fz d r).bits).isNan = false → i.isNan .f32 = true ∨ Ivl.holds .f32 ((roundVal .f32 rm x.fz d r).bits) (i)
    (LaneReady s x a.msk ([a.va, a.va + 1] ++ bs) [a.vd, a.vd + 1] (sSources a) [] → ∀ p ∈ flt2Table, ∃ g, gives (p.1 a) g ∧
      ∀ (l u v : Nat), ((A l).isNan .f32 = true ∨ (B l).isNan .f32 = true → (g l).isNan .f32 = true) ∧
        (finite32 u → finite32 v → Ivl.holds .f32 u (A l) → Ivl.holds .f32 v (B l) → ∀ rm, held (p.2 rm (dec u) (dec v)).1 (g l))) ∧
    (LaneReady s x a.msk ([a.va, a.va + 1] ++ bs ++ [a.vc, a.vc + 1]) [a.vd, a.vd + 1] (sSources a) [] → ∀ p ∈ flt3Table, ∃ g, gives (p.1 a) g ∧
      ∀ (l u v w : Nat), finite32 u → finite32 v → finite32 w → Ivl.holds .f32 u (A l) → Ivl.holds .f32 v (B l) → Ivl.holds .f32 (w) (C l) → ∀ rm, held (p.2 rm (dec u) (dec v) (dec w)) (g l)) ∧
    (LaneReady s x a.msk [a.va, a.va + 1] [a.vd, a.vd + 1] [] [] → ∃ g, gives (.vfsqrt a) g ∧ ∀ (l u : Nat), finite32 u → Ivl.holds .f32 u (A l) → held (dec u).sqrt (g l))

/-- The interval instructions decide what is certain, join intervals, and read the lane unit (R307, R308, R309, R310, R311, R316, R242). -/
def Obligations.IntervalInstructions : Prop :=
  ∀ (a : LArgs) (s : State) (x : Group), a.ty ∈ [Ty.i32, .n32] →
    let bs := if a.sb then [] else [a.vb, a.vb + 1]
    let A (l : Nat) : Ivl := x.ivl a.va l
    let B (l : Nat) : Ivl := x.ivlBX a l
    let gives (i : Instr) (g : Nat → Ivl) : Prop := GivesLanes s x a.msk a.e (fun l => { words := ivlWords a.vd (g l) }) (exec i s)
    (x.interval = false → Map.find s.groups s.cur = some x → ∀ i ∈ [Instr.ivcmp a, .ivhull a, .ivwid a, .ivsum a], exec i s = .next (s.laneCause x a.msk 0x01)) ∧
    (x.interval = true → a.md < 6 → LaneReady s x a.msk ([a.va, a.va + 1] ++ bs) [] (sSources a) [] → a.vd % 16 ≠ 0 → a.vd / 16 % 16 ≠ 0 → a.vd % 16 ≠ a.vd / 16 % 16 → a.vd < 256 →
      ∃ (y : Group), GivesGroup s y (exec (.ivcmp a) s) ∧ y = { (x.popLane a.e) with masks := y.masks, lut := y.lut } ∧
        (∀ l, l < 32 → (x.active a.msk).getLsbD l = true → (A l).isNan a.ty = false → (B l).isNan a.ty = false →
          ((y.mask (a.vd % 16)).getLsbD l = true ↔ ∀ u v : BitVec 32, Ivl.holds a.ty (u.toNat) (A l) → Ivl.holds a.ty (v.toNat) (B l) → holds a.md (compare (intVal a.ty u.toNat) (intVal a.ty v.toNat)) = true) ∧
          ((y.mask (a.vd / 16)).getLsbD l = true ↔ ∀ u v : BitVec 32, Ivl.holds a.ty (u.toNat) (A l) → Ivl.holds a.ty (v.toNat) (B l) → holds a.md (compare (intVal a.ty u.toNat) (intVal a.ty v.toNat)) = false)) ∧
        (∀ l, l < 32 → (x.active a.msk).getLsbD l = true → (A l).isNan a.ty = true ∨ (B l).isNan a.ty = true →
          (y.mask (a.vd % 16)).getLsbD l = false ∧ (y.mask (a.vd / 16)).getLsbD l = false ∧ ∀ e u, Map.find x.lut l = some e → e.unit = some u → Map.find y.lut l = some { e with nan := true }) ∧
        (∀ l k, (x.active a.msk).getLsbD l = false ∨ (k ≠ a.vd % 16 ∧ k ≠ a.vd / 16) → (y.mask k).getLsbD l = (x.mask k).getLsbD l)) ∧
    (x.interval = true → LaneReady s x a.msk ([a.va, a.va + 1] ++ bs) [a.vd, a.vd + 1] (sSources a) [] →
      ∃ g, gives (.ivhull a) g ∧ ∀ l, (A l).isNan a.ty = false → (B l).isNan a.ty = false →
        (Ivl.holds a.ty ((g l).lo) ((A l)) ∨ Ivl.holds a.ty ((g l).lo) ((B l))) ∧ (Ivl.holds a.ty ((g l).hi) ((A l)) ∨ Ivl.holds a.ty ((g l).hi) ((B l))) ∧ ∀ u, Ivl.holds a.ty u ((A l)) ∨ Ivl.holds a.ty u ((B l)) → Ivl.holds a.ty u ((g l))) ∧
    (x.interval = true → a.md < 5 → LaneReady s x a.msk [] [a.vd, a.vd + 1] (sSources a) [] →
      ∃ g h, gives (.ivwid a) g ∧ gives (.ivsum a) h ∧ ∀ (l : Nat), ((Map.get {} x.lut l).unit = none → g l = Ivl.nan .n32 ∧ h l = Ivl.nan .n32) ∧
        ∀ u : UnitRef, (Map.get {} x.lut l).unit = some u →
          let c (d : Nat) : Nat := u.word.toNat / 2 ^ (16 * d) % 65536
          let e0 := (x.sr a.ss).toNat % 2 ^ 32
          let e1 := (x.sr a.ss).toNat / 2 ^ 32
          let e := (if a.md = 0 then e0 else e1) / 2 ^ u.level
          let r := (s.lau x.launch).lr
          let k := u.level
          let o := e0 + 8 * (r.d0 * r.d1 * r.d2 * r.d3 * (4 ^ k - 1) / 3 + (((c 3 * r.d2 + c 2) * (r.d1 * 2 ^ k) + c 1) * (r.d0 * 2 ^ k) + c 0))
          (a.md < 2 → (∃ i < 16, e0 = 2 ^ i) → (∃ i < 16, e1 = 2 ^ i) → 0 < e → g l = ⟨c a.md * e, c a.md * e + e - 1⟩) ∧
          (a.md = 2 ∨ a.md = 3 → g l = ⟨c a.md, c a.md⟩) ∧ (a.md = 4 → g l = ⟨k, k⟩) ∧ h l = if o < 2 ^ 32 then ⟨o, o⟩ else Ivl.nan .n32) ∧
    (x.interval = true → a.vd % 2 = 0 → a.va % 2 = 0 → a.imm = false → a.vb % 2 = 0 →
      (a.md ≠ 0 → a.md < 5 → LaneReady s x a.msk [a.va, a.va + 1] [a.vd, a.vd + 1] (sSources a) [] → gives (.vshfl a) (fun l => A (shflLane a.md l (if a.sb then (x.sr a.ss).toNat % 32 else a.im % 32)))) ∧
      (a.sb = false → LaneReady s x a.msk [a.va, a.va + 1] [a.vd, a.vd + 1] [] [] → gives (.vbcast a) (fun _ => A (a.im % 32)) ∧
        gives (.vscan a) (fun l => ivReduce (a.md % 8) a.ty x.fz (((lanesOf (x.active a.msk)).filter (fun j => decide (j < l) || (decide (j = l) && decide (a.md < 8)))).map A))) ∧
      (a.sb = false → LaneReady s x a.msk [] [a.vd, a.vd + 1] [] [] → gives (.vlid a) (fun l => ⟨l, l⟩)) ∧
      (LaneReady s x a.msk [a.va, a.va + 1] [] [] [a.ss] →
        let r := ivReduce (a.md % 8) a.ty x.fz ((lanesOf (x.active a.msk)).map A)
        GivesScalar s x a.e a.ss (BitVec.ofNat 64 (r.lo + 2 ^ 32 * r.hi)) 0#32 x.lfsr (exec (.vred a) s) ∧
        (x.active a.msk ≠ 0#32 → GivesScalar s x a.e a.ss (BitVec.ofNat 64 ((A (a.im % 32)).lo + 2 ^ 32 * (A (a.im % 32)).hi)) 0#32 x.lfsr (exec (.vtos a) s))))

/-- A lane instruction raises illegal-instruction and register-range, waits for operands and raises marked sources, in that order (R213, R214, R239, R143, R158, R395, R16). -/
def Obligations.LaneInstructionOrder : Prop :=
  ∀ (a : LArgs) (s : State) (x : Group), Map.find s.groups s.cur = some x → ∀ i ∈ (int2Table.map (fun p => p.1 a)) ++ (flt2Table.map (fun p => p.1 a)),
    let pair (r : Nat) : List Nat := if x.interval then [r, r + 1] else regsOf a.ty r
    let rs := pair a.va ++ (if a.sb ∨ a.imm then [] else pair a.vb)
    let all := rs ++ pair a.vd
    let odd : Prop := x.interval = true ∧ (a.ty ∉ [Ty.i32, .n32, .f32] ∨ a.vd % 2 = 1 ∨ a.va % 2 = 1 ∨ (a.sb = false ∧ a.imm = false ∧ a.vb % 2 = 1))
    let inRange : Prop := (∀ r ∈ all, r < 8 * x.valloc) ∧ ∀ r ∈ sSources a, r < 64 * x.salloc
    let free : Prop := (∀ r ∈ all, r ∉ x.pendV) ∧ ∀ r ∈ sSources a, r ≠ 0 → r ∉ x.pendS
    let marked (l : Nat) : Prop := (x.active a.msk).getLsbD l = true ∧ ∃ r ∈ rs, 32 * r + l ∈ x.verr
    (odd → exec i s = .next (s.laneCause x a.msk 0x01)) ∧
    (¬ odd → ¬ inRange → exec i s = .next (s.laneCause x a.msk 0x02)) ∧
    (¬ odd → inRange → ¬ free → exec i s = .next s) ∧
    let consumed (t : State) : State := t.postGrp s.cur .fault 4 0x20 0 6
    (¬ odd → inRange → free → (∃ r ∈ sSources a, r ∈ x.serr) → exec i s = .next ((consumed s).laneCause x a.msk 0x20)) ∧
    (¬ odd → inRange → free → (∀ r ∈ sSources a, r ∉ x.serr) → (∃ l, l < 32 ∧ marked l) → ∃ f : W32, (∀ l, l < 32 → (f.getLsbD l = true ↔ marked l)) ∧
      ((∀ l, l < 32 → (x.active a.msk).getLsbD l = true → marked l) → exec i s = .next ((consumed s).trapLanes s.cur 0x20 f)) ∧
      ((∃ l, l < 32 ∧ (x.active a.msk).getLsbD l = true ∧ ¬ marked l) → ∃ y : Group, exec i (s.setGrp s.cur (x.without f)) = .next (s.setGrp s.cur y) ∧
        exec i s = .next ((consumed (s.setGrp s.cur { y with queue := x.queue })).trapLanes s.cur 0x20 f))) ∧
    ∃ (t : State), exec i s = .next t

/-- Rounding is correct: each mode gives the representable value it names, exactly flagged (R113, R125, R114, R117). -/
def Obligations.RoundingCorrect : Prop :=
  ∀ (t : Ty) (v : Exact) (d : W32), tyIsFloat t = true → v.more = false → v.m ≠ 0 →
    let val (e : Nat) : Exact := (decodeVal t 0 e).exact
    let isFin (e : Nat) : Prop := e < 2 ^ tyWidth t ∧ ∃ z, decodeVal t 0 e = .fin z
    let r (rm : RMode) : Rounded := roundVal t rm 0 d (.fin v)
    let top := val (maxEnc t)
    let le (p q : Exact) : Prop := q.lt p = false
    le { v with neg := false } top →
      (∀ rm, isFin (r rm).bits ∧ ((r rm).flags.getLsbD 0 = true ↔ (val (r rm).bits).eqv v = false) ∧ (r rm).flags &&& 0x1C#32 = 0#32 ∧
        le (val (r .rdn).bits) (val (r rm).bits) ∧ le (val (r rm).bits) (val (r .rup).bits)) ∧
      le (val (r .rdn).bits) v ∧ le v (val (r .rup).bits) ∧
      (∀ e, isFin e → (le (val e) v → le (val e) (val (r .rdn).bits)) ∧ (le v (val e) → le (val (r .rup).bits) (val e))) ∧
      (r .rtz).bits = (if v.neg then (r .rup).bits else (r .rdn).bits) ∧
      (∀ e, isFin e → ∀ rm ∈ [RMode.rne, .rna], le (distance v (val (r rm).bits)) (distance v (val e)))

/-- NaN results are canonical, and overflow, infinities and flushing give what R114, R116 and R118 say (R116, R222, R114, R118). -/
def Obligations.SpecialResults : Prop :=
  (∀ (t : Ty) (rm : RMode) (fz : Nat) (d : W32) (sig n : Bool), tyIsFloat t = true →
    roundVal t rm fz d (.nan sig) = (if t ∈ [Ty.f32, .f64, .f16, .bf16, .e5m2, .e4m3] then ⟨canon t, if sig then 16#32 else 0#32, d⟩ else ⟨0, 16#32, d⟩) ∧
    (t ∈ [Ty.f32, .f64, .f16, .bf16, .e5m2] → decodeVal t 0 (roundVal t rm fz d (.inf n)).bits = .inf n ∧ (roundVal t rm fz d (.inf n)).flags = 0#32) ∧
    (∀ v : Exact, v.m ≠ 0 → fz ≠ 0 → v.e + (Nat.log2 v.m : Int) < 1 - ((tyFmt t).bias : Int) →
      roundVal t rm fz d (.fin v) = ⟨if v.neg then 2 ^ (tyWidth t - 1) else 0, 3#32, d⟩) ∧
    (∀ v : Exact, v.m ≠ 0 → v.e + (Nat.log2 v.m : Int) = (if t = .e4m3 then 9 else ((2 ^ (tyFmt t).ebits : Nat) : Int) - ((tyFmt t).bias : Int)) →
      (roundVal t rm fz d (.fin v)).flags = 5#32 ∧ ((tyFmt t).ieee = false → (roundVal t rm fz d (.fin v)).bits % 2 ^ (tyWidth t - 1) = maxEnc t) ∧
      ((tyFmt t).ieee = true → rm = .rtz ∨ (rm = .rdn ∧ v.neg = false) ∨ (rm = .rup ∧ v.neg = true) → (roundVal t rm fz d (.fin v)).bits % 2 ^ (tyWidth t - 1) = maxEnc t) ∧
      ((tyFmt t).ieee = true → rm = .rne ∨ rm = .rna ∨ rm = .rst ∨ (rm = .rdn ∧ v.neg = true) ∨ (rm = .rup ∧ v.neg = false) →
        decodeVal t 0 (roundVal t rm fz d (.fin v)).bits = .inf v.neg))) ∧
  (∀ (rm : RMode) (ts : List Val), (∃ v ∈ ts, v.isNan = true) →
    Val.sum rm ts = .nan (decide ((∃ v ∈ ts, v.isSig = true) ∨ (Val.inf false ∈ ts ∧ Val.inf true ∈ ts)))) ∧
  (∀ (rm : RMode) (ts : List Val), (∀ v ∈ ts, v.isNan = false) → Val.inf false ∈ ts → Val.inf true ∈ ts → Val.sum rm ts = .nan true) ∧
  (∀ (n : Bool) (v w : Exact), v.isZero = true → w.isZero = true → (Val.inf n).mul (.fin v) = .nan true ∧ (Val.fin v).mul (.inf n) = .nan true ∧
    ((Val.inf n).div (.inf (!n))).1 = .nan true ∧ ((Val.fin v).div (.fin w)).1 = .nan true) ∧
  (∀ v : Exact, v.isZero = false → v.neg = true → (Val.fin v).sqrt = .nan true) ∧
  (∀ v w : Exact, v.isZero = false → w.isZero = true → (Val.fin v).div (.fin w) = (.inf (v.neg != w.neg), 8#32))

/-- A tile instruction captures its operands and enters its queues (R263, R265, R269, R270, R272, R274, R277, R278, R321, R281, R317). -/
def Obligations.TileInstructionsEnter : Prop :=
  ∀ (a : TArgs) (s : State) (x0 : Group), x0.interval = false → ∀ q ∈ tileForms a, LaneReady s x0 0 q.vregs [] q.sregs [] →
    (∀ r ∈ q.vregs, ∀ l, l < 32 → 32 * r + l ∉ x0.verr) →
    let x := if q.windowed then s.refill x0 a.win else x0
    let s0 := if q.windowed then s.setGrp s.cur x else s
    let o := s0.tileOpOf x q.kind a (q.vec x)
    let n := if o.wide then 32 else 16
    ((∃ z ∈ o.namedZ, n ≤ z) → exec q.instr s = .next (s0.laneCause x 0 0x02)) ∧
    ((∀ z ∈ o.namedZ, z < n) →
      (q.conv = true → x.head.mask ≠ 0xFFFFFFFF#32 → exec q.instr s = .next (s0.laneCause x 0 0x03)) ∧
      ((q.conv = true → x.head.mask = 0xFFFFFFFF#32) →
        (∀ c, q.pre s0 o = some c → exec q.instr s = .next (s0.laneCause x 0 c)) ∧
        (q.pre s0 o = none → ∀ ps : List Part, (q.rows s0 x).map (fun c => c.res) = ps.map (fun p => .ok p.place) →
          (q.rows s0 x).map (fun c => (c.lane, c.va, c.size)) = ps.map (fun p => (p.lane, p.va, p.size)) →
          ps.map (fun p => ({ lane := p.lane, va := p.va, place := p.place, size := p.size } : Part)) = ps →
          let op : TileOp := { o with rows := ps }
          let free : Prop := (∀ h ∈ op.halvesUsed, (s0.halfQueue op.core h).length < 16) ∧ x.count .t < 31
          s0.issueCheck x.ctx x.strict (s0.inWindow x) (s0.tileCosts op) = .ok →
          (free → ∃ (t : State), exec q.instr s = .next t ∧ TileEntered s x op (s0.tileCosts op) a.e t) ∧
          (¬ free → exec q.instr s = .next s0))))

/-- A running tile operation completes with the effect of its instruction, and leaves its queues, its counter and its charges (R272, R273, R276, R277, R279, R323, R324, R325, R326, R322, R271, R263). -/
def Obligations.TileOperationsComplete : Prop :=
  ∀ (k : Nat) (s : State) (o : TileOp), Map.find s.tileOps k = some o → o.phase = .running → o.spanF = false → CleanOp s o → o.args.shp / 8 < 3 →
    o.halvesUsed.Nodup → o.charge ≠ 0 → o.mism = [] → s.gatherClear o = true →
    let zd := o.args.zd
    let ex := exec (.tileOpComplete k) s
    let inTile (e : Nat) : Bool := decide (e < 32 * o.rowsM)
    let gives (f : Nat → Nat → Option Nat) : Prop := ∃ (t : State), ex = .next t ∧ TileFinished s t k o [] o.watch ∧ GivesTiles s t o f ∧ t.mem = s.mem
    let det : Prop := modeOf o.args.rm o.fmt ≠ .rst
    let dec (v : Nat) : Val := decodeVal .f32 (fmtFZ o.fmt) v
    let stores (m : List Host.Cell) : Prop := ∃ (t : State), ex = .next t ∧ TileFinished s t k o [] o.watch ∧ t.mem = m ∧ t.tiles = s.tiles
    (o.kind = .tld → o.args.ty = .n32 → o.rows.length = 8 * o.rowsM →
      gives (fun z e => if z = zd ∧ inTile e = true then (o.rows[e / 4]?).map (fun p => getLE s.mem (s.homeAt o.ctx 0 p + 4 * (e % 4)) 4) else none)) ∧
    (o.kind = .tst → o.args.ty = .n32 → o.rows.length = 8 * o.rowsM → (∀ i p, o.rows[i]? = some p → p.lane = i / 8 ∧ p.size = 16) →
      stores (updatesRun (fun a _ => a.x) (s.homeAt o.ctx 0) s.mem (o.rows.zipIdx.map (fun pi =>
        { pi.1 with x := packLE 4 ((List.range 4).map (fun j => s.tileAt o o.args.za (4 * pi.2 + j))) }))).1) ∧
    (o.kind = .tzero → gives (fun z e => if z = zd ∧ inTile e = true then some 0 else none)) ∧
    (o.kind = .tcvt → det → tyWidth o.args.bt ≤ 32 → ∃ (t : State), ex = .next t ∧ TileFinished s t k o [] o.watch ∧ t.mem = s.mem ∧ ∀ e, inTile e = true →
      packedElem (tyWidth o.args.bt) e (t.tileByte o zd) = (tcvtElem o (s.tileAt o o.args.za e) 0#32).bits % 2 ^ tyWidth o.args.bt) ∧
    (o.kind = .tadd → o.args.ty = .i32 ∨ det → gives (fun z e => if z = zd ∧ inTile e = true then
      some (if o.args.ty = .i32 then s.tileAt o o.args.za e + s.tileAt o o.args.zb e
        else o.round .f32 (Val.sum (modeOf o.args.rm o.fmt) [dec (s.tileAt o o.args.za e), dec (s.tileAt o o.args.zb e)])) else none)) ∧
    (o.kind = .tmma ∨ (o.kind = .tmmq ∧ s.paramBad o o = false) → gives (fun z e => if z = zd ∧ inTile e = true then
      (let row := o.sval.toNat + (o.vec.getD (e / 32) 0#32).toNat * o.rowBytesA o.depthK
       let acc := if o.accF then s.tileAt o zd e else 0
       some (if o.kind = .tmma then s.mmaAt o o row acc (e % 32) else s.mmqAt o o row acc (e % 32))) else none)) ∧
    (o.kind = .tmmq → s.paramBad o o = true → ∃ (t : State), ex = .next t ∧ TileFinished s t k o [0x04] o.watch ∧ t.mem = s.mem) ∧
    (∀ ob rest, o.kind = .tmerge → o.stale = false → o.rows = ob :: rest → (∀ p ∈ rest, p.size = 128) →
      stores (setLE (updatesRun (fun a old => packLE 4 ((List.range 32).map (fun j => mergeElem o.args.ty (decide (o.sval.toNat = 0)) (old / 2 ^ (32 * j) % 2 ^ 32)
          (s.tileAt o o.args.za (32 * a.x + j))))) (s.homeAt o.ctx 0) s.mem (rest.zipIdx.map (fun pi => { pi.1 with x := pi.2 }))).1
        (s.homeAt o.ctx 0 ob) 8 ((o.sval.toNat + 1) % 2 ^ 64))) ∧
    (∀ ob rest, o.kind = .tmerge → o.stale = true → o.rows = ob :: rest → s.lineBad (s.homeAt o.ctx 8 ob) = false →
      let v := getLE s.mem (s.homeAt o.ctx 8 ob) 8
      stores (setLE s.mem (s.homeAt o.ctx 8 ob) 8 (if v % 2 = 0 then v + 1 else v))) ∧
    (∀ f : Nat → Nat → Nat, o.kind = .sigz ∧ (∀ i p, f i p = 0) ∨
        det ∧ ((o.kind = .sigx ∧ ∀ i p, f i p = o.round .f32 (sigxElem (s.sigVal o zd) (fun i => dec (o.vec.getD i 0#32).toNat) o.sigdim i p)) ∨
          (o.kind = .sigj ∧ ∀ i p, f i p = o.round .f32 (sigjElem (s.sigVal o o.args.za) (s.sigVal o o.args.zb) o.sigdim i p)) ∨
          (o.kind = .siglog ∧ ∀ i p, f i p = o.round .f32 (siglogElem (s.sigVal o o.args.za) o.sigdim i p))) → 1 ≤ o.sigdim →
      ∃ (t : State), ex = .next t ∧ TileFinished s t k o [] o.watch ∧ t.mem = s.mem ∧ ∀ i p, 1 ≤ i → i ≤ o.sigdepth → p < o.sigdim ^ i →
        t.tileAt o (zd + (sigPlace o.sigdim i p).1) (sigPlace o.sigdim i p).2 = f i p % 2 ^ 32)

/-- Tile operations start, park, resume and run across a spire (R263, R269, R279, R281, R282, R271, R97). -/
def Obligations.TileOperationsScheduled : Prop :=
  ∀ (k : Nat) (s : State) (o : TileOp), Map.find s.tileOps k = some o → o.charge ≠ 0 →
    (o.phase = .queued → (∀ h ∈ o.halvesUsed, (s.halfQueue o.core h).head? = some k) → (s.ctx o.ctx).st = .running → s.tileSources o = true → s.behindParked k o = false → s.behindOwn o = false →
      let waits : Prop := if o.spanF then s.gathered o = false else o.kind = .tmerge ∧ s.objectBad o = false ∧ s.turnOf o < o.sval.toNat
      (¬ waits → o.spanF = false → exec (.tileOpStart k) s =
        .next { s with tileOps := s.tileOps.put k ({ o with phase := .running, stale := o.kind == .tmerge && decide (o.sval.toNat < s.turnOf o) }) }) ∧
      (waits → ∃ (t : State), exec (.tileOpStart k) s = .next t ∧ Map.find t.tileOps k = some { o with phase := .parked } ∧
        (∀ h ∈ o.halvesUsed, k ∉ t.halfQueue o.core h) ∧ (t.ctx o.ctx).ledger = (s.ctx o.ctx).ledger.filter (fun c => c.key != o.charge) ∧ t.groups = s.groups ∧ t.tiles = s.tiles ∧ t.mem = s.mem)) ∧
    (∀ i : Instr, (i = .tmergeResume k ∧ o.kind = .tmerge ∧ o.phase = .parked ∧ (s.objectBad o = true ∨ o.sval.toNat = s.turnOf o)) ∨ (i = .parkedOpRecheck k ∧ o.phase = .waiting ∧ o.spanF = false) → (s.ctx o.ctx).st = .running →
      let fits : Prop := s.halvesIdle o = true ∧ s.issueCheck o.ctx false true (s.tileCosts o) = .ok
      (fits → ∃ (t : State), exec i s = .next t ∧ Map.find t.tileOps k = some { o with phase := .running } ∧ (∀ h ∈ o.halvesUsed, (t.halfQueue o.core h).head? = some k) ∧
        (t.ctx o.ctx).ledger = (s.ctx o.ctx).ledger ++ ((s.tileCosts o).filter (fun c => c.amt != 0)).map (fun c => (⟨o.charge, c.res, c.amt, (s.ctx o.ctx).epoch, c.floor⟩ : Charge)) ∧
        t.groups = s.groups ∧ t.tiles = s.tiles ∧ t.mem = s.mem) ∧
      (¬ fits → exec i s = .next { s with tileOps := s.tileOps.put k { o with phase := .waiting } })) ∧
    (∀ i : Instr, o.spanF = true → (i = .spanInstanceStart k ∧ (o.phase = .parked ∨ o.phase = .queued)) ∨ (i = .parkedOpRecheck k ∧ o.phase = .waiting) → (s.ctx o.ctx).st = .running →
      s.gathered o = true → (∀ kv ∈ s.instanceOf o, kv.2.phase = .parked ∨ kv.2.phase = .waiting ∨ s.tileReady kv.1 kv.2 = true) → (∀ kv ∈ s.instanceOf o, s.tileSources kv.2 = true ∧ s.gatherClear kv.2 = true) →
      (∀ kv ∈ s.instanceOf o, kv.2.wide = o.wide ∧ kv.2.args.zd < 16 ∧ kv.2.args.shp / 8 < 3 ∧ Map.find s.tileOps kv.1 = some kv.2) → ((s.instanceOf o).map (fun kv => kv.2.part)).Nodup →
      ((s.instanceOf o).map (fun kv => kv.1)).Nodup →
      ∀ ld ∈ s.instanceOf o, (s.instanceOf o).find? (fun kv => s.leads kv.2) = some ld → ld.2.args.shp / 8 < 3 → (∀ kv ∈ s.instanceOf o, s.matRecs kv.2 ld.2 = []) →
        (∀ u, s.chargeAll (s.instanceOf o) = some u → ∃ (t : State), exec i s = .next t ∧ t.mem = s.mem ∧ ∀ kv ∈ s.instanceOf o, Map.find t.tileOps kv.1 = some { kv.2 with phase := .running } ∧
          ∀ w ∈ (s.matWrites kv.2 ld.2).1, t.tileAt kv.2 w.1 w.2.1 = w.2.2 % 2 ^ 32) ∧
        (s.chargeAll (s.instanceOf o) = none → ∃ (t : State), exec i s = .next t ∧ t = { s with tileOps := t.tileOps } ∧
          ∀ kv ∈ s.instanceOf o, Map.find t.tileOps kv.1 = some (if kv.2.phase = .parked then { kv.2 with phase := .waiting } else kv.2))) ∧
    ((o.phase = .running ∧ o.spanF = true ∧ (∀ p ∈ o.rows, s.served o.ctx p = true)) ∨ ((o.phase = .parked ∨ o.phase = .waiting) ∧ s.cancelled o.launch = true) → o.halvesUsed.Nodup →
      ∃ (t : State), exec (.tileOpComplete k) s = .next t ∧ TileFinished s t k o [] (if o.phase = .running then o.watch else []) ∧ t.mem = s.mem ∧ t.tiles = s.tiles)

/-- cpy, cpy2d and coll raise their causes in order, or start and write their handle (R284, R285, R286, R287, R289, R293, R294, R295, R296, R98, R196). -/
def Obligations.CopiesAndCollectivesIssue : Prop :=
  ∀ (a : AArgs) (s : State) (x : Group), s.memQueued x = false →
    let handle (kind : Nat) : W64 := BitVec.ofNat 64 (kind * 2 ^ 60 + (s.lau x.launch).lid * 2 ^ 44 + x.gid * 2 ^ 34 + x.hseq)
    let regs (y : Group) (kind : Nat) : Prop := ∀ r, y.sr r = if r = a.sd ∧ a.sd ≠ 0 then handle kind else x.sr r
    ((s.lau x.launch).lid < 2 ^ 16 ∧ x.gid < 2 ^ 10 ∧ x.hseq < 2 ^ 34) →
    (∀ q ∈ [(Instr.cpy a, false, 2 ^ 36), (Instr.cpy2d a, true, 2 ^ 24)], ScalarReady s x (if q.2.1 then [a.sa, a.sb, a.sc, a.ss, a.ss + 1, a.ss + 2] else [a.sa, a.sb, a.sc]) [a.sd] [] →
      let n := (x.sr a.sc).toNat
      let rows := if q.2.1 then (x.sr a.ss).toNat else 1
      let src := (x.sr a.sb).toNat
      let dst := (x.sr a.sa).toNat
      let c := s.copyOf s.cur x a q.2.1
      let fit : Prop := n ≤ q.2.2 ∧ rows ≤ 65535 ∧ rows * n ≤ 2 ^ 36
      let k := s.copies.fresh
      let cs := s.copyCosts c
      (¬ fit → exec q.1 s = .next (s.trapGroup s.cur 0x04)) ∧
      (fit → q.2.1 = false → 0 < n → src < dst + n → dst < src + n → exec q.1 s = .next (s.trapGroup s.cur 0x04)) ∧
      (∀ e, s.copyCause c q.2.2 (s.scrSize x) = some e → exec q.1 s = .next (s.trapGroup s.cur e)) ∧
      (s.copyCause c q.2.2 (s.scrSize x) = none →
        (rows * n = 0 → x.count .c < 31 → ∃ (y : Group), exec q.1 s = .next ({ s with clock := s.clock + 1 }.setGrp s.cur y) ∧ regs y 1 ∧ Map.find y.handles x.hseq = some ⟨1, k, 1⟩ ∧
          y = { x with sreg := y.sreg, serr := y.serr, hseq := x.hseq + 1, handles := y.handles, ops := y.ops, pc := x.pc + 4#64 }) ∧
        (rows * n ≠ 0 → 256 ≤ (s.outstanding x.ctx).length → exec q.1 s = .next (s.setGrp s.cur { x with stalled := true })) ∧
        (rows * n ≠ 0 → (s.outstanding x.ctx).length < 256 → s.issueCheck x.ctx x.strict (s.inWindow x) cs = .ok → x.count .c < 31 →
          ∃ (t : State) (y : Group) (w : _), exec q.1 s = .next t ∧ t = { s with ctxs := t.ctxs, touched := t.touched, copies := t.copies, clock := s.clock + 1 }.setGrp s.cur y ∧ regs y 1 ∧
            Map.find y.handles x.hseq = some ⟨1, k, 0⟩ ∧ y = { x with sreg := y.sreg, serr := y.serr, hseq := x.hseq + 1, handles := y.handles, ops := x.ops ++ [(⟨s.clock + 1, .c, false⟩ : OpEntry)], pc := x.pc + 4#64 } ∧
            Map.find t.copies k = some { c with opId := s.clock + 1, charge := s.clock + 1, handle := x.hseq, watch := w } ∧ (∀ j, j ≠ k → Map.find t.copies j = Map.find s.copies j) ∧
            (c.src = src ∧ c.dst = dst ∧ c.n = n ∧ c.rows = rows ∧ c.moved = 0 ∧ c.status = 0) ∧
            (t.ctx x.ctx).ledger = (s.ctx x.ctx).ledger ++ (cs.filter (fun p => p.amt != 0)).map (fun p => (⟨s.clock + 1, p.res, p.amt, (s.ctx x.ctx).epoch, p.floor⟩ : Charge))))) ∧
    (ScalarReady s x [a.sa, a.sb, a.sc, a.ss] [a.sd] [] →
      let tile : Prop := a.til = true ∧ (if (s.blockOf x).wide then 32 else 16) ≤ a.zt
      let obj := (x.sr a.ss).toNat % 2 ^ 48
      (tile → exec (.coll a) s = .next (s.trapGroup s.cur 0x02)) ∧
      (¬ tile → s.readComm x.ctx (x.sr a.sb).toNat = none → exec (.coll a) s = .next (s.trapGroup s.cur 0x04)) ∧
      (∀ e, ¬ tile → s.collCheck x a = .error e → exec (.coll a) s = .next (s.trapGroup s.cur e)) ∧
      (∀ j, ¬ tile → s.collCheck x a = .ok j →
        let fits : Prop := (s.collPrice x.ctx (dieOfCore x.core) j).top ≤ (s.ctx x.ctx).checkBound - 700
        (¬ fits → exec (.coll a) s = .next (s.trapGroup s.cur 0x31)) ∧
        (fits → x.count .k < 31 → ∃ (t : State) (y : Group) (k : _) (i : _), exec (.coll a) s = .next t ∧ t = { s with scratch := t.scratch, freeCtr := t.freeCtr, colls := t.colls, clock := s.clock + 1 }.setGrp s.cur y ∧
          regs y 2 ∧ Map.find y.handles x.hseq = some ⟨2, k, 0⟩ ∧
          y = { x with sreg := y.sreg, serr := y.serr, hseq := x.hseq + 1, handles := y.handles, collN := y.collN, ops := x.ops ++ [(⟨s.clock + 1, .k, false⟩ : OpEntry)], pc := x.pc + 4#64 } ∧
          Map.get 0 y.collN obj = Map.get 0 x.collN obj + 1 ∧ Map.find t.colls k = some i ∧ i.started = false ∧ i.block = x.block ∧ i.obj = obj ∧ i.inst = Map.get 0 x.collN obj ∧
          ∃ m ∈ i.joined, m.group = s.cur ∧ m.args = a ∧ m.comm = (x.sr a.sb).toNat ∧ m.buf = (x.sr a.sa).toNat ∧ m.count = (x.sr a.sc).toNat ∧ m.hseq = x.hseq)))

/-- The copy engine moves a copy's bytes in order, suspends at a missing page, resumes, and completes or fails (R287, R288, R290, R291, R129, R398, R97). -/
def Obligations.CopyEngine : Prop :=
  (∀ (k : Nat) (s : State) (c : Copy), Map.find s.copies k = some c → c.charge ≠ 0 →
    let runs : Prop := c.status = 0 ∧ c.suspended = false ∧ (s.ctx c.ctx).st = .running ∧ s.copySources c = true
    let ended (status : Nat) (t : State) : Prop := Map.find t.copies k = none ∧ (∀ j, j ≠ k → Map.find t.copies j = Map.find s.copies j) ∧
      (t.ctx c.ctx).ledger = (s.ctx c.ctx).ledger.filter (fun e => e.key != c.charge) ∧
      ∀ (g : Nat) (x : Group) (h : Handle), c.group = some g → c.packet = none → Map.find s.groups g = some x → Map.find x.handles c.handle = some h →
        Map.find t.groups g = some { x.finishOp c.opId with handles := x.handles.put c.handle { h with status := status } } ∧ ∀ j, j ≠ g → Map.find t.groups j = Map.find s.groups j
    (runs → c.moved < c.total → 0 < c.n → c.ahead = 0 →
      let i := c.moved / c.n
      let o := c.moved % c.n
      let sa := (rowAt c.src c.sstride i + (o : Int)).toNat
      let da := (rowAt c.dst c.dstride i + (o : Int)).toNat
      let z := if sa % 8 = 0 ∧ da % 8 = 0 ∧ 8 ≤ c.n - o then 8 else 1
      (∀ pa page typ gen qa qpage qtyp qgen, s.copyPlace c sa .rd = .ok (.phys pa page typ gen) → s.copyPlace c da .wr = .ok (.phys qa qpage qtyp qgen) →
        s.served c.ctx { va := sa, place := .phys pa page typ gen, size := z } = true → s.served c.ctx { va := da, place := .phys qa qpage qtyp qgen, size := z } = true →
        let hs := homeOf c.ctx page gen pa s.moves
        let hd := homeOf c.ctx qpage qgen qa s.moves
        s.lineBad hs = false → ∃ (t : State), exec (.copyByteTransfer k z) s = .next t ∧ Map.find t.copies k = some { c with moved := c.moved + z, begun := true } ∧ t.groups = s.groups ∧
          ∀ b, getByte t.mem b = if hd ≤ b ∧ b < hd + z then getByte s.mem (hs + (b - hd)) else getByte s.mem b) ∧
      (∀ pg, s.copyPlace c sa .rd = .missing pg →
        ((s.ctx c.ctx).fq.size ≠ 0#64 → ∃ (t : State), exec (.copySuspend k) s = .next t ∧ Map.find t.copies k = some { c with suspended := true, pfPage := some pg } ∧ t.groups = s.groups ∧
          (t.ctx c.ctx).ledger = (s.ctx c.ctx).ledger.filter (fun e => e.key != c.charge)) ∧
        ((s.ctx c.ctx).fq.size = 0#64 → ∃ (t : State), exec (.copySuspend k) s = .next t ∧ ended 3 t)) ∧
      (∀ e, s.copyPlace c sa .rd = .cause e → ∃ (t : State), exec (.copyFail k) s = .next t ∧ ended 3 t)) ∧
    (runs → c.moved = c.total → (c.firstBad = none → ∃ (t : State), exec (.copyComplete k) s = .next t ∧ ended 1 t) ∧ (∀ b, c.firstBad = some b → ∃ (t : State), exec (.copyFail k) s = .next t ∧ ended 3 t)) ∧
    (c.suspended = true → c.pfPage = none → (s.ctx c.ctx).st = .running → s.issueCheck c.ctx false true (s.copyCosts c) = .ok →
      ∃ (t : State), exec (.copyResume k) s = .next t ∧ Map.find t.copies k = some { c with suspended := false, costedAt := c.moved } ∧ t.groups = s.groups ∧ t.mem = s.mem ∧
        (t.ctx c.ctx).ledger = (s.ctx c.ctx).ledger ++ ((s.copyCosts c).filter (fun p => p.amt != 0)).map (fun p => (⟨c.charge, p.res, p.amt, (s.ctx c.ctx).epoch, p.floor⟩ : Charge)))) ∧
  (∀ (g : Nat) (s : State) (x : Group), Map.find s.groups g = some x → x.stalled = true → (s.outstanding x.ctx).length < 256 →
    exec (.copyOverlapStallEnd g) s = .next (s.setGrp g { x with stalled := false }))

/-- A collective starts when its block has joined, exchanges chunks through its slots, and completes or fails on its rank (R294, R295, R297, R298, R299, R421, R422, R423, R425, R419). -/
def Obligations.Collectives : Prop :=
  (∀ (k : Nat) (s : State) (i : Coll), Map.find s.colls k = some i → (s.ctx i.ctx).st = .running →
    let j := i.lead
    let ended (status : Nat) (t : State) : Prop := Map.find t.colls k = none ∧ ∀ m ∈ i.joined, (i.joined.map (fun n => n.group)).Nodup → ∀ (x : Group) (h : Handle),
      Map.find s.groups m.group = some x → Map.find x.handles m.hseq = some h → ∃ (y : Group), Map.find t.groups m.group = some y ∧ Map.find y.handles m.hseq = some { h with status := status } ∧ y.ops = (x.finishOp m.opId).ops
    (i.started = false → s.collReady i = true → ∀ l ∈ i.joined, (∀ m ∈ i.joined, l.gid < m.gid ∨ m = l) → l.args.til = false ∨ s.tileErr = [] →
      ∃ (t : State) (e : _), exec (.collInstanceStart k) s = .next t ∧ Map.find t.colls k = some e ∧ e.started = true ∧ e.lead = l ∧ e.joined = i.joined ∧ e.seqNo = Map.get 0 (s.ctx i.ctx).commSeq l.comm ∧
        Map.get 0 (t.ctx i.ctx).commSeq l.comm = e.seqNo + 1 ∧ t.groups = s.groups ∧ t.mem = s.mem) ∧
    (i.started = true → i.failed = none → i.allDone = true → ∃ (t : State), exec (.collComplete k) s = .next t ∧ ended 1 t ∧ t.mem = s.mem) ∧
    (i.started = true → i.failed = some 1 ∨ (i.failed ≠ none ∧ ∀ e ∈ i.sent, e.arrived = true) → ∃ (t : State), exec (.collFail k) s = .next t ∧ ended 3 t) ∧
    (∀ (v : CStep) (bs : List Byte) (d : Nat), s.nextStep i = some v → v.tos = [d] → s.stepData i v = some (.ok bs) → s.stepServed i v = true →
      (∀ kv ∈ s.colls, kv.1 = k ∨ s.nextStep kv.2 = none) →
      (s.peerOf i.ctx j.rec_ d = .none → exec (.chunkDepart k) s = .next { s with colls := s.colls.put k { i with failed := some 1 } }) ∧
      (∀ dev port hops index, s.peerOf i.ctx j.rec_ d = .remote dev port hops index →
        s.issueCheck i.ctx false true (s.chunkCosts i.ctx (dieOfCore j.core) j.comm j.rec_ d (if j.args.md = 8 then 128 else bs.length) (i.readFrom v)) = .ok →
        ∃ (t : State), exec (.chunkDepart k) s = .next t ∧ Map.find t.colls k = some { i with sent := i.sent ++ [⟨v.name, d, s.clock + 1, false⟩] } ∧
          Map.get 0 (t.ctx i.ctx).commLast j.comm = s.clock + 2 ∧ t.groups = s.groups)) ∧
    (∀ (src : Nat) (w : SlotChunk), i.started = true → i.failed = none → s.ripe k i = some (src, w) →
      (w.msg.check ≠ j.check → exec (.chunkCombine k) s = .next { s with colls := s.colls.put k { i with failed := some 1 } }) ∧
      (∀ (bs : List Byte) (key : Nat), key = chunkName true w.msg.part 0 w.msg.seg → w.msg.check = j.check → w.msg.up = true → j.args.md = 0 → j.args.til = true → tyIsInt j.args.ty = true → w.msg.dst = 0 →
        (src, ({ up := true, part := w.msg.part, seg := w.msg.seg } : CStep)) ∈ j.receipts → Map.get 0 i.got key ≤ j.rec_.kidIndex src → w.msg.data.length = j.segLen w.msg.seg →
        Map.find i.red key = some bs → j.rec_.rank ≠ j.rec_.root →
        ∃ (t : State) (e : _), exec (.chunkCombine k) s = .next t ∧ Map.find t.colls k = some e ∧ Map.get 0 e.got key = Map.get 0 i.got key + 1 ∧ t.groups = s.groups ∧
          Map.find e.red key = some (zipElems j.width (fun _ u v => (u + v) % 2 ^ tyWidth j.args.ty) (bs.length / j.width) 0 bs w.msg.data)))) ∧
  (∀ (c comm src : Nat) (msg : Chunk) (s : State) (m : Comm), s.readComm c comm = some m →
    (∀ n, n = s.oldestInst c comm → s.instOver c comm n = false → exec (.failNotice c comm src) s = .next { s with failNotes := s.failNotes ++ [⟨c, comm, src, n⟩] }) ∧
    ∀ dev port hops index, s.peerOf c m src = .remote dev port hops index →
      (s.oldestSent c comm src = none → ∃ (t : State), exec (.slotReleaseNotice c comm src) s = .next t ∧ t = { s with ctxs := t.ctxs } ∧
        Map.get 0 (t.ctx c).notified (256 * comm + src) = (Map.get 0 (s.ctx c).notified (256 * comm + src) + 1) % 2 ^ 32) ∧
      (Map.find (Map.get {} s.ports port).paused (8 + comm) = none → (s.waiting c comm src).length < 8 → msg.data.length ≤ 65536 →
        (s.vMapped c (s.nextSlot c comm m src) msg.data.length = true → (∀ w, s.instOver c comm w = false) →
          exec (.chunkArrive c comm src msg) s = .next { (s.vWriteBytes c (s.nextSlot c comm m src) msg.data) with
            slotChunks := (s.vWriteBytes c (s.nextSlot c comm m src) msg.data).slotChunks ++ [{ ctx := c, comm := comm, src := src, msg := msg }] }) ∧
        (s.vMapped c (s.nextSlot c comm m src) msg.data.length = false → ∃ (t : State) (page : _), exec (.chunkArrive c comm src msg) s = .next t ∧
          Map.find (Map.get {} t.ports port).paused (8 + comm) = some (page, c) ∧ t.slotChunks = s.slotChunks)))

/-- Binding checks the descriptor, computes B, asks for slots or fails, and otherwise fixes B, the core count, the backing and the constants (R24, R29, R172, R173, R174, R175, R190, R364, R409). -/
def Obligations.LaunchBinds : Prop :=
  ∀ (l : Nat) (s : State) (x : Launch), Map.find s.launches l = some x →
    let c := s.ctx x.ctx
    let k := s.readDesc x.ctx x.lr.kdesc
    let ps := spansOf c.holds k
    let fails (cause : Nat) : Prop := ∃ (t : State), exec (.launchBind l) s = .next t ∧ LaunchEnded s t l { x with fail := cause } (4 + 256 * cause) 3
    let well := ¬ k.outOfLimits ∧ (k.prio = true → s.OrderTable x.ctx x.lr.uorder x.lr.units)
    (x.phase ≠ .unbound ∨ (c.st ≠ .running ∧ c.st ≠ .ready) → exec (.launchBind l) s = .next s) ∧
    (x.phase = .unbound → c.st = .running ∨ c.st = .ready →
      (¬ well → fails 1) ∧
      (well → k.fitsNoSlot → fails 2) ∧
      (well → ¬ k.fitsNoSlot →
        (ps = [] → spansOf s.sound k = [] → fails 2) ∧
        (ps = [] → spansOf s.sound k ≠ [] → exec (.launchBind l) s = .next (s.setCtx x.ctx { c with slotWant := true })) ∧
        (ps ≠ [] → x.lr.privsz < ps.length * k.g * 2 ^ k.spanCode * k.priv * 32 → fails 3) ∧
        (ps ≠ [] → ps.length * k.g * 2 ^ k.spanCode * k.priv * 32 ≤ x.lr.privsz →
          let boundTo (u : State) (d : Nat) : Prop :=
            let kd := u.readDesc x.ctx (x.lr.kdesc + d)
            let s0 := match x.oldLid with | some old => u.post x.ctx .event 20 0 x.lid 0xFFFF old c.cores | none => u
            ∃ (t : State) (tab : _), exec (.launchBind l) s = .next t ∧ t = s0.setLau l { x with
                phase := .bound, kd := kd, b := ps.length, ncores := c.cores, pb := x.lr.privb, places := ps, budget := kd.pushb
                copyAt := some d, oldLid := none, ctab := tab } ∧
              tab.length = kd.csize ∧
              ∀ i, i < kd.csize → ∀ bs, t.fetchAt { launch := l, ctx := x.ctx } (kd.cbase + 8 * i) 8 = .bytes bs → tab[i]? = some (BitVec.ofNat 64 (leNat bs))
          (s.imageOf x = none → boundTo s 0) ∧
          ∀ im, s.imageOf x = some im → (s.copyPlaceOf x im = none → exec (.launchBind l) s = .next s) ∧
            ∀ p, s.copyPlaceOf x im = some p → boundTo (s.makeCopy x.ctx (c.core0 / 80) c.cores im p) p.delta))) ∧
    (∀ (r : Reloc) (d n : Nat), (r.moved d).patch n = ⟨r.addr + d,
      if r.typ = 1 then leBytes 8 (r.value + d) else if r.typ = 2 then leBytes 2 ((r.value + d) / 2 ^ (16 * r.param)) else if r.param = 0 then leBytes 2 n else leBytes 8 n⟩)

/-- A launch is placed all or nothing, its blocks at its spans and its groups as groups start; children go by age (R18, R22, R24, R25, R26, R36, R262, R365, R456, R172, R432). -/
def Obligations.LaunchPlaces : Prop :=
  (∀ (l : Nat) (s t0 : State) (x : Launch), Map.find s.launches l = some x → x.parent = none →
    let holds (n h : Nat) : Prop := (s.ctx x.ctx).holds n h = true
    let held := ∀ p ∈ x.places, ∀ i, i < 2 ^ x.kd.spanCode → if x.kd.wide then holds (p.1 + i) 0 ∧ holds (p.1 + i) 1 else holds (p.1 + i) p.2
    (x.phase = .bound → (s.ctx x.ctx).st = .running → held → s.addBlocks l x.places.zipIdx = some t0 → (∀ kv ∈ s.kids x.ctx, kv.2.order < x.order → s.placedNow kv.1 = none) →
      ∃ (t : State), exec (.launchPlace l) s = .next t ∧ LaunchPlaced s t l x) ∧
    (s.addBlocks l x.places.zipIdx = none → exec (.launchPlace l) s = .next s) ∧
    (x.phase ≠ .bound ∨ (s.ctx x.ctx).st ≠ .running → exec (.launchPlace l) s = .next s) ∧
    (∀ k y, (k, y) ∈ s.kids x.ctx → y.order < x.order → (s.placedNow k).isSome = true → exec (.launchPlace l) s = .next s)) ∧
  (∀ (c l : Nat) (s : State) (x : Launch), Map.find s.launches l = some x → x.ctx = c →
    ((s.kids c).find? (fun kv => (s.placedNow kv.1).isSome) = some (l, x) → ∃ (u t : State) (y : Launch), (if x.phase = .bound then u = s else exec (.launchBind l) s = .next u) ∧
      Map.find u.launches l = some y ∧ y.phase = .bound ∧ exec (.childPlace c) s = .next t ∧ LaunchPlaced u t l y) ∧
    ((∀ kv ∈ s.kids c, s.placedNow kv.1 = none) → exec (.childPlace c) s = .next s) ∧
    (∀ kv ∈ s.kids c, kv ∈ s.launches ∧ kv.2.ctx = c ∧ kv.2.parent ≠ none ∧ (kv.2.phase = .unbound ∨ kv.2.phase = .bound)) ∧
    (s.kids c).Pairwise (fun a b => a.2.order ≤ b.2.order))

/-- A quiet launch applies its deferred atomics in key order, then completes with its status word; a diverged replay fails with cause 5 (R27, R33, R34, R254, R255, R257, R299, R360, R363, R444, R438). -/
def Obligations.LaunchCompletes : Prop :=
  ∀ (l : Nat) (s : State) (x : Launch), Map.find s.launches l = some x → x.phase = .running →
    (s.launchQuiet l = false → exec (.applyOrderedAtomics l) s = .next s ∧ exec (.launchComplete l) s = .next s) ∧
    let asLogged (e : OrdEntry) : OrdEntry := match e.logAt with
      | none => e
      | some i => e.reread ((List.range 64).map (fun j => s.vByte x.ctx (x.lr.dlog + 64 * i + j)))
    (s.launchQuiet l = true → x.ordsApplied = false → s.errLines = [] → s.errFrames = [] → s.contained = [] → ∃ (t : State) (es : List OrdEntry), exec (.applyOrderedAtomics l) s = .next t ∧
      es.Perm (x.ords.map asLogged) ∧ es.Pairwise (fun a b => b.before a = false) ∧ (∀ a b : OrdEntry, a.before b = true →
        a.root < b.root ∨ (a.root = b.root ∧ (pathLt a.path b.path = true ∨ (a.path = b.path ∧ (a.q < b.q ∨ (a.q = b.q ∧ a.lane < b.lane)))))) ∧
      t = { s with mem := t.mem, errLines := t.errLines, errFrames := t.errFrames, ctxs := t.ctxs, launches := s.launches.put l { x with ords := [], ordsApplied := true } } ∧
      t.mem = (es.foldl (fun (u : State) e =>
        let pa := (u.ctxPa x.ctx e.va).getD e.pa
        let n := tyWidth e.ty / 8
        u.writeMem pa (leBytes n (atomStep e.aop e.ty e.rm e.fmt 0#32 (u.readLE pa n) e.x 0))) s).mem ∧
      (∀ c, c ≠ x.ctx → t.ctx c = s.ctx c) ∧
      t.ctx x.ctx = { s.ctx x.ctx with hits := (s.ctx x.ctx).hits ++ es.flatMap (fun e => s.ordHits l x.ctx e) }) ∧
    (∀ e, s.launchQuiet l = true → x.ordsApplied = false → x.ords = [e] → e.logAt = none → s.lineBad ((s.ctxPa x.ctx e.va).getD e.pa) = true →
      let at_ := (s.ctxPa x.ctx e.va).getD e.pa
      let hit := s.setCtx x.ctx { s.ctx x.ctx with hits := (s.ctx x.ctx).hits ++ s.ordHits l x.ctx e }
      exec (.applyOrderedAtomics l) s = .next ((hit.post x.ctx .fault 4 0x20 x.lid 0xFFFF (s.errLoc at_).1 (s.errLoc at_).2).setLau l { x with ords := [], ordsApplied := true })) ∧
    (∀ k m, s.launchQuiet l = true → x.ordsApplied = true ∨ x.ords = [] → s.missedComms x = [(k, m)] → ∃ (t : State) (n : _) (i : Coll), exec (.launchComplete l) s = .next t ∧
      Map.find s.colls n = none ∧ Map.find t.colls n = some i ∧ i.launch = l ∧ i.started = true ∧ i.failed = some 1 ∧ i.lead.comm = k ∧ i.seqNo = Map.get 0 (s.ctx x.ctx).commSeq k ∧
      Map.get 0 (t.ctx x.ctx).commSeq k = i.seqNo + 1 ∧ (t.lau l).phase = .running) ∧
    (s.launchQuiet l = true → x.ordsApplied = true ∨ x.ords = [] → s.missedComms x = [] →
      ∃ (t : State), LaunchEnded s t l x (1 + (if x.cancelled then 2 else 0) + (if x.fail = 0 then 0 else 4 + 256 * x.fail)) (if x.fail = 0 then 1 else 3) ∧
        exec (.launchComplete l) s = .next { t with
          groups := t.groups.filter (fun kv => kv.2.launch != l), blocks := t.blocks.filter (fun kv => kv.2.launch != l) }) ∧
    (s.replaying x = true → x.cancelled = false →
      let gs := s.groups.filter (fun kv => kv.2.launch == l && kv.2.residence != .ended)
      let waits (kv : Nat × Group) : Prop := kv.2.wait = .dfetch ∧ ∃ e, s.listed kv.1 = some e ∧ s.takeListed l e = none
      (gs ≠ [] → (∀ kv ∈ gs, waits kv) → ∃ (t : State), exec (.replayDiverged l) s = .next t ∧ (t.lau l).fail = 5 ∧ (t.lau l).cancelled = true ∧
        ((∀ kv ∈ s.launches, kv.2.parent = none) → t = s.setLau l { x with fail := 5, cancelled := true }) ∧
        ∀ k y g n, (k, y) ∈ s.launches → k ≠ l → y.parent = some (g, n) → (s.grp g).launch = l → (Map.find s.groups g).isSome = true →
          y.phase = .unbound ∨ y.phase = .bound → (t.lau k).phase = .finished) ∧
      ((∃ kv ∈ gs, ¬ waits kv) → exec (.replayDiverged l) s = .next s))

/-- The stack cache writes back in the background, and a join wait that has run out resolves by itself (R77, R402, R55, R50). -/
def Obligations.BackgroundWork : Prop :=
  (∀ (core : Nat) (s : State) (ln : StackLine),
    let dirty := s.stack.filter (fun n => n.core == core && n.dirty != 0#32 && !n.stuck && s.backServed n.ctx n.backing &&
      (decide (384 < (s.stack.filter (fun m => m.core == core)).length) || ((s.ctx n.ctx).st != .running && (s.ctx n.ctx).st != .vacating)))
    let put (f : StackLine → StackLine) : List StackLine := s.stack.map (fun n => if n.core = ln.core ∧ n.ctx = ln.ctx ∧ n.group = ln.group ∧ n.off = ln.off then f n else n)
    let done (o : Out) : Prop :=
      let leads := s.resolveGlobal (.core ln.core) ln.ctx ln.backing .wr
      ((∃ pl, leads = .ok pl) → ∃ (t : State), o = .next t ∧
        t = { s with stack := put (fun n => { n with dirty := 0#32, stuck := false }), mem := t.mem, peerMem := t.peerMem, errLines := t.errLines, errFrames := t.errFrames } ∧
        let u := (lanesOf ln.dirty).foldl (fun u i => u.vWrite ln.ctx (ln.backing + 4 * i) 4 (ln.data.getD i 0#32).toNat) s
        t.mem = u.mem ∧ t.peerMem = u.peerMem) ∧
      (∀ c, leads = .cause c → o = .next { s with stack := put (fun n => { n with stuck := true, again := false }) }) ∧
      (∀ pg, leads = .missing pg →
        let u := s.post ln.ctx .fault 1 0 0xFFFF 0xFFFF pg 1
        let u' := if pg ∈ (s.ctx ln.ctx).pfRecs then s else if (s.ctx ln.ctx).fq.size = 0#64 then u
          else u.setCtx ln.ctx { u.ctx ln.ctx with pfRecs := pg :: (s.ctx ln.ctx).pfRecs }
        o = .next { u' with stack := put (fun n => { n with stuck := true, again := false }) })
    (ln ∈ dirty → (∀ n ∈ dirty, n ≠ ln → ln.used < n.used) → done (exec (.stackWriteback core) s)) ∧
    (dirty = [] → exec (.stackWriteback core) s = .next s) ∧
    let retried := s.stack.filter (fun n => n.core == core && n.stuck && n.again && s.backServed n.ctx n.backing)
    (retried = [ln] → done (exec (.stackWritebackRetry core) s)) ∧
    (retried = [] → exec (.stackWritebackRetry core) s = .next s)) ∧
  (∀ (g i : Nat) (s : State) (x : Group) (e : FEntry), Map.find s.groups g = some x →
    let lapsed (f : FEntry) : Bool := f.kind == .joinWait && f.lapsed
    (x.trap ≠ none → exec (.joinWaitTimeout g) s = .next s) ∧
    ((∀ f ∈ x.front, lapsed f = false) → ∃ (t : State), exec (.joinWaitTimeout g) s = .next t ∧ t = { s with groups := t.groups } ∧ ∀ h, Map.find t.groups h = Map.find s.groups h) ∧
    (x.trap = none → s.issuing x = true → x.wait = .none ∨ x.wait = .frontier → x.front[i]? = some e → lapsed e = true →
      (∀ j f, x.front[j]? = some f → lapsed f = true → j = i) →
      ∃ (y : Group), exec (.joinWaitTimeout g) s = .next (s.setGrp g y) ∧
        y = { x with front := y.front, sreg := y.sreg, serr := y.serr, m0 := e.mask, fmt := e.fmt, pc := BitVec.ofNat 64 (4 * e.addr + 4), wait := .none } ∧
        (∀ r, y.sr r = if r = e.sd then 0#64 else x.sr r) ∧
        ∀ a, y.pathAt a = if x.wait = .none ∧ a = x.pc.toNat / 4 then x.pathAt a ||| x.m0 else x.pathAt a))

/-- A vacate enters the handlers, closes their window, drains, exchanges active and shadow storage, and spills (R137, R138, R61, R339, R347, R348, R350, R26, R403, R458). -/
def Obligations.VacateSequence : Prop :=
  ∀ (c : Nat) (s : State),
    let x := s.ctx c
    let shadow (i : Nat) : Shadow := Map.get .empty s.shadows i
    let vacating (y : Group) : Prop := y.residence ≠ .ended ∧ ∃ r, y.trap = some r ∧ r.handler = .vacate
    let refused (e : Nat) : Prop := exec (.vacate c) s = .next (s.setCtx c { x with err := e })
    let restarted (y : Copy) : Copy := if y.ctx = c ∧ y.suspended = true
      then { y with moved := 0, costedAt := 0, ahead := 0, lastBad := none, pfPage := none, firstBad := none, skipLines := [] } else y
    let clear : Prop := ∀ i, i < 1440 → x.part.getLsbD i = true → shadow i = .empty ∨ ∃ d, d ≠ c ∧ shadow i = .loaded d
    (x.st ≠ .running → refused 5) ∧ (x.st = .running → ¬ clear → refused 1) ∧
    (x.st = .running → clear → (s.groups.map (fun kv => kv.1)).Nodup → ∃ (t : State) (v : Vacate), exec (.vacate c) s = .next t ∧
      t = { s with groups := t.groups, launches := t.launches, copies := t.copies, ctxs := t.ctxs, marks := .vacated c :: s.marks } ∧ (∀ d, d ≠ c → t.ctx d = s.ctx d) ∧
      t.ctx c = { x with st := .vacating, vac := some v } ∧ v.t0 = s.gtime ∧ v.d = (s.oldVbcur c).getD x.vbcur.toNat - x.estimate ∧ v.for_ = none ∧
      (v.keep = true ↔ ∃ kv ∈ s.launches, kv.2.ctx = c ∧ kv.2.phase ≠ .finished) ∧
      (v.open_ = true ↔ x.novh = false ∧ ∃ h z, Map.find t.groups h = some z ∧ z.ctx = c ∧ vacating z) ∧
      (∀ g y, Map.find s.groups g = some y → (y.ctx ≠ c → Map.find t.groups g = some y) ∧
        (y.ctx = c →
          let enters : Prop := x.novh = false ∧ y.residence = .resident ∧ y.trap = none ∧ y.pfWait = [] ∧ (s.kd y).vh = true ∧
            (s.lau y.launch).phase = .running ∧ (∀ va o, y.wait ≠ .wwait va o) ∧ (∀ l, y.wait ≠ .join l) ∧ ¬(y.atEdge = true ∧ y.dbgStop ≠ none)
          (enters → Map.find t.groups g = some { y with
            trap := some { pc := y.pc, m0 := y.m0, fmt := y.fmt, f := y.unretired, held := y.queue, i := none, whole := true, tcause := 0x32#32, handler := .vacate, atT0 := true }
            pc := BitVec.ofNat 64 (s.kd y).vhand, m0 := y.unretired, queue := [], replay := none, wait := .none, stalled := false, vdone := false, window := false }) ∧
          (¬ enters → ∃ w : Bool, Map.find t.groups g = some { y with vdone := false, window := w, trap := y.trap.map (fun r => { r with atT0 := true }) } ∧ (w = true ↔ v.open_ = false ∧ vacating y)))) ∧
      (∀ l y, Map.find s.launches l = some y → Map.find t.launches l = some (if y.ctx = c ∧ y.phase = .bound then { y with phase := .unbound } else y)) ∧
      (∀ k y, Map.find s.copies k = some y → Map.find t.copies k = some (restarted y))) ∧
    (∀ v, x.vac = some v → v.open_ = true →
      (v.t0 + v.d ≤ s.gtime ∨ (∀ g y, (g, y) ∈ s.groups → y.ctx = c → ¬ vacating y) →
        ∃ (t : State), exec (.handlerWindowClose c) s = .next t ∧ t = { s with groups := t.groups }.setCtx c { x with vac := some { v with open_ := false } } ∧
          ∀ g y, Map.find s.groups g = some y → ∃ w : Bool, Map.find t.groups g = some { y with window := w } ∧ (w = true ↔ y.window = true ∨ (y.ctx = c ∧ vacating y))) ∧
      (s.gtime < v.t0 + v.d → (∃ (g : _) (y : Group), (g, y) ∈ s.groups ∧ y.ctx = c ∧ vacating y) → exec (.handlerWindowClose c) s = .next s)) ∧
    (∀ v, x.vac = some v → (x.ledger ≠ [] ∨ v.open_ = true → exec (.vacateDrainDone c) s = .next s) ∧
      (x.st = .vacating → v.open_ = false → v.for_ = none → x.ledger = [] → clear → s.retCores = [] → s.retDies = [] → (∀ d y, (d, y) ∈ s.ctxs → y.slotWant = false ∧ y.pfHeld = []) →
        (∀ g y, (g, y) ∈ s.groups → y.ctx = c → y.residence = .resident → y.pend = [] ∧ y.pfWait = []) →
        let own (i : Nat) : Prop := x.part.getLsbD i = true
        let back (d i : Nat) : Prop := own i ∧ shadow i = .loaded d ∧ (s.ctx d).image ≠ none
        ∃ (t : State) (im : Image), exec (.vacateDrainDone c) s = .next t ∧
          t = { s with tiles := t.tiles, tileErr := t.tileErr, scratch := t.scratch, scrErr := t.scrErr, scrOwner := t.scrOwner, groups := t.groups
                       copies := t.copies, shadows := t.shadows, ctxs := t.ctxs } ∧
          (∀ k y, Map.find s.copies k = some y → Map.find t.copies k = some (restarted y)) ∧
          t.ctx c = { x with st := .spilling, part := 0#1440, vac := none, image := some im } ∧ im.keep = v.keep ∧ (∀ i, i ∈ im.slots ↔ own i) ∧
          (∀ g, g ∈ im.groups ↔ ∃ (y : Group), (g, y) ∈ s.groups ∧ y.ctx = c ∧ y.residence = .resident) ∧
          (∀ k, Map.get 0#32 im.tiles k = if x.part.getLsbD (k / 65536) then Map.get 0#32 s.tiles k else 0#32) ∧
          (∀ k, Map.get 0#8 im.scratch k = if x.part.getLsbD (k / 262144) then Map.get 0#8 s.scratch k else 0#8) ∧
          (∀ i, Map.get .empty t.shadows i = if x.part.getLsbD i then .spilling c else shadow i) ∧
          (∀ k, ¬ own (k / 65536) → Map.get 0#32 t.tiles k = Map.get 0#32 s.tiles k) ∧ (∀ k, ¬ own (k / 262144) → Map.get 0#8 t.scratch k = Map.get 0#8 s.scratch k) ∧
          (∀ k, own (k / 65536) → shadow (k / 65536) = .empty → Map.get 0#32 t.tiles k = 0#32) ∧
          (∀ k, own (k / 262144) → shadow (k / 262144) = .empty → Map.get 0#8 t.scratch k = 0#8) ∧
          (∀ d i jm k w, back d i → (s.ctx d).image = some jm → k / 65536 = i → (k, w) ∈ jm.tiles → (∀ w', (k, w') ∈ jm.tiles → w' = w) → Map.get 0#32 t.tiles k = w) ∧
          (∀ d, d ≠ c → ∀ i, (t.ctx d).part.getLsbD i = true ↔ (s.ctx d).part.getLsbD i = true ∨ back d i) ∧
          (∀ d jm, (∃ i, back d i) → (s.ctx d).image = some jm → (s.ctx d).st = .resuming → (∀ i ∈ jm.slots, (s.ctx d).part.getLsbD i = true ∨ back d i) →
            (t.ctx d).st = .running ∧ (t.ctx d).image = none ∧ (t.ctx d).evt.getLsbD 4 = true) ∧
          ∀ g y, Map.find s.groups g = some y →
            (y.ctx = c → Map.find t.groups g = some { y with residence := if y.residence = .resident then .image else y.residence, vdone := false }) ∧
            (y.ctx ≠ c → y.residence = .image → back y.ctx (2 * y.core + y.slot) → Map.find t.groups g = some { y with residence := .resident }) ∧
            (y.ctx ≠ c → ¬(y.residence = .image ∧ back y.ctx (2 * y.core + y.slot)) → Map.find t.groups g = some y))) ∧
    (x.st ≠ .spilling → exec (.spillDone c) s = .next s) ∧
    (∀ im, x.st = .spilling → x.image = some im → ∃ bs, bs.length = 1310720 * im.slots.length ∧
      exec (.spillDone c) s = .next ({ s.vWriteBytes c x.vibase.toNat bs with freeCtr := s.freeCtr + 1310720 * im.slots.length, shadows := s.shadows.filter (fun kv => kv.2 != Shadow.filling c && kv.2 != Shadow.loaded c && kv.2 != Shadow.spilling c) }.setCtx c
        (if im.keep then { x with st := .vacated, evt := x.evt ||| 8#64 } else { x with st := .ready, image := none, evt := x.evt ||| 8#64 })))

/-- RESUME fills the shadows, the exchange installs the images once the slots are free, and DISABLE frees the context (R339, R340, R341, R349, R354). -/
def Obligations.ResumesAndDisables : Prop :=
  ∀ (c : Nat) (s : State),
    let x := s.ctx c
    let shadow (i : Nat) : Shadow := Map.get .empty s.shadows i
    let err (e : Nat) : Out := .next (s.setCtx c { x with err := e })
    let retired (i : Nat) : Prop := i / 2 ∈ s.retCores ∨ i / 2 / 80 ∈ s.retDies
    let freed (t : State) : Prop := t.ctx c = { x with
        en := false, st := .free, image := none, vac := none, excur := 0, part := 0#1440, nomig := (t.ctx c).nomig, novh := (t.ctx c).novh, ledger := [], fpend := []
        pfRecs := [], pfHeld := [], lkFault := none, slotWant := false, queues := [], graphs := [], phaseEnds := [], jobEnds := [], commSeq := [], commLast := []
        notified := [], hits := [] } ∧ (∀ d, d ≠ c → t.ctx d = s.ctx d) ∧ (∀ e ∈ t.tlb, e.ctx ≠ c) ∧ (∀ kv, kv ∈ t.groups ↔ kv ∈ s.groups ∧ kv.2.ctx ≠ c) ∧
      (∀ kv, kv ∈ t.launches ↔ kv ∈ s.launches ∧ kv.2.ctx ≠ c) ∧ (∀ kv, kv ∈ t.copies ↔ kv ∈ s.copies ∧ kv.2.ctx ≠ c) ∧ t.mem = s.mem ∧ t.peerMem = s.peerMem
    (x.st ≠ .vacated → exec (.resume c) s = err 5) ∧
    (∀ im, x.st = .vacated → x.image = some im →
      ((im.dead = true ∨ ∃ i ∈ im.slots, retired i) → exec (.resume c) s = err 4) ∧
      (im.dead = false → (∀ i ∈ im.slots, ¬ retired i) →
        ((∃ i ∈ im.slots, shadow i ≠ .empty) → exec (.resume c) s = err 1) ∧
        ((∀ i ∈ im.slots, shadow i = .empty) → ∃ (t : State), exec (.resume c) s = .next t ∧ t = { s with shadows := t.shadows } ∧
          ∀ i, Map.get .empty t.shadows i = if i ∈ im.slots then .filling c else shadow i)) ∧
      (im.dead = false → (∀ i ∈ im.slots, shadow i = .filling c) → ∃ (t : State), exec (.fillDone c) s = .next t ∧ t = { s with shadows := t.shadows }.setCtx c { x with st := .resuming } ∧
        ∀ i, Map.get .empty t.shadows i = if i ∈ im.slots then .loaded c else shadow i) ∧
      ((∃ i ∈ im.slots, shadow i ≠ .filling c) → exec (.fillDone c) s = .next s)) ∧
    (∀ im, x.st = .resuming → x.image = some im → im.dead = false → x.pfHeld = [] →
      let left (i : Nat) : Prop := i ∈ im.slots ∧ x.part.getLsbD i = false
      (s.retCores = [] → s.retDies = [] → (∀ d y, (d, y) ∈ s.ctxs → y.slotWant = false) → (∀ i, left i → i < 1440 ∧ shadow i = .loaded c ∧ ∀ d y, (d, y) ∈ s.ctxs → y.part.getLsbD i = false) →
        ∃ (t : State), exec (.resumeExchange c) s = .next t ∧
          (∀ i, (t.ctx c).part.getLsbD i = true ↔ x.part.getLsbD i = true ∨ left i) ∧ (t.ctx c).st = .running ∧ (t.ctx c).image = none ∧
          (t.ctx c).evt = x.evt ||| 16#64 ∧ (t.ctx c).runSince = s.gtime ∧ (∀ d, d ≠ c → t.ctx d = s.ctx d) ∧ t.mem = s.mem ∧
          (∀ k w, left (k / 65536) → (k, w) ∈ im.tiles → (∀ w', (k, w') ∈ im.tiles → w' = w) → Map.get 0#32 t.tiles k = w) ∧
          (∀ k, left (k / 65536) → (∀ w, (k, w) ∉ im.tiles) → Map.get 0#32 t.tiles k = 0#32) ∧
          (∀ k, ¬ left (k / 65536) → Map.get 0#32 t.tiles k = Map.get 0#32 s.tiles k) ∧
          ∀ g y, Map.find s.groups g = some y →
            (y.ctx = c → y.residence = .image → left (2 * y.core + y.slot) → Map.find t.groups g = some { y with residence := .resident }) ∧
            (¬(y.ctx = c ∧ y.residence = .image ∧ left (2 * y.core + y.slot)) → Map.find t.groups g = some y)) ∧
      ((∃ i d, left i ∧ s.holder i = some d) → exec (.resumeExchange c) s = .next s)) ∧
    (x.st ≠ .ready → x.st ≠ .vacated → exec (.disable c) s = err 5) ∧
    (x.st = .ready ∨ x.st = .vacated → ∃ (t : State), exec (.disable c) s = .next t ∧ freed t ∧ (t.ctx c).nomig = x.nomig ∧ (t.ctx c).novh = x.novh) ∧
    (∀ v : W64, let y := { x with nomig := v.getLsbD 1, novh := v.getLsbD 2 }
      (v.getLsbD 0 = x.en → exec (.ctxctlWrite c v) s = .next (s.setCtx c y)) ∧
      (v.getLsbD 0 = true → x.en = false → x.st ≠ .free → exec (.ctxctlWrite c v) s = err 5) ∧
      (v.getLsbD 0 = true → x.en = false → x.st = .free →
        let breaks : Prop := (∃ n, n < 57 ∧ s.cap n < s.floorSum n c + x.floorAt n) ∨ 100 * s.liveSlots < s.quotaSum c + x.quota.toNat
        (breaks → exec (.ctxctlWrite c v) s = err 2) ∧ (¬ breaks → exec (.ctxctlWrite c v) s = .next (s.setCtx c { y with en := true, st := .ready }))) ∧
      (v.getLsbD 0 = false → x.en = true → x.st ≠ .ready → x.st ≠ .vacated → exec (.ctxctlWrite c v) s = err 5) ∧
      (v.getLsbD 0 = false → x.en = true → x.st = .ready ∨ x.st = .vacated → ∃ (t : State), exec (.ctxctlWrite c v) s = .next t ∧ freed t ∧ (t.ctx c).nomig = v.getLsbD 1 ∧ (t.ctx c).novh = v.getLsbD 2))

/-- The belfry's registers take the values of their tables, by their fields and in the states that allow them, and refuse the rest by ERR (R340, R342, R343, R345, R346, R354, R370, R372, R378, R431, R432, R437). -/
def Obligations.RegisterWrites : Prop :=
  ∀ (c : Nat) (s : State) (v : W64), c < 16 →
    let x := s.ctx c
    let n := v.toNat
    let err (e : Nat) : Out := .next (s.setCtx c { x with err := e })
    let now (y : Ctx) : Out := .next (s.setCtx c y)
    (∀ q ∈ plainRegs c, let o := exec (.registerWrite q.addr v) s
      let closed : Prop := q.off = true ∧ x.st ≠ .free ∧ x.st ≠ .ready ∧ x.st ≠ .vacated
      (closed → o = err 5) ∧ (¬ closed → q.ok n = false → o = err 3) ∧ (¬ closed → q.ok n = true → o = now (q.put x v))) ∧
    stepRegs c v (fun a ok i => ok n = true → exec (.registerWrite a v) s = exec i s) ∧
    (∀ a, a < 0x400000 ∨ 0x480000 ≤ a → exec (.registerWrite a v) s = .next s) ∧
    (let o := exec (.vbreqWrite c v) s
     (n < 4000 ∨ 1000000 < n ∨ n % 16 ≠ 0 → o = err 3) ∧
     (4000 ≤ n → n ≤ 1000000 → n % 16 = 0 → (x.vbcur.toNat ≤ n →
         let raised : Bool := (s.oldVbcur c).isNone && decide (x.vbcur.toNat < n)
         o = .next ({ s with marks := if raised then .vbcur c x.vbcur.toNat :: s.marks else s.marks }.setCtx c { x with vbreq := v, vbcur := v, bpend := false })) ∧
       (n < x.vbcur.toNat → o = now { x with vbreq := v, bpend := true }))) ∧
    ((x.bpend = true → (∀ r, x.chargeOn r ≤ x.vbreq.toNat - 700) → exec (.boundApply c) s = now { x with vbcur := x.vbreq, bpend := false, evt := x.evt ||| 2#64 }) ∧
     (x.bpend = false ∨ (∃ r, x.vbreq.toNat - 700 < x.chargeOn r) → exec (.boundApply c) s = .next s)) ∧
    (∀ k, k < 57 → let o := exec (.floorWrite c k v) s
      let f := n % 65536
      (reservedFloor k = true → (f ≠ 0 → o = err 3) ∧ (f = 0 → o = .next s)) ∧
      (reservedFloor k = false → x.en = true → s.cap k < s.floorSum k c + f → o = err 2) ∧
      (reservedFloor k = false → x.en = false ∨ s.floorSum k c + f ≤ s.cap k → ∃ z, o = now z ∧
        z = { x with floors := z.floors, ffab := z.ffab, fpend := z.fpend, epoch := z.epoch } ∧ (∀ j, z.floorAt j = if j = k then f else x.floorAt j) ∧
        (x.floorAt k ≤ f → z.fpend = x.fpend ∧ z.epoch = x.epoch) ∧
        (f < x.floorAt k → z.fpend = x.fpend ++ [(floorRes k, x.epoch)] ∧ z.epoch = x.epoch + 1))) ∧
    (∀ d, d < 9 → s.cap (5 * d) = 2160 * (stackDies.filter (fun k => k == d)).length ∧ s.cap (5 * d + 1) = (if d = 4 then 0 else 86) ∧
      s.cap (5 * d + 2) = (if d ≠ 4 then 0 else if s.hostlink.isSome then 345 else 460) ∧
      s.cap (5 * d + 3) = (if d ≠ 4 ∨ s.hostlink = none then 0 else 115) ∧ s.cap (5 * d + 4) = 6266 ∧ s.cap (45 + d) = 201) ∧
    (x.fpend ≠ [] → (∀ e ∈ x.fpend, ∀ k ∈ x.ledger, k.under e = false) → exec (.floorApply c) s = now { x with fpend := [], evt := x.evt ||| 4#64 }) ∧
    ((∀ e ∈ x.fpend, ∃ k ∈ x.ledger, k.under e = true) → exec (.floorApply c) s = .next s ∨ exec (.floorApply c) s = now x) ∧
    (∀ k, k < 23 → let o := exec (.partWrite c k v) s
      let want (i : Nat) : Prop := i < (if k = 22 then 32 else 64) ∧ v.getLsbD i = true
      let has (i : Nat) : Prop := x.part.getLsbD (64 * k + i) = true
      let taken (i : Nat) : Prop := (s.holder (64 * k + i)).isSome = true ∨ (64 * k + i) / 2 ∈ s.retCores ∨ (64 * k + i) / 2 / 80 ∈ s.retDies
      let clears : Prop := ∃ i, i < (if k = 22 then 32 else 64) ∧ has i ∧ ¬ want i
      (x.st ≠ .ready → x.st ≠ .running → s.vacatedNow c = false → o = err 5) ∧
      (x.st = .ready ∧ x.pfHeld = [] ∨ x.st = .running ∨ s.vacatedNow c = true →
        ((∃ i, want i ∧ ¬ has i ∧ taken i) → o = err 4) ∧
        ((∀ i, want i → ¬ has i → ¬ taken i) →
          (x.st ≠ .ready → clears → o = err 5) ∧
          (x.st = .ready ∨ ¬ clears → (∀ i, want i → has i) → o = .next s) ∧
          (x.st = .ready ∨ ¬ clears → (∃ i, want i ∧ ¬ has i) → ∃ p : BitVec 1440, o = now { x with
              part := p, slotWant := false, st := if x.st = .ready then .running else x.st, runSince := if x.st = .ready then s.gtime else x.runSince } ∧
            ∀ i, i < 1440 → (p.getLsbD i = true ↔ x.part.getLsbD i = true ∨ (64 * k ≤ i ∧ want (i - 64 * k))))))) ∧
    exec (.evtClear c v) s = now { x with evt := x.evt &&& ~~~v } ∧
    (∀ a b, ((c, a, b) ∈ s.excursions → exec (.boundExcursion c a b) s = .next (({ s with excursions := s.excursions.erase (c, a, b) }.setCtx c
        { x with excur := Nat.min 0xFFFFFFFF (x.excur + 1), evt := x.evt ||| 1#64 }).post c .event 16 0 0xFFFF 0xFFFF a b)) ∧
      ((c, a, b) ∉ s.excursions → exec (.boundExcursion c a b) s = .next s)) ∧
    (let o := exec (.quotaWrite c v) s
     let breaks : Prop := x.en = true ∧ 100 * s.liveSlots < s.quotaSum c + n
     (144000 < n → o = err 3) ∧ (n ≤ 144000 → breaks → o = err 2) ∧ (n ≤ 144000 → ¬ breaks → o = now { x with quota := v })) ∧
    (let good : Prop := 256 ≤ n % 65536 ∧ n / 65536 % 16 ≤ 12
     (¬ good → exec (.speriodWrite c v) s = err 3) ∧ (good → exec (.speriodWrite c v) s = now { x with speriod := v &&& 0xFFFFF#64 })) ∧
    (∀ k, k < 8 →
      (∃ z, exec (.watchpointWrite c (2 * k) v) s = now z ∧ z = { x with wpa := z.wpa } ∧
        ∀ j, Map.get 0#64 z.wpa j = if j = k then v &&& 0xF9FFFFFFFFFFFFFF#64 else Map.get 0#64 x.wpa j) ∧
      (n % 2 ^ 33 = 0 ∨ 2 ^ 32 < n % 2 ^ 33 → exec (.watchpointWrite c (2 * k + 1) v) s = err 3) ∧
      (1 ≤ n % 2 ^ 33 → n % 2 ^ 33 ≤ 2 ^ 32 → ∃ z, exec (.watchpointWrite c (2 * k + 1) v) s = now z ∧ z = { x with wpl := z.wpl } ∧
        ∀ j, Map.get 0#64 z.wpl j = if j = k then v &&& 0x1FFFFFFFF#64 else Map.get 0#64 x.wpl j)) ∧
    (∀ k, k < 4 → let g := Map.get {} x.targets k
      let put (u : Target) : Out := now { x with targets := x.targets.put k u }
      ((∃ kv ∈ s.launches, kv.2.ctx = c ∧ kv.2.phase = .running ∧ kv.2.target = some k) → ∀ f, exec (.targetWrite c k f v) s = err 5) ∧
      ((∀ kv ∈ s.launches, ¬(kv.2.ctx = c ∧ kv.2.phase = .running ∧ kv.2.target = some k)) →
        exec (.targetWrite c k 0 v) s = put { g with tkdesc := v } ∧
        exec (.targetWrite c k 1 v) s = (if n % 4096 = 0 then put { g with tqbase := v } else err 3) ∧
        exec (.targetWrite c k 2 v) s = (if ringOk (n % 2 ^ 32) = true ∧ ¬(v.getLsbD 33 = true ∧ v.getLsbD 34 = true)
          then put { g with tqctl := (v &&& 0xFFFFFFFFF#64) ||| (g.tqctl &&& 0x1000000000#64) } else err 3) ∧
        exec (.targetWrite c k 4 v) s = (if n % 16 = 0 then put { g with ulbase := v } else err 3) ∧
        exec (.targetWrite c k 5 v) s = (if n ≤ 2 ^ 32 then put { g with ulsize := v } else err 3)))

/-- Tokens are debited, borrowed, refilled and repaid; the belfry grants free slots or vacates a victim; retirements end and contexts start over (R364, R368, R369, R370, R371, R408, R409, R172). -/
def Obligations.TokensAndSlots : Prop :=
  (∀ (s : State), s.ctxsApart →
    let left (x : Ctx) : Int := max (-(2 ^ 31)) (x.bal - (x.slots.length : Int))
    (s.gtime < s.nextDebit * 1000 → exec .tokenDebit s = .next s) ∧
    (s.nextDebit * 1000 ≤ s.gtime → (∀ kv ∈ s.ctxs, 0 < left kv.2 ∨ kv.2.en = false ∨ s.idle kv.1 = true) →
      exec .tokenDebit s = .next { s with nextDebit := s.nextDebit + 1, ctxs := s.ctxs.map (fun kv => (kv.1, { kv.2 with bal := left kv.2 })) }) ∧
    (∀ c l x y, (c, x) ∈ s.ctxs → (l, y) ∈ s.ctxs → s.nextDebit * 1000 ≤ s.gtime → left x ≤ 0 → x.en = true → s.idle c = false → s.idle l = true → 0 < left y →
      (∀ kv ∈ s.ctxs, kv.1 ≠ c → 0 < left kv.2 ∨ kv.2.en = false ∨ s.idle kv.1 = true) →
      (∀ kv ∈ s.ctxs, kv.1 ≠ l → s.idle kv.1 = true → left kv.2 < left y ∨ (left kv.2 = left y ∧ l < kv.1)) →
      ∃ (t : State), exec .tokenDebit s = .next t ∧ t = { s with nextDebit := s.nextDebit + 1, ctxs := t.ctxs } ∧
        t.ctx c = { x with bal := left x + min 1000 (left y), debt := x.debt.put l (Map.get 0 x.debt l + (min 1000 (left y)).toNat) } ∧
        t.ctx l = { y with bal := left y - min 1000 (left y) } ∧
        ∀ d z, (d, z) ∈ s.ctxs → d ≠ c → d ≠ l → t.ctx d = { z with bal := left z })) ∧
  (∀ (s : State), s.ctxsApart → (s.gtime < s.nextRefill * 1000 → exec .tokenRefill s = .next s) ∧
    (s.nextRefill * 1000 ≤ s.gtime → s.retCores = [] → s.retDies = [] → (∀ kv ∈ s.ctxs, kv.2.slotWant = false ∧ kv.1 < 16) →
      ∃ (t : State), exec .tokenRefill s = .next t ∧ t = { s with nextRefill := s.nextRefill + 100, ctxs := t.ctxs } ∧ ∀ c, c < 16 →
        let x := s.ctx c
        let r (y : Ctx) : Nat := Nat.min ((y.debt.map (fun kv => kv.2)).sum) (y.quota.toNat / 2)
        let got : Nat := (s.ctxs.map (fun kv => kv.2.repays (r kv.2) c)).sum
        t.ctx c = { x with bal := min x.bal 0 + (x.quota.toNat : Int) - (r x : Int) + (got : Int), debt := (t.ctx c).debt } ∧
        ∀ l, l < 16 → Map.get 0 (t.ctx c).debt l = Map.get 0 x.debt l - x.repays (r x) l)) ∧
  (∀ (l w : Nat) (s : State) (x : Launch), Map.find s.launches l = some x → x.ctx = w → x.phase = .unbound →
    ((s.ctx w).slotWant = false → exec (.slotRequest l) s = .next s) ∧
    (s.ctxsApart → s.retCores = [] → s.retDies = [] → (s.ctx w).slotWant = true → (s.ctx w).st = .ready ∧ (s.ctx w).pfHeld = [] ∨ (s.ctx w).st = .running → (∀ kv ∈ s.ctxs, kv.1 ≠ w → kv.2.slotWant = false) →
      (∀ kv ∈ s.launches, kv.2.ctx = w → kv.2.phase = .unbound → kv.2 = x ∨ x.order < kv.2.order) →
      let k := s.readDesc w x.lr.kdesc
      let mine (n sl : Nat) : Bool := s.freeSlot n sl || (s.ctx w).holds n sl
      (∀ n sl rest, spansOf mine k = (n, sl) :: rest →
        let span (i : Nat) : Prop := i < 1440 ∧ n ≤ i / 2 ∧ i / 2 < n + 2 ^ k.spanCode ∧ (k.wide = true ∨ i % 2 = sl)
        let has (i : Nat) : Prop := (s.ctx w).part.getLsbD i = true
        ((∀ i, span i → has i) → exec (.slotRequest l) s = .next s) ∧
        ((∃ i, span i ∧ ¬ has i) → ∃ p : BitVec 1440, exec (.slotRequest l) s = .next (s.setCtx w { s.ctx w with
            part := p, slotWant := false, st := .running, runSince := if (s.ctx w).st = .ready then s.gtime else (s.ctx w).runSince }) ∧
          ∀ i, i < 1440 → (p.getLsbD i = true ↔ has i ∨ span i))) ∧
      (∀ v, spansOf mine k = [] → s.victim w k = some v → (∀ i, i < 1440 → (s.ctx v).part.getLsbD i = true → Map.get .empty s.shadows i = .empty) →
        v ≠ w ∧ (s.ctx v).st = .running ∧ ((s.ctx v).prio.toNat < (s.ctx w).prio.toNat ∨ ((s.ctx v).prio = (s.ctx w).prio ∧ 0 < (s.ctx w).bal ∧ (s.ctx v).bal < 0 ∧
          (s.ctx v).runSince + 1000 * (s.ctx v).minrun.toNat ≤ s.gtime)) ∧
        ∃ (t : State) (d : _), exec (.vacate v) s = .next t ∧ (t.ctx v).vac = some d ∧
          exec (.slotRequest l) s = .next (t.setCtx v { t.ctx v with vac := some { d with for_ := some w } })) ∧
      (spansOf mine k = [] → s.victim w k = none → exec (.slotRequest l) s = .next s))) ∧
  (∀ (kind n : Nat) (s : State), kind < 2 →
    let clear : Prop := ∀ core, (if kind = 0 then core = n else 80 * n ≤ core ∧ core < 80 * n + 80) → s.holder (2 * core) = none ∧ s.holder (2 * core + 1) = none
    ((kind, n) ∈ s.retiring → clear → exec (.retirementDone kind n) s = .next ({ s with retiring := s.retiring.erase (kind, n) }.postDev 37 0xFF kind n)) ∧
    ((kind, n) ∉ s.retiring ∨ ¬ clear → exec (.retirementDone kind n) s = .next s)) ∧
  (∀ (c : Nat) (s : State) (im : Image), (s.ctx c).image = some im →
    (im.dead = false → exec (.relaunch c) s = .next s) ∧
    (im.dead = true → (s.ctx c).st = .vacated ∨ (s.ctx c).st = .resuming → (s.launches.map (fun kv => kv.1)).Nodup → s.colls = [] →
      ∃ (t : State), exec (.relaunch c) s = .next t ∧ t.mem = s.mem ∧ t.ctx c = { s.ctx c with st := .ready, image := none, part := 0#1440, vac := none, lkFault := none, nextLid := (t.ctx c).nextLid } ∧
        (∀ d, d ≠ c → t.ctx d = s.ctx d) ∧ (∀ kv, kv ∈ t.groups ↔ kv ∈ s.groups ∧ kv.2.ctx ≠ c) ∧
        ∀ l x, Map.find s.launches l = some x → (x.ctx ≠ c ∨ x.phase ≠ .running → Map.find t.launches l = some x) ∧
          (x.ctx = c → x.phase = .running → ∃ lid, Map.find t.launches l = some { x with
            phase := .unbound, oldLid := some x.lid, lid := lid, units := [], pushed := [], ivQueue := [], gridNext := 0
            skip := (List.range x.lr.units).filter (fun i => s.bitDone x i), ords := x.ords.filter (fun e => s.bitDone x e.root), ordsApplied := false
            places := [], copyAt := none, ctab := [], target := none, ulog := 0, logFull := false, replayAt := [], spans := [], collComms := [] })))

/-- The turret reads queues, takes packets in ring order and does what each kind says; malformed ones fail with a record (R355, R356, R357, R358, R359, R361, R362, R364, R366, R33, R34, R285). -/
def Obligations.HostQueues : Prop :=
  (∀ (c q : Nat) (s : State), s.ctxsApart → (∀ kv ∈ s.ctxs, Map.sortedFrom 0 kv.2.queues = true) → let a := (s.ctx c).qtbase.toNat + 256 * q
    let rd (o n : Nat) : Nat := s.vRead c (a + o) n
    let x : Queue := (Map.find (s.ctx c).queues q).getD { head := rd 0x10 8 }
    let sound : Prop := rd 0 8 % 4096 = 0 ∧ (∃ i, 4 ≤ i ∧ i ≤ 16 ∧ rd 8 4 = 2 ^ i) ∧ rd 0xC 4 < 8 ∧ rd 0x18 104 = 0 ∧ rd 0x88 120 = 0 ∧
      (rd 0x80 8 + 2 ^ 64 - x.head) % 2 ^ 64 ≤ rd 8 4
    ((s.ctx c).en = true → q < (s.ctx c).qcount.toNat → s.vMapped c a 256 = true → x.inert = false → rd 0xC 4 % 2 = 1 →
      (¬ sound → ∃ (t : State), exec (.tailSnoop c q) s = .next t ∧ (Map.get {} (t.ctx c).queues q).inert = true ∧ LastRecord s t 18 0 c 0xFFFF 0xFFFF q 0) ∧
      (sound → ∃ (t : State), exec (.tailSnoop c q) s = .next t ∧ t.mem = s.mem ∧ (Map.get {} (t.ctx c).queues q).tail = rd 0x80 8 ∧
        (Map.get {} (t.ctx c).queues q).head = x.head ∧ t.ctx c = { s.ctx c with queues := (t.ctx c).queues })) ∧
    ((s.ctx c).en = false ∨ (s.ctx c).qcount.toNat ≤ q ∨ rd 0xC 4 % 2 = 0 → exec (.tailSnoop c q) s = .next s)) ∧
  (∀ (c q : Nat) (s : State) (x : Queue) (p : Packet), OneQueue s c q x [] → x.head < x.tail → EntryAt s c q x p →
    let h := s.headWritten c q x
    let f (o n : Nat) : Nat := leNat ((p.data.drop o).take n)
    let zero (o : Nat) : Prop := (∀ b ∈ p.data.drop o, b = 0#8) ∧ f 0 8 < 512
    let fails (i : Instr) : Prop := ∃ (t : State), exec i s = .next t ∧ PassedEntry s t c q x [] ∧ LastRecord s t 19 0 c 0xFFFF 0xFFFF q x.head
    let kinds : List (Nat × Instr) := [(1, .launchPacket c q), (2, .signalPacket c q), (3, .waitPacket c q), (5, .copyPacket c q)]
    (∀ e ∈ kinds, p.kind ≠ e.1 → (e.1 = 1 → 1 ≤ p.kind ∧ p.kind ≤ 5) → exec e.2 s = .next s) ∧
    (p.kind = 0 ∨ 5 < p.kind → fails (.launchPacket c q)) ∧
    (p.kind = 1 → ∃ (t : State) (k : _), exec (.launchPacket c q) s = .next t ∧ Map.find s.launches k = none ∧ (t.lau k).lr = recordOf p.data false ∧ (t.lau k).ctx = c ∧
      (t.lau k).parent = none ∧ (s.recordBad c (recordOf p.data false) = false → (recordOf p.data false).graph = 0xFFFF →
        (t.lau k).phase = .unbound ∧ t.mem = h.mem ∧ ∃ e, PassedEntry s t c q x [e] ∧ e = { p with started := true, obj := some k } ∧ (t.lau k).queue = some (q, x.head)) ∧
      (s.recordBad c (recordOf p.data false) = true → (t.lau k).phase = .finished ∧ (t.lau k).fail = 3 ∧ PassedEntry s t c q x [])) ∧
    (p.kind = 2 → Mark.waited ((s.ctxPa c (f 8 8)).getD 0) ∈ s.marks → exec (.signalPacket c q) s = .next s) ∧
    (p.kind = 2 → Mark.waited ((s.ctxPa c (f 8 8)).getD 0) ∉ s.marks → let bad : Prop := f 8 8 % 8 ≠ 0 ∨ 2 ^ 57 ≤ f 8 8 ∨ 1 < f 0x18 8 ∨ ¬ zero 0x20
      (bad → fails (.signalPacket c q)) ∧
      (¬ bad → h.vMapped c (f 8 8) 8 = true → ∃ (t : State), exec (.signalPacket c q) s = .next t ∧ PassedEntry s t c q x [] ∧
        t.mem = (h.vWrite c (f 8 8) 8 (if f 0x18 8 = 0 then f 0x10 8 else (h.vRead c (f 8 8) 8 + f 0x10 8) % 2 ^ 64)).mem) ∧
      (¬ bad → h.vMapped c (f 8 8) 8 = false → (s.ctx c).fq.size ≠ 0#64 → f 8 8 / 65536 * 65536 ∉ (s.ctx c).pfRecs → ∃ (t : State), exec (.signalPacket c q) s = .next t ∧
        PassedEntry s t c q x [p] ∧ (Map.get {} (t.ctx c).queues q).pfPage = some (f 8 8 / 65536 * 65536) ∧ LastRecord s t 1 0 c 0xFFFF 0xFFFF (f 8 8 / 65536 * 65536) 8)) ∧
    (p.kind = 3 → let bad : Prop := f 8 8 % 8 ≠ 0 ∨ 2 ^ 57 ≤ f 8 8 ∨ 2 < f 0x18 8 ∨ ¬ zero 0x20
      let met (v : Nat) : Prop := if f 0x18 8 = 0 then f 0x10 8 ≤ v else if f 0x18 8 = 1 then v = f 0x10 8 else v ≠ f 0x10 8
      (bad → fails (.waitPacket c q)) ∧
      (¬ bad → h.vMapped c (f 8 8) 8 = true → ∃ (t : State), exec (.waitPacket c q) s = .next t ∧ t.mem = h.mem ∧
        (met (h.vRead c (f 8 8) 8) → PassedEntry s t c q x []) ∧ (¬ met (h.vRead c (f 8 8) 8) → PassedEntry s t c q x [{ p with started := true }]))) ∧
    (p.kind = 4 → let w := f 0x10 8
      let nl := f 0x18 8
      (f 8 8 ≠ 1 → exec (.graphCancel c q) s = .next s ∧
        let bad : Prop := f 8 8 ≠ 0 ∨ ¬ zero 0x20 ∨ 2 ^ 26 ≤ w ∨ nl = 0 ∨ 65535 < nl ∨ ∃ gr, Map.find (s.ctx c).graphs (w % 1024) = some gr ∧ gr.open_ = true
        (bad → fails (.graphOpen c q)) ∧
        (¬ bad → ∃ (t : State), exec (.graphOpen c q) s = .next t ∧ PassedEntry s t c q x [] ∧ t.mem = h.mem ∧ ∃ k, Map.find (t.ctx c).graphs (w % 1024) = some
          { phase := w / 1024 % 256, job := w / 2 ^ 18 % 64, lastP := w.testBit 24, lastJ := w.testBit 25, stage := k, nl := nl, open_ := true })) ∧
      (f 8 8 = 1 → exec (.graphOpen c q) s = .next s ∧
        let bad : Prop := ¬ zero 0x18 ∨ w / 8 % 2 ^ 13 ≠ 0 ∨ 2 ^ 32 ≤ w ∨ w % 8 = 0 ∨ 4 < w % 8
        (bad → fails (.graphCancel c q)) ∧
        (¬ bad → (∃ g, ∀ e ∈ (s.ctx c).graphs, e.2.open_ = true → e.1 = g) → (s.launches.map (fun kv => kv.1)).Nodup →
          (∀ kv ∈ s.launches, ∀ g n y, kv.2.parent = some (g, n) → Map.find s.groups g = some y → kv.2.ctx = (s.lau y.launch).ctx) → ∃ (t : State), exec (.graphCancel c q) s = .next t ∧ PassedEntry s t c q x [] ∧
          ∀ l y, Map.find s.launches l = some y → y.ctx = c → inLevel s c (w % 8) (w / 65536) y →
            (y.phase = .unbound ∨ y.phase = .bound → (t.lau l).phase = .finished) ∧ (y.phase = .running → (t.lau l).cancelled = true)))) ∧
    (p.kind = 5 → let k : Copy := h.packetCopy c q p
      (¬ zero 0x38 → ∃ (t : State), exec (.copyPacket c q) s = .next t ∧ PassedEntry s t c q x []) ∧
      (zero 0x38 → (∃ e, h.copyCause k (2 ^ 36) 0 = some e) → ∃ (t : State), exec (.copyPacket c q) s = .next t ∧ PassedEntry s t c q x [] ∧ t.copies = s.copies) ∧
      (zero 0x38 → f 0x18 8 = 0 → f 0x20 8 = 0 → h.copyCause k (2 ^ 36) 0 = none → ∃ (t : State), exec (.copyPacket c q) s = .next t ∧ PassedEntry s t c q x [] ∧ t.copies = s.copies ∧
        t.mem = (h.vWrite c (f 0x30 8) 8 1).mem) ∧
      (zero 0x38 → 0 < f 0x18 8 → h.copyCause k (2 ^ 36) 0 = none → (h.outstanding c).length < 256 → h.issueCheck c false false (h.copyCosts k) = .ok →
        ∃ (t : State) (n : _) (m : _), exec (.copyPacket c q) s = .next t ∧ Map.find s.copies n = none ∧ Map.find t.copies n = some m ∧ m.src = f 0x10 8 ∧ m.dst = f 8 8 ∧ m.n = f 0x18 8 ∧
          m.rows = 1 ∧ m.moved = 0 ∧ m.status = 0 ∧ m.packet = some (q, x.head, f 0x20 8, f 0x28 8, f 0x30 8) ∧ t.mem = h.mem ∧
          PassedEntry s t c q x [{ p with started := true, obj := some n }]))) ∧
  (∀ (c q : Nat) (s : State) (x : Queue) (p : Packet), OneQueue s c q x [p] → p.kind = 3 → p.started = true → p.done = false →
    let a := p.at_ 8 8
    s.vMapped c a 8 = true → ∃ (t : State), exec (.waitSatisfied c q) s = .next t ∧ t.mem = s.mem ∧
      (Map.get {} (t.ctx c).queues q).taken = if p.holds (s.vRead c a 8) then [] else [p]) ∧
  (∀ (c q : Nat) (s h : State) (p : Packet), s.ctxsApart → (∀ kv ∈ s.ctxs, Map.sortedFrom 0 kv.2.queues = true) → s.nextPacket c q = some (h, p) →
    p.bar = false ∨ (h.queue c q).clearTo p.index = true →
    let f (o n : Nat) : Nat := p.at_ o n
    let gone (t : State) : Prop := ∀ e ∈ (t.queue c q).taken, e.index ≠ p.index
    let word : Prop := f 8 8 % 8 = 0 ∧ f 8 8 < 2 ^ 57 ∧ p.reservedFrom 0x20 = false ∧ h.vMapped c (f 8 8) 8 = true
    (p.kind = 1 → h.recordBad c (recordOf p.data false) = false → (recordOf p.data false).graph = 0xFFFF →
      ∃ (t : State) (k : Nat), exec (.launchPacket c q) s = .next t ∧ t.mem = h.mem ∧ Map.find h.launches k = none ∧ (∀ l, l ≠ k → Map.find t.launches l = Map.find h.launches l) ∧
        (t.lau k).phase = .unbound ∧ (t.lau k).lr = recordOf p.data false ∧ (t.lau k).ctx = c ∧ (t.lau k).queue = some (q, p.index)) ∧
    (p.kind = 2 → word → f 0x18 8 ≤ 1 → Mark.waited ((s.ctxPa c (f 8 8)).getD 0) ∉ s.marks → ∃ (t : State), exec (.signalPacket c q) s = .next t ∧ gone t ∧
      t.mem = (h.vWrite c (f 8 8) 8 (if f 0x18 8 = 0 then f 0x10 8 else (h.vRead c (f 8 8) 8 + f 0x10 8) % 2 ^ 64)).mem) ∧
    (p.kind = 3 → word → f 0x18 8 ≤ 2 → ∃ (t : State), exec (.waitPacket c q) s = .next t ∧ t.mem = h.mem ∧
      (p.holds (h.vRead c (f 8 8) 8) = true → gone t) ∧
      (p.holds (h.vRead c (f 8 8) 8) = false → ∃ e ∈ (t.queue c q).taken, e.index = p.index ∧ e.started = true ∧ e.done = false)) ∧
    (p.kind = 4 → f 8 8 = 0 → p.reservedFrom 0x20 = false → f 0x10 8 < 2 ^ 26 → 1 ≤ f 0x18 8 → f 0x18 8 ≤ 65535 →
      (∀ gr, Map.find (s.ctx c).graphs (f 0x10 8 % 1024) = some gr → gr.open_ = false) → ∃ (t : State) (k : Nat), exec (.graphOpen c q) s = .next t ∧ gone t ∧ t.mem = h.mem ∧
        Map.find (t.ctx c).graphs (f 0x10 8 % 1024) = some { phase := f 0x10 8 / 1024 % 256, job := f 0x10 8 / 2 ^ 18 % 64, lastP := (f 0x10 8).testBit 24, lastJ := (f 0x10 8).testBit 25
                                                             stage := k, nl := f 0x18 8, open_ := true }) ∧
    (p.kind = 4 → f 8 8 = 1 → p.reservedFrom 0x18 = false → f 0x10 8 < 2 ^ 32 → f 0x10 8 / 8 % 2 ^ 13 = 0 → f 0x10 8 % 8 = 1 → (s.launches.map (fun kv => kv.1)).Nodup →
      ∃ (t : State), exec (.graphCancel c q) s = .next t ∧ gone t ∧ ∀ l y, Map.find s.launches l = some y → y.ctx = c → y.lid = f 0x10 8 / 65536 →
        (y.phase = .unbound ∨ y.phase = .bound → (t.lau l).phase = .finished) ∧ (y.phase = .running → (t.lau l).cancelled = true)) ∧
    (p.kind = 5 → s.duePacket c q = none → p.reservedFrom 0x38 = false → 0 < f 0x18 8 → h.copyCause (h.packetCopy c q p) (2 ^ 36) 0 = none → (h.outstanding c).length < 256 →
      h.issueCheck c false false (h.copyCosts (h.packetCopy c q p)) = .ok → ∃ (t : State) (n : Nat) (m : Copy), exec (.copyPacket c q) s = .next t ∧ t.mem = h.mem ∧
        Map.find s.copies n = none ∧ Map.find t.copies n = some m ∧ m.src = f 0x10 8 ∧ m.dst = f 8 8 ∧ m.n = f 0x18 8 ∧ m.moved = 0 ∧ m.status = 0)) ∧
  (∀ (c q : Nat) (s : State) (p : Packet), s.ctxsApart → (∀ kv ∈ s.ctxs, Map.sortedFrom 0 kv.2.queues = true) → (s.queue c q).waitOpen = some p → (s.queue c q).pfPage = none →
    s.vMapped c (p.at_ 8 8) 8 = true → p.holds (s.vRead c (p.at_ 8 8) 8) = true →
      ∃ (t : State), exec (.waitSatisfied c q) s = .next t ∧ t.mem = s.mem ∧ ∀ e ∈ (t.queue c q).taken, e.index ≠ p.index)

/-- PFDONE restores or declines the waiters of a page, a locket fault stops the context, shootdowns drop entries and report, thresholds are posted (R60, R378, R391, R397, R398, R399, R400, R402, R404, R353). -/
def Obligations.PagesAndShootdowns : Prop :=
  (∀ (c : Nat) (v : W64) (s : State), let x := s.ctx c
    let page := v.toNat % 2 ^ 57 / 65536 * 65536
    let listed (kv : Nat × Group) : Prop := kv.2.ctx = c ∧ ∃ e ∈ kv.2.pfWait, e.1 = page
    (x.st = .vacating ∨ x.st = .spilling ∨ x.st = .vacated → exec (.pfdone c v) s = .next (s.setCtx c { x with pfHeld := x.pfHeld ++ [v] })) ∧
    let stuck (n : StackLine) : Prop := n.stuck = true ∧ n.ctx = c ∧ n.backing / 65536 * 65536 = page
    (x.st ≠ .vacating → x.st ≠ .spilling → x.st ≠ .vacated → (∃ n ∈ s.stack, stuck n) → x.lkFault ≠ some page → page ∉ x.pfRecs → (∀ kv ∈ s.ports, ∀ e ∈ kv.2.paused, e.2 ≠ (page, c)) →
      ∃ (t : State), exec (.pfdone c v) s = .next t ∧ t = { s with stack := t.stack } ∧ t.stack.length = s.stack.length ∧
        ∀ (i : Nat) (n : StackLine), s.stack[i]? = some n → (stuck n → t.stack[i]? = some { n with again := true }) ∧ (¬ stuck n → t.stack[i]? = some n)) ∧
    (x.st ≠ .vacating → x.st ≠ .spilling → x.st ≠ .vacated → (∀ n ∈ s.stack, ¬ stuck n) → (∀ kv ∈ s.ports, ∀ e ∈ kv.2.paused, e.2 ≠ (page, c)) →
      (x.lkFault ≠ some page → page ∉ x.pfRecs → exec (.pfdone c v) s = .next s) ∧
      (x.lkFault = some page → page ∉ x.pfRecs → (∀ kv ∈ s.groups, kv.2.ctx = c → kv.2.pfWait = []) → exec (.pfdone c v) s = .next (s.setCtx c { x with lkFault := none })) ∧
      (x.lkFault ≠ some page → page ∈ x.pfRecs → v.getLsbD 0 = false →
        ((∀ l, s.walk c page ≠ .leaf l) → (∀ kv ∈ s.groups, ¬ listed kv) → (∀ kv ∈ s.copies, ¬(kv.2.ctx = c ∧ kv.2.pfPage = some page)) →
          exec (.pfdone c v) s = .next (s.post c .fault 1 0 0xFFFF 0xFFFF page 8)) ∧
        (∀ l, s.walk c page = .leaf l → ∃ (t : State), exec (.pfdone c v) s = .next t ∧ t = { s with groups := t.groups, copies := t.copies, clock := s.clock + 1, ctxs := t.ctxs } ∧
          (∀ d, d ≠ c → t.ctx d = s.ctx d) ∧ t.ctx c = { x with pfRecs := x.pfRecs.filter (fun p => p != page), queues := (t.ctx c).queues } ∧
          (∀ g y, Map.find s.groups g = some y → Map.find t.groups g = some (if y.ctx = c ∧ ∃ e ∈ y.pfWait, e.1 = page
            then { y with pfWait := y.pfWait.filter (fun e => e.1 != page) } else y)) ∧
          (∀ k y, Map.find s.copies k = some y → Map.find t.copies k = some (if y.ctx = c ∧ y.pfPage = some page then { y with pfPage := none } else y)) ∧
          ∀ q z, Map.find x.queues q = some z → Map.find (t.ctx c).queues q = some (if z.pfPage = some page then { z with pfPage := none, waitSince := s.clock + 1 } else z))) ∧
      (x.lkFault ≠ some page → page ∈ x.pfRecs → v.getLsbD 0 = true → (∀ kv ∈ s.copies, ¬(kv.2.ctx = c ∧ kv.2.pfPage = some page)) → (∀ kv ∈ x.queues, kv.2.pfPage ≠ some page) →
        ∀ g y, s.groups.filter (fun kv => kv.2.ctx == c && kv.2.pfWait.any (fun e => e.1 == page)) = [(g, y)] → Map.find s.groups g = some y →
          ∃ (t : State), exec (.pfdone c v) s = .next t ∧ (t.ctx c).pfRecs = x.pfRecs.filter (fun p => p != page) ∧
            (y.residence ≠ .resident → t.groups = s.groups.put g { y with pfWait := [], declined := true }) ∧
            (y.residence = .resident → y.replay = none → y.trap = none → (s.kd y).trapv ≠ 0xFFFFFFFF →
              t.groups = s.groups.put g ({ y with pfWait := [], replay := none }.inHandler 0x16 0 (s.kd y).trapv))))) ∧
  (∀ (g : Nat) (s : State) (x : Group), Map.find s.groups g = some x → x.pfWait ≠ [] → x.residence = .resident → x.pend = [] → (s.ctx x.ctx).lkFault = none →
    let a := (s.ctx x.ctx).lkbase.toNat + 40960 * x.locket
    (s.FrameMapped x → ∃ (t : State), exec (.locketFault g) s = .next t ∧ SavedIn s t g x 1) ∧
    (s.ctxPa x.ctx a = none → ∃ (t : State), exec (.locketFault g) s = .next t ∧ t.groups = s.groups ∧ (t.ctx x.ctx).lkFault = some (a / 65536 * 65536) ∧
      LastRecord s t 5 0 x.ctx (s.lau x.launch).lid x.gid a 0)) ∧
  (∀ (c : Nat) (s : State), let x := s.ctx c
    let lo := x.sdaddr.toNat
    let hi := lo + 65536 * x.sdlen.toNat
    (x.sdbusy = true → exec (.shootdown c) s = .next (s.setCtx c { x with err := 1 })) ∧
    (x.sdbusy = false → ∃ (t : State), exec (.shootdown c) s = .next t ∧ t.mem = s.mem ∧ (t.ctx c).sdbusy = true ∧ (t.ctx c).sddone = false ∧
      (∀ e, e ∈ t.tlb ↔ e ∈ s.tlb ∧ ¬(e.ctx = c ∧ e.va < hi ∧ lo < e.va + (if e.large then 2097152 else 65536)))) ∧
    (∀ h, x.shoots = [h] → h.move = none → (∀ e ∈ h.waits, s.stillWaits e = false) →
      exec (.shootdownDone c) s = .next ((s.setCtx c { x with shoots := [], sdbusy := false, sddone := true }).post c .event 17 0 0xFFFF 0xFFFF lo x.sdlen.toNat)) ∧
    ((∀ h ∈ x.shoots, ∃ e ∈ h.waits, s.stillWaits e = true) → exec (.shootdownDone c) s = .next s)) ∧
  (∀ (die loc : Nat) (s : State) (k : Corrections), Map.find s.corrected (8 * die + loc) = some k →
    (1024 < k.n → k.posted = false →
      exec (.correctedThreshold die loc) s = .next ({ s with corrected := s.corrected.put (8 * die + loc) { k with posted := true } }.postDev 36 0xFF loc k.n)) ∧
    (k.n ≤ 1024 ∨ k.posted = true → exec (.correctedThreshold die loc) s = .next s))

/-- A command at MQHEAD starts a move, a swap pair or an evacuation, withdraws a move, or ends with the status that its fault calls for (R381, R384, R385, R386, R389, R392, R379). -/
def Obligations.MoveCommands : Prop :=
  (∀ (s : State) (k : MCmd), CommandAt s k →
    let ends (i : Instr) (n : Nat) : Prop := exec i s = .next (s.commandEnds k n)
    let left (t : State) : Prop := t = { s with mqhead := s.mqhead + 1, moves := t.moves, ctxs := t.ctxs }
    let sizeOf (l : Leaf) : Nat := if l.large then 2 ^ 21 else 2 ^ 16
    let baseOf (l : Leaf) (va : Nat) : Nat := va % 2 ^ 57 / sizeOf l * sizeOf l
    let frame (l : Leaf) : Nat := l.bits.toNat / 65536 % 2 ^ 36 * 65536
    (k.op = 2 ∨ k.op = 3 ∨ k.op = 4 → exec .move s = .next s) ∧ (k.op ≠ 2 → exec .swap s = .next s) ∧
    (k.op ≠ 3 → s.evacs = [] → exec .evacuate s = .next s) ∧ (k.op ≠ 4 → exec .abort s = .next s) ∧
    (k.bad = true → (k.op ≠ 2 → k.op ≠ 3 → k.op ≠ 4 → ends .move 5) ∧ (k.op = 2 → ends .swap 5) ∧ (k.op = 3 → s.evacs = [] → ends .evacuate 5) ∧ (k.op = 4 → ends .abort 5)) ∧
    (k.bad = false → k.op = 1 → (k.arg % 65536 ≠ 0 → ends .move 5) ∧ (k.arg % 65536 = 0 → (∀ l, s.walk k.ctx (k.va % 2 ^ 57) ≠ .leaf l) → ends .move 4) ∧
      ∀ l, s.walk k.ctx (k.va % 2 ^ 57) = .leaf l →
        let va := baseOf l k.va
        let no : Prop := s.staysPut k.ctx va l ∨ 2 < s.typOf k.arg ∨ k.arg = frame l
        (k.arg % sizeOf l ≠ 0 → ends .move 5) ∧ (k.arg % sizeOf l = 0 → no → ends .move 4) ∧
        (k.arg % sizeOf l = 0 → ¬ no → (s.gtime < ((s.ctx k.ctx).hist va).pinEnd → ends .move 3) ∧
          (((s.ctx k.ctx).hist va).pinEnd ≤ s.gtime → 2 ≤ (s.startsOf k.ctx va).length → ∃ (t : State), exec .move s = .next t ∧ t.moves = s.moves ∧ t.mqhead = s.mqhead + 1 ∧
            t.readLE (k.at_ + 0x20) 8 = 3 ∧ ((t.ctx k.ctx).hist va).pinEnd = s.gtime + 64000000 ∧ LastRecord s t 34 0 k.ctx 0xFFFF 0xFFFF va (s.gtime + 64000000)) ∧
          (s.mayStart k.ctx va → s.engineFree (frame l) = false → exec .move s = .next s) ∧
          (s.mayStart k.ctx va → s.engineFree (frame l) = true → ∃ (t : State) (r : Nat) (m : Move) (p : MovePage), exec .move s = .next t ∧ left t ∧ Map.find s.moves r = none ∧
            RecordIs s t r (some m) ∧ FreshMove m k.ctx (sizeOf l / 128) (some k.index) false ∧ m.pgs = [p] ∧ MovesPage s p va l k.arg 0 ∧
            ((t.ctx k.ctx).hist va).starts = s.startsOf k.ctx va ++ [s.gtime]))) ∧
    (k.bad = false → k.op = 2 → ((∀ l, s.walk k.ctx (k.va % 2 ^ 57) ≠ .leaf l) ∨ (∀ l, s.walk k.ctx (k.arg % 2 ^ 57) ≠ .leaf l) → ends .swap 4) ∧
      ∀ f n, s.walk k.ctx (k.va % 2 ^ 57) = .leaf f → s.walk k.ctx (k.arg % 2 ^ 57) = .leaf n →
        let va := baseOf f k.va
        let vn := baseOf n k.arg
        let tier (l : Leaf) : Nat := l.bits.toNat / 2 ^ 59 % 8
        let no : Prop := s.staysPut k.ctx va f ∨ s.staysPut k.ctx vn n ∨ (tier f ≠ 1 ∧ tier f ≠ 2) ∨ tier n ≠ 0 ∨ f.large ≠ n.large
        (no → ends .swap 4) ∧ (¬ no → s.engineFree (frame f) = false → exec .swap s = .next s) ∧
        (¬ no → s.engineFree (frame f) = true → ¬(s.mayStart k.ctx va ∧ s.mayStart k.ctx vn) →
          ∃ (t : State), exec .swap s = .next t ∧ t.moves = s.moves ∧ t.mqhead = s.mqhead + 1 ∧ t.readLE (k.at_ + 0x20) 8 = 3) ∧
        (¬ no → s.engineFree (frame f) = true → s.mayStart k.ctx va → s.mayStart k.ctx vn → s.typOf (frame f) < 8 → s.typOf (frame n) < 8 → va ≠ vn →
          ∃ (t : State) (r : Nat) (m : Move) (p q : MovePage), exec .swap s = .next t ∧ left t ∧ Map.find s.moves r = none ∧ RecordIs s t r (some m) ∧
            FreshMove m k.ctx (sizeOf f / 128) (some k.index) false ∧ m.pgs = [p, q] ∧ MovesPage s p va f (frame n) (n.bits.toNat % 65536) ∧
            MovesPage s q vn n (frame f) (f.bits.toNat % 65536) ∧ ((t.ctx k.ctx).hist va).starts = s.startsOf k.ctx va ++ [s.gtime] ∧
            ((t.ctx k.ctx).hist vn).starts = s.startsOf k.ctx vn ++ [s.gtime])) ∧
    (k.bad = false → k.op = 3 → s.evacs = [] →
      let need := ((s.pagesOnStack k.stack).map (fun p => if p.2.2.large then 32 else 1)).sum
      let busy : Prop := ∃ kv ∈ s.moves, ∃ p ∈ kv.2.pgs, s.stackOf p.src = some k.stack ∨ s.stackOf p.dst = some k.stack
      (busy → exec .evacuate s = .next s) ∧ (¬ busy → k.narg < need → ends .evacuate 6) ∧
      (¬ busy → need ≤ k.narg → exec .evacuate s = .next { s with mqhead := s.mqhead + 1, evacs := [{ cmd := k.index, stack := k.stack, frames := (List.range k.narg).map (fun i => s.readLE (k.arg + 8 * i) 8) }] })) ∧
    (k.bad = false → k.op = 4 → let covers (m : Move) : Prop := m.ctx = k.ctx ∧ m.phase ≠ .forwarding ∧ ∃ p ∈ m.pgs, p.va ≤ k.va ∧ k.va < p.va + 128 * m.lines
      ((∀ kv ∈ s.moves, ¬ covers kv.2) → ends .abort 1) ∧
      ∀ r m, (r, m) ∈ s.moves → covers m → (∀ kv ∈ s.moves, covers kv.2 → kv = (r, m)) → (m.evac = true → ends .abort 4) ∧
        (m.evac = false → ∃ (t : State), exec .abort s = .next t ∧ t = { s with mqhead := s.mqhead + 1, moves := t.moves } ∧
          RecordIs s t r (some { m with abort := some (m.abort.getD 1), abortCmds := m.abortCmds ++ [k.index] })))) ∧
  (∀ (s : State) (e : Evac), s.evacs = [e] →
    (s.pagesOnStack e.stack = [] → (∀ kv ∈ s.moves, ¬(kv.2.evac = true ∧ kv.2.cmd = some e.cmd)) →
      exec .evacuate s = .next ((({ s with evacs := [] }.writeMem (s.mqbase.toNat + 64 * (e.cmd % s.mqsize.toNat) + 0x20) (leBytes 8 1))).postDev 35 0xFF e.stack 0)) ∧
    (∀ c va l rest d ds, s.pagesOnStack e.stack = (c, va, l) :: rest → (∀ kv ∈ s.moves, ¬(kv.2.ctx = c ∧ ∃ q ∈ kv.2.pgs, q.va = va)) → e.frames = d :: ds → s.typOf d < 8 →
      let n := if l.large then 32 else 1
      n ≤ e.frames.length → s.engineFree (l.bits.toNat / 65536 % 2 ^ 36 * 65536) = true →
        ∃ (t : State) (r : Nat) (m : Move) (p : MovePage), exec .evacuate s = .next t ∧ t = { s with moves := t.moves, evacs := [{ e with frames := e.frames.drop n }] } ∧
          Map.find s.moves r = none ∧ RecordIs s t r (some m) ∧ FreshMove m c (512 * n) (some e.cmd) true ∧ m.pgs = [p] ∧ MovesPage s p va l d 0))

/-- A move copies its lines under locks, writes its leaf and shoots down, retires, or copies back and aborts; counters report and halve (R379, R381, R384, R385, R387, R388, R389, R390, R391, R392, R378). -/
def Obligations.MovesRun : Prop :=
  (∀ (r : Nat) (s : State) (m : Move), Map.find s.moves r = some m →
    let goes (i : Instr) (n : Move) : Prop := ∃ (t : State), exec i s = .next t ∧ t = { s with moves := t.moves } ∧ RecordIs s t r (some n)
    let stays (i : Instr) : Prop := exec i s = .next s
    let refreshing : Prop := ∃ p ∈ m.pgs, ∃ k, (s.stackOf p.src = some k ∨ s.stackOf p.dst = some k) ∧ Map.find s.refresh k ≠ none
    let off := 128 * m.done
    let copies (t : State) (a b : Nat) (zero : Bool) : Prop :=
      ∀ i, getByte t.mem i = if b ≤ i ∧ i < b + 128 then (if zero then 0#8 else getByte s.mem (a + (i - b))) else getByte s.mem i
    let failed (p : MovePage) : Prop := (s.typOf p.dst, s.dieOf (s.typOf p.dst) p.dst) ∈ s.contained
    let cmdAt (i : Nat) : Nat := s.mqbase.toNat + 64 * (i % s.mqsize.toNat)
    let same : Prop := ∀ p ∈ m.pgs, s.readLE p.leafAt 8 = p.leaf.toNat
    (refreshing → stays (.lineCopy r)) ∧
    (¬ refreshing → m.phase = .copying → m.locked = false → (m.done < m.lines → m.abort = none → goes (.lineCopy r) { m with locked := true }) ∧
      (m.lines ≤ m.done ∨ m.abort ≠ none → stays (.lineCopy r))) ∧
    (¬ refreshing → m.phase = .copying → m.locked = true → m.evac = false →
      (∀ p, m.pgs = [p] → s.lineBad (p.src + off) = true → goes (.lineCopy r) { m with locked := false, abort := some (m.abort.getD 3) }) ∧
      (∀ p, m.pgs = [p] → s.lineBad (p.src + off) = false → failed p → goes (.lineCopy r) { m with locked := false, abort := some (m.abort.getD 4) }) ∧
      (∀ p, m.pgs = [p] → s.lineBad (p.src + off) = false → ¬ failed p → ∃ (t : State), exec (.lineCopy r) s = .next t ∧ RecordIs s t r (some { m with locked := false, done := m.done + 1 }) ∧
        copies t (p.src + off) (p.dst + off) false) ∧
      (∀ p q, m.pgs = [p, q] → q.src = p.dst → (p.src + 128 * m.lines ≤ p.dst ∨ p.dst + 128 * m.lines ≤ p.src) → m.done < m.lines →
        s.lineBad (p.src + off) = false → s.lineBad (q.src + off) = false → ¬ failed p → ¬ failed q →
        ∃ (t : State), exec (.lineCopy r) s = .next t ∧ RecordIs s t r (some { m with locked := false, done := m.done + 1 }) ∧
          ∀ i, getByte t.mem i = if p.dst + off ≤ i ∧ i < p.dst + off + 128 then getByte s.mem (p.src + (i - p.dst))
            else if p.src + off ≤ i ∧ i < p.src + off + 128 then getByte s.mem (p.dst + (i - p.src)) else getByte s.mem i)) ∧
    (¬ refreshing → m.phase = .copying → m.locked = true → m.evac = true → ∀ p, m.pgs = [p] → ∃ (t : State), exec (.lineCopy r) s = .next t ∧
      RecordIs s t r (some { m with locked := false, done := m.done + 1 }) ∧ copies t (p.src + off) (p.dst + off) (s.lineBad (p.src + off)) ∧
      (s.lineBad (p.src + off) = true → t.lineBad (p.dst + off) = true)) ∧
    (∀ c, ¬ refreshing → m.phase = .copyBack c → (m.done = 0 → m.locked = false → stays (.lineCopy r)) ∧ (0 < m.done → m.locked = false → goes (.lineCopy r) { m with locked := true }) ∧
      (m.locked = true → 0 < m.done → ∀ p, m.pgs = [p] → ∃ (t : State), exec (.lineCopy r) s = .next t ∧ RecordIs s t r (some { m with locked := false, done := m.done - 1 }) ∧
        copies t (p.dst + 128 * (m.done - 1)) (p.src + 128 * (m.done - 1)) false)) ∧
    (m.phase = .copying → (m.abort = none ∨ m.locked = true → stays (.moveAbort r)) ∧ (∀ c, m.abort = some c → m.locked = false → goes (.moveAbort r) { m with phase := .copyBack c })) ∧
    (∀ c, m.phase = .copyBack c → (m.done ≠ 0 ∨ m.locked = true → stays (.moveAbort r)) ∧
      (m.done = 0 → m.locked = false → ∀ i, m.cmd = some i → exec (.moveAbort r) s = .next (m.abortCmds.foldl (fun (t : State) j => t.writeMem (cmdAt j + 0x20) (leBytes 8 1))
        ((({ s with moves := s.moves.del r }.writeMem (cmdAt i + 0x28) (leBytes 8 c)).writeMem (cmdAt i + 0x20) (leBytes 8 2)).postDev 32 0xFF i c)))) ∧
    (m.phase ≠ .copying ∨ m.abort ≠ none ∨ m.done ≠ m.lines ∨ m.locked = true → stays (.moveComplete r)) ∧
    (m.phase = .copying → m.abort = none → m.done = m.lines → m.locked = false →
      (same → ∀ p, m.pgs = [p] → ∃ (t : State), exec (.moveComplete r) s = .next t ∧ RecordIs s t r (some { m with phase := .forwarding, shootsLeft := 1 }) ∧ t.readLE p.leafAt 8 = p.newLeaf.toNat ∧
        (∀ e, e ∈ t.tlb ↔ e ∈ s.tlb ∧ ¬(e.ctx = m.ctx ∧ e.va < p.va + 65536 * (m.lines / 512) ∧ p.va < e.va + (if e.large then 2097152 else 65536))) ∧
        (∃ h, (t.ctx m.ctx).shoots = (s.ctx m.ctx).shoots ++ [h] ∧ h.va = p.va ∧ h.pages = m.lines / 512 ∧ h.move = some r) ∧
        (p.leaf.toNat % 65536 ≤ p.newLeaf.toNat % 65536 → t.mem = setLE s.mem p.leafAt 8 p.newLeaf.toNat)) ∧
      (¬ same → m.evac = false → goes (.moveComplete r) { m with abort := some 2 }) ∧
      (¬ same → m.evac = true → ∀ p ps l, m.pgs = p :: ps → p.va < 2 ^ 57 → s.walk m.ctx p.va = .leaf l → l.large = decide (m.lines = 16384) → p.va % (if l.large then 2097152 else 65536) = 0 →
        s.stackOf (l.bits.toNat / 65536 % 2 ^ 36 * 65536) = s.stackOf p.src → s.typOf p.dst < 8 → ∃ (t : State) (q : MovePage), exec (.moveComplete r) s = .next t ∧ t = { s with moves := t.moves } ∧
          MovesPage s q p.va l p.dst 0 ∧ RecordIs s t r (some { m with pgs := [q], done := if q.src = p.src then m.done else 0 }))) ∧
    (m.phase ≠ .forwarding ∨ m.shootsLeft ≠ 0 ∨ ¬ NoneToOldFrame s m → stays (.moveRetire r)) ∧
    (m.phase = .forwarding → m.shootsLeft = 0 → NoneToOldFrame s m → m.evac = false → ∀ i, m.cmd = some i →
      let u : State := { s with moves := s.moves.del r }
      (∀ p, m.pgs = [p] → exec (.moveRetire r) s = .next ((u.postDev 33 0xFF p.src 0).writeMem (cmdAt i + 0x20) (leBytes 8 1))) ∧
      (∀ p q, m.pgs = [p, q] → exec (.moveRetire r) s = .next (u.writeMem (cmdAt i + 0x20) (leBytes 8 1))))) ∧
  (∀ (c va : Nat) (s : State), let h := (s.ctx c).hist va
    (h.pinEnd = 0 ∨ s.gtime < h.pinEnd → exec (.thrashPinExpire c va) s = .next s) ∧
    (h.pinEnd ≠ 0 → h.pinEnd ≤ s.gtime → ∃ (t : State), exec (.thrashPinExpire c va) s = .next t ∧ (t.ctx c).hist va = { h with pinEnd := 0 } ∧
      (∀ w, w ≠ va → (t.ctx c).hist w = (s.ctx c).hist w) ∧ ∀ d, d ≠ c → t.ctx d = s.ctx d)) ∧
  (∀ (s : State), (s.gtime < s.nextHot * 1000 → exec .hotnessReport s = .next s) ∧
    (s.nextHot * 1000 ≤ s.gtime → ∀ c p, s.ctxNums = [c] → (s.ctx c).htsize ≠ 0#64 → s.leaves c = [p] → p.2.large = false →
      let x := s.ctx c
      let w := p.2.bits.toNat
      let fr := w / 65536 % 2 ^ 36 * 65536
      let hot := Map.get 0 s.hot (fr / 65536)
      let pin : Bool := decide (s.gtime < (x.hist p.1).pinEnd)
      let wrote := s.vWriteBytes c (x.htbase.toNat + 16 * (x.hthead % x.htsize.toNat))
        (leBytes 8 p.1 ++ leBytes 1 hot ++ leBytes 1 (s.typOf fr) ++ leBytes 1 ((if pin then 1 else 0) + (if pin ∨ w.testBit 55 = true then 2 else 0) + (if s.inMotion c p.1 then 4 else 0)) ++
          leBytes 1 (s.dieOf (s.typOf fr) fr) ++ leBytes 4 (s.gtime / 1000))
      w / 2 ^ 59 % 8 < 3 → x.htmin.toNat ≤ hot → x.migpol.getLsbD 16 = false → Map.sortedFrom 0 s.hot = true → wrote.leaves c = [p] →
        ∃ (t : State), exec .hotnessReport s = .next t ∧ t.nextHot = s.nextHot + 1000 ∧ (t.ctx c).hthead = x.hthead + 1 ∧
          (t.ctx c).htovf = (if x.htsize.toNat ≤ x.hthead then x.htovf + 1 else x.htovf) ∧ (∀ f, Map.get 0 t.hot f = Map.get 0 s.hot f / 2) ∧
          t.mem = wrote.mem) ∧
    (s.nextHot * 1000 ≤ s.gtime → ∀ c f n, s.ctxNums = [c] → (s.ctx c).htsize = 0#64 → (s.ctx c).migpol.getLsbD 16 = true → s.leaves c = [f, n] → f.2.large = false → n.2.large = false → f.1 ≠ n.1 →
      let pol := (s.ctx c).migpol.toNat
      let tier (l : Leaf) : Nat := l.bits.toNat / 2 ^ 59 % 8
      let frame (l : Leaf) : Nat := l.bits.toNat / 65536 % 2 ^ 36 * 65536
      let die (l : Leaf) : Nat := s.dieOf (tier l) (frame l)
      (tier f.2 = 1 ∨ tier f.2 = 2) → tier n.2 = 0 → die f.2 = die n.2 → die f.2 < 9 → ¬ s.staysPut c f.1 f.2 → ¬ s.staysPut c n.1 n.2 → s.mayStart c f.1 → s.mayStart c n.1 →
      pol % 256 ≤ Map.get 0 s.hot (frame f.2 / 65536) → Map.get 0 s.hot (frame n.2 / 65536) ≤ pol / 256 % 256 → s.engineFree (frame f.2) = true →
      s.typOf (frame f.2) < 8 → s.typOf (frame n.2) < 8 →
        ∃ (t : State) (r : Nat) (m : Move) (p q : MovePage), exec .hotnessReport s = .next t ∧ t.mem = s.mem ∧ t.nextHot = s.nextHot + 1000 ∧ RecordIs s t r (some m) ∧ FreshMove m c 512 none false ∧
          m.pgs = [p, q] ∧ MovesPage s p f.1 f.2 (frame n.2) (n.2.bits.toNat % 65536) ∧ MovesPage s q n.1 n.2 (frame f.2) (f.2.bits.toNat % 65536)))

/-- Flits are received in order, links replay and retrain, ports leave service, exported pages serve requests, channels pause and resume (R412, R413, R414, R415, R416, R417, R418, R419, R141, R94). -/
def Obligations.FabricPorts : Prop :=
  ∀ (port : Nat) (s : State), let p := s.port port
    let put (x : Port) : Out := .next (s.setPort port x)
    (∀ (lane vc ack seq : Nat) (ackv nak : Bool) (payload : List Byte), lane < 4 → vc < 16 → ack < 4096 → seq < 4096 → payload.length = 240 →
      let f := flitOf ⟨lane, vc, ackv, nak, ack, seq⟩ payload
      (p.up = false ∨ p.retraining = true → exec (.flitReceive port f) s = .next s) ∧
      (p.up = true → p.retraining = false →
        (∀ b, leNat (b.drop 248) ≠ crc64 (b.take 248) → exec (.flitReceive port b) s = put { p with nak := true }) ∧
        (p.rxSeq < 4096 → seq ≠ p.rxSeq → exec (.flitReceive port f) s = if (seq + 4096 - p.rxSeq) % 4096 < 2048 then put { p with nak := true } else .next s) ∧
        (seq = p.rxSeq → lane = 3 → ∃ (t : State) (q : Port), exec (.flitReceive port f) s = .next t ∧ t = s.setPort port q ∧ q.rxSeq = (p.rxSeq + 1) % 4096 ∧ q.nak = false ∧ q.rx = p.rx ∧
          (ackv = false → q.replay = p.replay ∧ q.resend = p.resend) ∧
          (∀ k, ackv = true → 1 ≤ k → k ≤ p.replay.length → p.replay.length ≤ 1024 → p.txSeq < 4096 → ack = (p.txSeq + 4096 - p.replay.length + k - 1) % 4096 →
            q.replay = p.replay.drop k ∧ q.resends = 0 ∧ q.resend = (p.resend || nak))) ∧
        (∀ r : FReq, seq = p.rxSeq → lane < 3 → r.op < 4 → r.src < 4096 → r.e2e < 65536 → r.addr < 2 ^ 52 → r.arg < 4096 → r.reserved = false → r.data.length = r.dataLen 0 →
          (∃ b ∈ r.bytes, b ≠ 0#8) → payload = r.bytes ++ List.replicate (240 - r.bytes.length) 0#8 → Map.get [] p.partial_ (16 * lane + vc) = [] →
          ∃ (t : State), exec (.flitReceive port f) s = .next t ∧ (t.port port).rxSeq = (p.rxSeq + 1) % 4096 ∧ t.mem = s.mem ∧
            Map.get [] (t.port port).rx vc = Map.get [] p.rx vc ++ (if r.e2e = (Map.get 0 s.e2eSeen (16 * r.src + vc) + 1) % 65536 then [r] else [])))) ∧
    (p.up = true → p.resend = true → p.retraining = false → exec (.linkReplay port) s = put (if 8 ≤ p.resends then { p with retraining := true } else { p with resend := false, resends := if p.replay = [] then 0 else p.resends + 1 })) ∧
    (p.up = false ∨ p.resend = false ∨ p.retraining = true → exec (.linkReplay port) s = .next s) ∧
    (p.up = true → p.retraining = false → exec (.linkRetrain port) s = put { p with retraining := true }) ∧ (p.up = false ∨ p.retraining = true → exec (.linkRetrain port) s = .next s) ∧
    (p.retraining = true → exec (.linkTrainDone port) s = put { p with retraining := false, up := p.en, resends := 0, resend := decide (p.replay ≠ []) }) ∧
    (p.retraining = false → exec (.linkTrainDone port) s = .next s ∧ exec (.portDown port) s = .next s) ∧
    (p.retraining = true → p.txPaused = [] → (∀ e ∈ s.sent, e.port ≠ port) → ∃ (t : State), exec (.portDown port) s = .next t ∧ t = { s with ports := t.ports, ctxs := t.ctxs } ∧
      t.ports = s.ports.put port { p with up := false, retraining := false, replay := [], partial_ := [], resend := false, resends := 0, nak := false } ∧
      ∀ c, t.ctx c = { s.ctx c with ledger := (s.ctx c).ledger.filter (fun k => match k.res with | .fabric q _ => q != port | _ => true) }) ∧
    (∀ (e : Sent) (q h : Nat), p.retraining = true → p.txPaused = [] → s.sent = [e] → e.port = port → e.req.op < 3 → e.req.data.length ≤ 228 → q ≠ port →
      { s with ports := s.ports.put port { p with up := false } }.routeOf e.dst = some (q, h) → ∃ (t : State), exec (.portDown port) s = .next t ∧ t.sent = [{ e with port := q }] ∧
        (t.port q).replay = (s.port q).replay ++ [flitOf ⟨0, e.vc, true, (s.port q).nak, ((s.port q).rxSeq + 4095) % 4096, (s.port q).txSeq⟩ e.req.bytes] ∧
        (t.port q).txSeq = ((s.port q).txSeq + 1) % 4096 ∧ (t.port port).up = false) ∧
    (∀ v : W64, port < 12 → (∀ m, m < 12 → m ≠ port → v.getLsbD m = (s.port m).en) →
      (v.getLsbD port = p.en → exec (.pctlWrite v) s = .next s) ∧
      (v.getLsbD port = true → p.en = false → exec (.pctlWrite v) s = put { p with en := true, retraining := if [0, 1, 1, 2, 3, 3, 5, 5, 6, 7, 7, 8].getD port 0 ∈ s.retDies then p.retraining else true }) ∧
      (v.getLsbD port = false → p.en = true → p.txPaused = [] → (∀ e ∈ s.sent, e.port ≠ port) → ∃ (t : State), exec (.pctlWrite v) s = .next t ∧
        t.ports = (s.ports.put port { p with en := false }).put port { p with en := false, up := false, retraining := false, replay := [], partial_ := [], resend := false, resends := 0, nak := false })) ∧
    (∀ vc : Nat, (Map.get [] p.rx vc = [] ∨ Map.find p.paused vc ≠ none → exec (.fabricRequest port vc) s = .next s) ∧
      (∀ r rest, Map.get [] p.rx vc = r :: rest → Map.find p.paused vc = none → r.op < 4 →
        let i := r.addr / 65536 % 2 ^ 24
        let w := s.readLE (s.expbase.toNat + 8 * i) 8
        let left := s.setPort port { p with rx := Map.set [] p.rx vc rest }
        let no : Prop := exec (.fabricRequest port vc) s = .next (left.answer port vc r 7 [])
        let o := if r.op = 3 then 128 * (r.arg % 512) else r.addr % 65536
        let n := if r.op = 2 then (if r.arg.testBit 4 then 8 else 4) else if r.op = 3 then 128 else r.arg % 128 + 1
        let va := w % 2 ^ 41 * 65536 + o
        let c := w / 2 ^ 56 % 16
        let need := if r.op = 0 then 62 else if r.op = 2 then 60 else 61
        let leafNeed := if r.op = 0 then 58 else if r.op = 2 then 56 else 57
        let valid : Prop := i < s.expsize.toNat ∧ w.testBit 63 = true ∧ w / 2 ^ 41 % 2 ^ 15 = 0
        (¬ valid → no) ∧ (valid → s.walk c va = .malformed → no) ∧
        (valid → s.walk c va = .absent → ∃ (t : State), exec (.fabricRequest port vc) s = .next t ∧ Map.find (t.port port).paused vc = some (va / 65536 * 65536, c) ∧
          (t.port port).rx = p.rx ∧ LastRecord s t 6 0 c 0xFFFF 0xFFFF (va / 65536 * 65536) (port + 16 * vc)) ∧
        (∀ l, valid → s.walk c va = .leaf l → w.testBit need = false ∨ l.bits.getLsbD leafNeed = false ∨ l.bits.toNat / 2 ^ 59 % 8 = 4 ∨ 65536 < o + n → no) ∧
        (∀ l pa page typ gen, valid → s.walk c va = .leaf l → w.testBit need = true → l.bits.getLsbD leafNeed = true → o + n ≤ 65536 → leafPlace l va = .phys pa page typ gen →
          s.served c { va := va, place := .phys pa page typ gen, size := n } = true →
          let home := homeOf c page gen pa s.moves
          (r.op = 1 ∨ r.op = 3 → r.data.length = n → ∃ (t : State), exec (.fabricRequest port vc) s = .next t ∧ Map.get [] (t.port port).rx vc = rest ∧
            ∀ a, getByte t.mem a = if home ≤ a ∧ a < home + n then r.data.getD (a - home) 0#8 else getByte s.mem a) ∧
          (r.op = 0 → s.lineBad home = false → s.routeOf r.src = none → ∃ (t : State), exec (.fabricRequest port vc) s = .next t ∧ t.mem = s.mem ∧ Map.get [] (t.port port).rx vc = rest ∧
            (t.port port).replay = p.replay ++ [flitOf ⟨1, vc, true, p.nak, (p.rxSeq + 4095) % 4096, p.txSeq⟩
              (leBytes 12 (6 * 2 ^ 92 + s.devid.toNat % 4096 * 2 ^ 80 + r.e2e * 2 ^ 64 + r.addr * 2 ^ 12 + (n - 1)) ++ getBytes s.mem home n)]))) ∧
      (p.up = true → Map.find p.txPaused vc = none → ∃ (t : State), exec (.pauseNotice port vc) s = .next t ∧ t = { s with ports := t.ports, touched := t.touched } ∧
        Map.find (t.port port).txPaused vc = some s.gtime ∧
        ∀ c, c < 16 → ((.fabric port vc, 0, c) ∈ t.touched ↔ (.fabric port vc, 0, c) ∈ s.touched ∨ ∃ e ∈ (s.ctx c).ledger, e.res = .fabric port vc)) ∧
      (p.up = false ∨ Map.find p.txPaused vc ≠ none → exec (.pauseNotice port vc) s = .next s) ∧ (Map.find p.txPaused vc = none → exec (.resumeNotice port vc) s = .next s) ∧
      (∀ b c, Map.find p.txPaused vc = some b → s.touched = [(.fabric port vc, 0, c)] →
        exec (.resumeNotice port vc) s = .next ({ s with touched := [], excursions := s.excursions ++ [(c, b, s.gtime)] }.setPort port { p with txPaused := p.txPaused.del vc })))

/-- DCMD stops, resumes and steps groups at region edges; saved stops, watch hits and samples leave their records (R431, R433, R434, R435, R436, R440, R441, R442, R396). -/
def Obligations.DebugAndSamples : Prop :=
  (∀ (c : Nat) (v : W64) (s : State), let named (kv : Nat × Group) : Prop := kv.2.ctx = c ∧ kv.2.residence ≠ .ended ∧ (s.lau kv.2.launch).lid = v.toNat / 65536 % 65536 ∧
      (s.lau kv.2.launch).phase = .running ∧ (v.getLsbD 42 = true ∨ kv.2.gid = v.toNat / 2 ^ 32 % 1024)
    let err : Out := .next (s.setCtx c { s.ctx c with err := 5 })
    let stopped (x : Group) : Prop := x.residence = .saved 0 ∧ x.dbgGo = false
    ((∀ kv ∈ s.groups, ¬ named kv) → exec (.debugStop c v) s = err) ∧
    ((s.groups.map (fun kv => kv.1)).Nodup → (∀ kv ∈ s.groups, ¬(named kv ∧ stopped kv.2)) → exec (.debugResume c v) s = err ∧ exec (.debugStep c v) s = err) ∧
    (∀ g x, (s.groups.map (fun kv => kv.1)).Nodup → Map.find s.groups g = some x → named (g, x) → (∀ kv ∈ s.groups, named kv → kv.1 = g) →
      (stopped x → exec (.debugStop c v) s = .next s) ∧ (¬ stopped x → exec (.debugStop c v) s = .next (s.setGrp g { x with dbgStop := some (x.dbgStop.getD 2) })) ∧
      (stopped x → ∀ e ∈ [(Instr.debugResume c v, none), (Instr.debugStep c v, some 3)],
        let fits : Prop := (s.ctx c).st = .running ∧ (s.ctx c).lkFault = none ∧ 8 * x.valloc ≤ s.freeV x.core x.slot ∧ 64 * x.salloc ≤ s.freeS x.core x.slot ∧ (s.slotGroups x.core x.slot).length < 96
        let a := (s.ctx c).lkbase.toNat + 40960 * x.locket
        let rd (o n : Nat) : Nat := s.vRead c (a + o) n
        (¬ fits → exec e.1 s = .next (s.setGrp g { x with dbgGo := true, dbgStop := e.2 })) ∧
        (fits → s.frameOk x = true → ∃ (t : State) (y : Group), exec e.1 s = .next t ∧ t = s.setGrp g y ∧ y.residence = .resident ∧ y.dbgGo = false ∧ y.atEdge = false ∧ y.dbgStop = e.2 ∧
          y.notBefore = (if x.core / 80 = x.savedDie then x.notBefore else Nat.max x.notBefore (x.savedGt + 9)) ∧
        y.pc = BitVec.ofNat 64 (rd 0x380 4) ∧ y.m0 = BitVec.ofNat 32 (rd 0x384 4) ∧ (∀ k, 0 < k → k < 64 * x.salloc → y.sr k = BitVec.ofNat 64 (rd (0x800 + 8 * k) 8)) ∧
          ∀ k l, k < 8 * x.valloc → l < 32 → y.vr k l = BitVec.ofNat 32 (rd (0x800 + 512 * x.salloc + 128 * k + 4 * l) 4)) ∧
        (fits → s.frameOk x = false → ∃ (t : State), exec e.1 s = .next t ∧ Stopped t g { x with dbgGo := true, dbgStop := e.2 })))) ∧
  (∀ (g : Nat) (s : State) (x : Group), Map.find s.groups g = some x →
    let still : Prop := x.atEdge = true ∧ x.residence = .resident ∧ x.queue = [] ∧ x.pend = [] ∧ x.pfWait = []
    (x.dbgStop = none ∨ ¬ still → exec (.debugStopSave g) s = .next s) ∧
    (∀ k, x.dbgStop = some k → still → s.FrameMapped x → (s.lau x.launch).target = none → ∃ u, SavedIn s u g x 0 ∧
      let lid := (s.lau x.launch).lid
      exec (.debugStopSave g) s = .next ((u.setGrp g { x with residence := .saved 0, savedGt := s.gtime, savedDie := x.core / 80, dbgStop := none, dbgGo := false }).postRing x.ctx .debug
        (leBytes 2 k ++ leBytes 1 0 ++ leBytes 1 0xFF ++ leBytes 2 lid ++ leBytes 2 x.gid ++ leBytes 8 s.gtime ++ leBytes 4 (x.pc - 4#64).toNat ++ leBytes 2 0xFFFF ++
          leBytes 2 (if k = 1 then x.brkArg else 0) ++ leBytes 8 0 ++ leBytes 4 0 ++ leBytes 4 x.m0.toNat ++ leBytes 8 x.rgnWord.toNat ++
          leBytes 8 ((s.ctx x.ctx).lkbase.toNat + 40960 * x.locket) ++ leBytes 8 0)))) ∧
  (∀ (c : Nat) (s : State), ((s.ctx c).hits = [] → exec (.watchHit c) s = .next s) ∧
    ∀ h hs, (s.ctx c).hits = h :: hs → h.launch = none →
      let t := (s.setCtx c { s.ctx c with hits := hs }).postRing c .debug
        (leBytes 2 4 ++ leBytes 1 h.src ++ leBytes 1 h.wp ++ leBytes 2 h.lid ++ leBytes 2 h.gid ++ leBytes 8 s.gtime ++ leBytes 4 h.pc ++ leBytes 2 h.lpos ++ leBytes 2 h.arg ++ leBytes 8 h.addr ++
          leBytes 4 h.size ++ leBytes 4 h.mask.toNat ++ leBytes 8 h.rgn.toNat ++ leBytes 8 0 ++ leBytes 8 0)
      (h.stops = none → exec (.watchHit c) s = .next t) ∧
      ∀ g y, h.stops = some g → Map.find s.groups g = some y → exec (.watchHit c) s = .next (if y.residence = .ended then t else t.setGrp g { y with dbgStop := some (y.dbgStop.getD 2) })) ∧
  (∀ (core quad : Nat) (s : State) (x : Sampler), Map.find s.samplers (4 * core + quad) = some x →
    let put (y : Sampler) : Out := .next { s with samplers := s.samplers.put (4 * core + quad) y }
    (x.tag = none → x.armed = false → x.due ≤ s.atick → exec (.sampleTag core quad) s = put { x with armed := true }) ∧
    (x.tag ≠ none ∨ x.armed = true ∨ s.atick < x.due → exec (.sampleTag core quad) s = .next s) ∧ (x.tag = none → exec (.sampleRecord core quad) s = .next s) ∧
    ∀ k y, x.tag = some k → x.ctx = some k.ctx → Map.find s.groups k.group = some y →
      let mine (n : Nat) : Prop := k.lo < n ∧ n ≤ k.hi
      let open_ : Prop := (∃ p ∈ y.pend, mine p.id) ∨ ∃ e ∈ y.ops, mine e.id ∧ e.done = false ∧ ∀ p ∈ y.pend, p.id ≠ e.id
      let off : Prop := (s.ctx k.ctx).st ≠ .running ∧ (s.ctx k.ctx).st ≠ .vacating
      (k.trapped = false → open_ → ¬ off → exec (.sampleRecord core quad) s = .next s) ∧
      (k.trapped = true ∨ ¬ open_ ∨ off → ∃ (t u : State) (level flags lat : Nat), exec (.sampleRecord core quad) s = .next t ∧
        u = { s with freeCtr := u.freeCtr }.postRing k.ctx .sample (leBytes 2 core ++ leBytes 1 quad ++ leBytes 1 level ++ leBytes 2 k.lid ++ leBytes 2 k.gid ++ leBytes 8 k.time ++ leBytes 4 k.pc ++
          leBytes 2 k.lpos ++ leBytes 2 flags ++ leBytes 4 k.word ++ leBytes 4 k.mask.toNat ++ leBytes 10 lat ++ List.replicate 6 0#8 ++ leBytes 8 k.rgn.toNat ++ leBytes 8 0) ∧
        (k.hi ≤ k.lo → level = 0) ∧ flags.testBit 0 = k.lane ∧ flags.testBit 1 = k.trapped ∧ (flags.testBit 2 = true ↔ open_ ∧ off) ∧ flags < 32 ∧
        ∃ z : Sampler, t = { u with samplers := u.samplers.put (4 * core + quad) z } ∧ z.tag = none ∧ z.armed = false ∧ z.lfsr = lfsrAdvance x.lfsr ∧
          z.due = s.atick + (u.ctx k.ctx).speriod.toNat % 65536 + x.lfsr.toNat / 256 % 2 ^ ((u.ctx k.ctx).speriod.toNat / 65536 % 16)))

/-- Bring-up, reset, clock steps, thermal limits, self-refresh, retirement and the sideband commands do what the spec gives each (R446, R447, R448, R450, R451, R452, R453, R404, R407, R408, R410, R141). -/
def Obligations.PowerAndSideband : Prop :=
  (∀ s : State, (s.bootFail ≠ none → exec .powerGood s = .next s) ∧ (s.bootFail = none → (s.boot = 0 → exec .powerGood s = .next { s with boot := 1 }) ∧ (s.boot = 1 → exec .powerGood s = .next { s with boot := 2, atick := 0, gunits := 0 }) ∧
    (s.boot = 2 → exec .powerGood s = .next { s with boot := 3 }) ∧
    (s.boot = 3 → ∃ (t : State), exec .powerGood s = .next t ∧ t = { s with boot := 4, retCores := t.retCores, retDies := t.retDies, retStacks := t.retStacks } ∧
      (∀ n, n ∈ t.retCores ↔ (0, n) ∈ s.flash) ∧ (∀ n, n ∈ t.retDies ↔ (1, n) ∈ s.flash ∨ ∃ k, (n, k) ∈ s.clocks ∧ k.stopped = true) ∧ ∀ n, n ∈ t.retStacks ↔ (2, n) ∈ s.flash) ∧
    (s.boot = 4 → ∃ (t : State), exec .powerGood s = .next t ∧ t = { s with boot := 5, hostlink := s.hostNext, ports := t.ports } ∧
      ∀ n, n < 12 → t.port n = if [0, 1, 1, 2, 3, 3, 5, 5, 6, 7, 7, 8].getD n 0 ∈ s.retDies then {} else { retraining := true }) ∧
    (s.boot = 5 → exec .powerGood s = .next { s with boot := 6, fwActive := if s.fwNext = [] then s.fwActive else s.fwNext, fwNext := [] }) ∧ (5 < s.boot → exec .powerGood s = .next s)) ∧
    (s.boot = 0 → exec .reset s = .next s) ∧
    (s.boot ≠ 0 → ∃ (t : State), exec .reset s = .next t ∧ t.boot = 1 ∧ t.bootFail = none ∧ t.flash = s.flash ∧ t.fwActive = s.fwActive ∧ t.fwNext = s.fwNext ∧ t.hostNext = s.hostNext ∧ t.bervosLog = s.bervosLog ∧
      t.ctxs = State.reset.ctxs ∧ t.groups = [] ∧ t.launches = [] ∧ t.copies = [] ∧ t.moves = [] ∧ t.tlb = [] ∧ t.ports = State.reset.ports ∧ t.agenda = s.agenda)) ∧
  (∀ (die : Nat) (s : State), let k := s.clk die
    let put (x : DieClock) : Out := .next { s with clocks := s.clocks.put die x }
    let room : Prop := ∀ kv ∈ s.ctxs, (∃ i, i < 1440 ∧ kv.2.part.getLsbD i = true ∧ i / 160 = die) → kv.2.estimate + 1500 ≤ kv.2.vbcur.toNat
    let rested : Prop := ∀ e, k.lastEnd = some e → e + 10000 ≤ s.gtime
    (k.want = none ∨ k.relock ≠ none ∨ k.stopped = true ∨ ¬ room ∨ ¬ rested → exec (.clockStepStart die) s = .next s) ∧
    (∀ f, k.want = some f → k.relock = none → k.stopped = false → room → rested → exec (.clockStepStart die) s = put { k with want := none, relock := some (s.gtime, f) }) ∧
    (k.relock = none → exec (.clockRestart die) s = .next s) ∧
    (∀ b f, k.relock = some (b, f) → (s.gtime < b + 1500 → exec (.clockRestart die) s = .next s) ∧ (b + 1500 ≤ s.gtime → exec (.clockRestart die) s = put { k with
      relock := none, cstepG := b + 1500, cstepC := k.cstepC + (b - k.cstepG) * k.cfreq / 1000, cfreq := f, lastEnd := some (b + 1500) })) ∧
    (∀ n, n < 7 → k.cfreq = 1200 + 100 * n →
      exec (.thermalStepDown die) s = (if n = 0 then .next s else put { k with want := some (k.cfreq - 100) }) ∧
      exec (.thermalStepUp die) s = (if n = 6 ∨ k.ceiling < k.cfreq + 100 then .next s else put { k with want := some (k.cfreq + 100) })) ∧
    (k.stopped = true → exec (.dieThermalStop die) s = .next s) ∧
    (k.stopped = false → s.sent = [] → (∀ c x, (c, x) ∈ s.ctxs → x.image = none ∧ x.part = 0#1440 ∧ x.ledger = []) →
      let here (p : Nat) : Prop := p < 12 ∧ [0, 1, 1, 2, 3, 3, 5, 5, 6, 7, 7, 8].getD p 0 = die
      (∀ p, here p → (s.port p).txPaused = []) →
      ∃ (t : State), exec (.dieThermalStop die) s = .next t ∧
        t = { s with clocks := s.clocks.put die { k with stopped := true }, retDies := die :: s.retDies, retiring := s.retiring ++ [(1, die)], ports := t.ports, ctxs := t.ctxs } ∧
        (∀ c, t.ctx c = s.ctx c) ∧ (∀ p, here p → (t.port p).up = false) ∧ ∀ p, ¬ here p → t.port p = s.port p)) ∧
  (∀ (k : Nat) (s : State), let res : Resource := .tier ([0, 0, 1, 2, 2, 3, 5, 6, 6, 7, 8, 8].getD k 0) 0
    (∀ b, Map.find s.refresh k = some b → exec (.selfRefreshEnter k) s = .next s ∧
      ∀ c, s.touched = [(res, k, c)] → exec (.selfRefreshExit k) s = .next { s with touched := [], excursions := s.excursions ++ [(c, b, s.gtime)], refresh := s.refresh.del k }) ∧
    (Map.find s.refresh k = none → exec (.selfRefreshExit k) s = .next s ∧ ∃ (t : State), exec (.selfRefreshEnter k) s = .next t ∧
      t = { s with refresh := s.refresh.put k s.gtime, touched := t.touched } ∧
      ∀ c, c < 16 → ((res, k, c) ∈ t.touched ↔ (res, k, c) ∈ s.touched ∨ ∃ e ∈ (s.ctx c).ledger, e.res = res))) ∧
  (∀ (s : State), let replies (t : State) (n : Nat) (ws : List Nat) : Out := .next { t with reply := { status := n, words := ws } }
    let freq (f : Nat) : Prop := ∃ n, n < 7 ∧ f = 1200 + 100 * n
    let clk (d : Nat) (x : DieClock) : State := { s with clocks := s.clocks.put d x }
    s.boot ≠ 0 → (∀ d f, (8 < d ∨ ¬ freq f → exec (.step d f) s = replies s 2 [] ∧ exec (.ceiling d f) s = replies s 2 []) ∧
      (d < 9 → freq f → exec (.step d f) s = replies (clk d { s.clk d with want := some f }) 0 [] ∧ exec (.ceiling d f) s = replies (clk d { s.clk d with ceiling := f }) 0 [])) ∧
    (∀ z : Int, exec (.trim z) s = if z.natAbs ≤ 200000 then replies { s with trim := z } 0 [] else replies s 2 []) ∧
    (∀ d, (8 < d → exec (.telemetry d) s = replies s 2 []) ∧ (d < 9 → ∃ a b, exec (.telemetry d) s = replies s 0 ([a, b, (s.clk d).cfreq] ++ (List.range 8).map (fun l => (Map.get {} s.corrected (8 * d + l)).total)))) ∧
    (∀ n, (∀ bs, s.bervosLog[n]? = some bs → exec (.logread n) s = replies s 0 (bs.map (fun b => b.toNat))) ∧ (s.bervosLog[n]? = none → exec (.logread n) s = replies s 2 [])) ∧
    (∀ bs, exec (.fwupdate bs) s = replies { s with fwNext := s.fwNext ++ bs } 0 []) ∧
    (∀ n, (n < 4 → exec (.hostlink n) s = replies { s with hostNext := some n } 0 []) ∧ (n = 4 → exec (.hostlink n) s = replies { s with hostNext := none } 0 []) ∧ (4 < n → exec (.hostlink n) s = replies s 2 [])) ∧
    (∀ k n, (s.retiring ≠ [] → exec (.retire k n) s = replies s 3 []) ∧
      (s.retiring = [] → 2 < k ∨ [720, 9, 12].getD k 0 ≤ n → exec (.retire k n) s = replies s 2 []) ∧
      (s.retiring = [] → k = 2 → n < 12 → n ∈ s.retStacks ∨ s.pagesOnStack n ≠ [] → exec (.retire k n) s = replies s 1 []) ∧
      (s.retiring = [] → k = 1 → n < 9 → n = 4 ∨ n ∈ s.retDies ∨ s.pagesOnDie n = true → exec (.retire k n) s = replies s 1 []) ∧
      (s.retiring = [] → k = 0 → n < 720 → n ∈ s.retCores ∨ n / 80 ∈ s.retDies → exec (.retire k n) s = replies s 1 []) ∧
      (s.retiring = [] → k = 0 → n < 720 → n ∉ s.retCores → n / 80 ∉ s.retDies → (∀ c x, (c, x) ∈ s.ctxs → x.image = none ∧ x.part = 0#1440) → ∃ (t : State), exec (.retire k n) s = .next t ∧
        t = { s with retCores := n :: s.retCores, retiring := [(0, n)], flash := s.flash ++ [(0, n)], reply := { status := 0, words := [] }, ctxs := t.ctxs } ∧ ∀ c, t.ctx c = s.ctx c)))

/-- A step fetches, decodes and executes the instruction of the thread whose turn it is (R14, R142, R191, R55). -/
def Obligations.StepRunsDecoded : Prop :=
  (∀ (g : Nat) (rest : List Turn) (s : State) (x : Group) (w : Nat), s.agenda = .scalar g :: rest → s.boot = 6 → Map.find s.groups g = some x → s.canScalar x = true →
    (x.trap = none → ∀ e ∈ x.front, ¬(e.kind = .joinWait ∧ e.lapsed = true)) → (∀ k ∈ s.samplers, k.2.armed = false) →
    let q : State := { s with agenda := rest }
    q.yields g x = false →
    let p : State := { q.setGrp g { x with atEdge := false } with cur := g }
    let quad := x.sidx % 4
    let stays (i : Instr) (y : Group) : Prop := y.pc = x.pc ∧ y.wait = x.wait ∧ y.trap = x.trap ∧ y.residence = x.residence ∧ y.queue = x.queue ∧ y.pfWait = x.pfWait ∧ q.branches x i = false
    let runs (i : Instr) : Prop := (∀ f, exec i p = .fault f → step s = .fault f) ∧ (∀ r, exec i p = .refused r → step s = .refused r) ∧
      ∀ t y, exec i p = .next t → Map.find t.groups g = some y → t.samplers = s.samplers →
        let ends (v : State) : Prop := (q.cancelsServed t → step s = .next q) ∧ (¬ q.cancelsServed t → step s = .next v)
        let u := q.noted t x false
        (q.outOfOrder t g x false → q.branches x i = false → step s = .next q) ∧
        (¬ q.outOfOrder t g x false → stays i y → ends u) ∧
        (¬ q.outOfOrder t g x false → ¬ stays i y → x.faulted y = false ∨ (∀ kv ∈ s.groups, kv.2.core = x.core → kv.2.sidx % 4 = quad → kv.2.queue = []) →
          ends ({ u with marks := .scalar x.core quad :: u.marks, l1 := if observes i then u.l1.filter (fun n => !(n.core == x.core && n.ctx == x.ctx)) else u.l1 }.setGrp g
            { y with age := some (y.age.getD s.atick), lastScalar := q.cycle x.core quad + 1 }))
    (∀ i, s.WordAtPc x w → decode (leBytes 4 w) = .ok (i, []) → i.kind = .scalar → runs i) ∧
    (s.WordAtPc x w → (∀ i r, decode (leBytes 4 w) = .ok (i, r) → i.kind ≠ .scalar) → runs .illegalScalarWord) ∧
    (x.pc.toNat % 4 ≠ 0 ∨ (s.kd x).ssize ≤ x.pc.toNat → runs .scalarFetchFault)) ∧
  (∀ (i : Instr) (rest : List Turn) (s : State), s.agenda = .event i :: rest → i.kind = .step → s.boot = 6 →
    let q : State := { s with agenda := rest }
    (∀ f, exec i q = .fault f → step s = .fault f) ∧ (∀ r, exec i q = .refused r → step s = .refused r) ∧
    ∀ t, exec i q = .next t → (q.cancelsServed t → step s = .next q) ∧ (¬ q.cancelsServed t → step s = .next { t with l1 := if joins i then [] else t.l1 }))

/-- A quadrant issues the head of the first lane queue that can move; data that no lane may read is raised (R367, R150, R149, R155, R395, R441). -/
def Obligations.LaneIssue : Prop :=
  (∀ (core quad : Nat) (s : State), let can (kv : Nat × Group) : Prop := kv.2.core = core ∧ kv.2.sidx % 4 = quad ∧ kv.2.queue ≠ [] ∧ s.issuing kv.2 = true
    ((∀ kv ∈ s.groups, ¬ can kv) ∨ s.atick < Map.get 0 s.quadFree (4 * core + quad) → exec (.laneIssue core quad) s = .next s) ∧
    (∀ (g : Nat) (x : Group) (b : LaneBlock) (more : List LaneBlock) (w : Nat), (s.groups.map (fun kv => kv.1)).Nodup → Map.find s.groups g = some x → can (g, x) →
      (∀ kv ∈ s.groups, can kv → kv.1 ≠ g → s.goesBefore x kv.2) → x.queue = b :: more → b.redo ≠ some 0#32 → s.LaneWordAt x (b.start + b.pos) w → (b.pos ≠ 255 ∨ w % 2 = 1) →
      (∀ k ∈ s.samplers, k.2.armed = false) → Map.get 0 s.quadFree (4 * core + quad) ≤ s.atick →
      let u : State := { s with cur := g }
      let issues (n : Nat) (t : State) : Prop := t.samplers = s.samplers →
        (x.laneMoved (t.grp g) → ¬ s.outOfOrder t g x true → exec (.laneIssue core quad) s =
          .next { ((s.noted t x true).setGrp g { t.grp g with lastIssue := t.clock + 1, age := some (x.age.getD s.atick) }) with
            cur := s.cur, clock := t.clock + 1, quadFree := t.quadFree.put (4 * core + quad) (s.atick + n) }) ∧
        (¬ x.laneMoved (t.grp g) ∨ s.outOfOrder t g x true → (∀ kv ∈ s.groups, can kv → kv.1 = g) → exec (.laneIssue core quad) s = .next s)
      (∀ p ∈ int2Table, ∀ a, decodeLaneBytes (leBytes 12 w) = .ok (p.1 a, []) → a.ty ∈ intTypes → x.interval = false →
        LaneReady u x a.msk (regsOf a.ty a.va ++ bSources a) (regsOf a.ty a.vd) (sSources a) [] →
        ∃ (t : State) (y : Group), exec (.laneIssue core quad) s = .next t ∧ t = { s.setGrp g y with clock := s.clock + 1, quadFree := s.quadFree.put (4 * core + quad) (s.atick + (if tyIs64 a.ty then 2 else 1)) } ∧
          y = { (x.popLane a.e) with vreg := y.vreg, verr := y.verr, fflags := y.fflags, lfsr := y.lfsr, lastIssue := s.clock + 1, age := some (x.age.getD s.atick) } ∧
          ∀ k l, l < 32 → y.vr k l = if (x.active a.msk).getLsbD l = true
            then ((elemWords a.ty a.vd (p.2 (tyWidth a.ty) (tySigned a.ty) (BitVec.ofNat _ (x.elem a.ty a.va l)) (BitVec.ofNat _ (x.opB a l))).toNat).lookup k).getD (x.vr k l) else x.vr k l) ∧
      (∀ i t, decodeLaneBytes (leBytes 12 w) = .ok (i, []) → (∀ a, i ≠ .cpy a ∧ i ≠ .cpy2d a ∧ i ≠ .coll a) → exec i u = .next t → issues (occupancy i) t) ∧
      (∀ i a, decodeLaneBytes (leBytes 12 w) = .ok (i, []) → (i = .cpy a ∨ i = .cpy2d a ∨ i = .coll a) → issues 1 (u.laneCause x 0 0x01)) ∧
      ((∀ r, decodeLaneBytes (leBytes 12 w) ≠ .ok r) → issues 1 (u.laneCause x (if w / 2 ^ 85 % 8 = 5 ∨ w / 2 ^ 85 % 8 = 6 then 0 else w / 2 ^ 49 % 16) 0x01)))) ∧
  (∀ (g : Nat) (s : State) (x : Group), Map.find s.groups g = some x →
    (x.verr = [] ∨ s.issuing x = false → exec (.uncorrectableConsume g) s = .next s) ∧
    (∀ w i keys, keys ≠ [] → x.verr ≠ [] → x.queue = [] → s.canScalar x = true → x.pend = [] → x.trap = none → (s.kd x).trapv ≠ 0xFFFFFFFF → s.WordAtPc x w → decode (leBytes 4 w) = .ok (i, []) →
      ((i = .vsync ∨ (∃ n, i = .vgrow n ∨ i = .vshrink n) ∨ i = .endPath) ∧ keys = x.verr) ∨ (∃ l st c n k, i = .wcnt l st c n k ∧ keys = x.covered l) →
      let left : Group := { x with verr := x.verr.filter (fun e => !(keys.contains e)) }
      exec (.uncorrectableConsume g) s = .next (((s.setGrp g left).post x.ctx .fault 4 0x20 (s.lau x.launch).lid x.gid 0 6).setGrp g
        (left.inHandler 0x20 0 (s.kd x).trapv))) ∧
    (∀ b more w a, x.queue = b :: more → s.issuing x = true → x.trap = none → (s.kd x).trapv ≠ 0xFFFFFFFF → b.redo ≠ some 0#32 → s.LaneWordAt x (b.start + b.pos) w →
      (b.pos ≠ 255 ∨ w % 2 = 1) → decodeLaneBytes (leBytes 12 w) = .ok (.vand a, []) → a.ty = .n32 → a.sb = false → a.imm = false → x.interval = false → x.pendV = [] → x.pendS = [] →
      a.vd < 8 * x.valloc → a.va < 8 * x.valloc → a.vb < 8 * x.valloc → a.ss < 64 * x.salloc → x.lfsr.length = 32 →
      ∀ f : W32, f ≠ 0#32 → (∀ l, l < 32 → (f.getLsbD l = true ↔ (x.active a.msk).getLsbD l = true ∧ (32 * a.va + l ∈ x.verr ∨ 32 * a.vb + l ∈ x.verr))) →
        let done (k l : Nat) : Prop := k = a.vd ∧ (x.active a.msk).getLsbD l = true ∧ f.getLsbD l = false
        ∃ z : Group, z = { x with vreg := z.vreg, verr := z.verr, fflags := z.fflags, lfsr := z.lfsr } ∧
        (∀ k l, l < 32 → (done k l → z.vr k l = x.vr a.va l &&& x.vr a.vb l) ∧ (¬ done k l → z.vr k l = x.vr k l)) ∧
        (∀ k l, l < 32 → (32 * k + l ∈ z.verr ↔ 32 * k + l ∈ x.verr ∧ ¬ done k l)) ∧ z.fflags = x.fflags ∧ (∀ l, l < 32 → z.seed l = x.seed l) ∧
        exec (.uncorrectableConsume g) s = .next ((s.post x.ctx .fault 4 0x20 (s.lau x.launch).lid x.gid 0 6).setGrp g
          { z with trap := some { pc := x.pc, m0 := x.m0, fmt := x.fmt, f := f, held := more, i := some b, whole := false, tcause := 0x20#32, handler := .trap }
                   pc := BitVec.ofNat 64 (s.kd x).trapv, m0 := f, queue := [], replay := none, wait := .none })))

/-- The machine right after reset: nothing is up, contexts are FREE, registers hold their reset values, and every invariant holds (R446, R339, R340, R448, R417, R378, R372, R400). -/
def Obligations.ResetState : Prop :=
  let s := State.reset
  s.boot = 0 ∧ s.atick = 0 ∧ s.gtime = 0 ∧ s.mem = [] ∧ s.groups = [] ∧ s.launches = [] ∧ s.copies = [] ∧ s.tileOps = [] ∧ s.colls = [] ∧ s.moves = [] ∧ s.tlb = [] ∧ s.l1 = [] ∧ s.l2 = [] ∧ s.marks = [] ∧ s.quadFree = [] ∧ s.images = [] ∧ s.stack = [] ∧ s.shadows = [] ∧
  s.retCores = [] ∧ s.devid = 0#64 ∧ s.expbase = 0#64 ∧ s.expsize = 0#64 ∧ s.rtbase = 0#64 ∧ s.mqbase = 0#64 ∧ s.mqtail = 0#64 ∧ s.mqhead = 0 ∧ s.devq.head = 0 ∧
  (∀ n, (s.port n).up = false ∧ (s.port n).en = false) ∧ (∀ d, (s.clk d).cfreq = 1200 ∧ s.ccnt d = 0 ∧ (s.clk d).cstepG = 0 ∧ (s.clk d).cstepC = 0) ∧
  (∀ c, let x := s.ctx c
    x.en = false ∧ x.st = .free ∧ x.err = 0 ∧ x.part = 0#1440 ∧ x.ptroot = 0#64 ∧ x.vbreq = 1000000#64 ∧ x.vbcur = 1000000#64 ∧ x.lkbase = 0#64 ∧ x.lkcount = 0#64 ∧ x.excur = 0 ∧
    x.evt = 0#64 ∧ x.quota = 0#64 ∧ x.bal = 0 ∧ x.prio = 0#64 ∧ x.minrun = 100#64 ∧ x.qtbase = 0#64 ∧ x.qcount = 0#64 ∧ x.cntbase = 0#64 ∧ x.poolmax = 64#64 ∧ x.sdaddr = 0#64 ∧
    x.sdbusy = false ∧ x.sddone = false ∧ x.htbase = 0#64 ∧ x.htsize = 0#64 ∧ x.htmin = 1#64 ∧ x.migpol = 0#64 ∧ x.fq.size = 0#64 ∧ x.eq.size = 0#64 ∧ x.commbase = 0#64 ∧
    x.dbgctl = 0#64 ∧ x.queues = [] ∧ x.ledger = []) ∧
  s.TablesWf ∧ s.SlotsApart

/-- Every step keeps memory in its canonical form and the tables of the device in order (R14, R62, R339). -/
def Obligations.StepKeepsTables : Prop :=
  ∀ s t : State, s.TablesWf → step s = .next t → t.TablesWf

/-- No step gives a slot to two contexts (R339, R342, R348, R349, R371). -/
def Obligations.SlotsStayApart : Prop :=
  ∀ s t : State, s.SlotsApart → step s = .next t → t.SlotsApart

/-- Decoding the words of a well-formed instruction gives it back, and each word that decodes is the word of what it decodes to (R142, R143, R144, R145, R146, R149, R150, R151, R153, R154, R155). -/
def Obligations.DecodeEncodeAgree : Prop :=
  (∀ (i : Instr) (rest : List Byte), i.wf = true → i.kind = .scalar → encode i < 2 ^ 32 ∧ decode (leBytes 4 (encode i) ++ rest) = .ok (i, rest)) ∧
  (∀ (i : Instr) (rest : List Byte), i.wf = true → i.kind = .lane → encode i < 2 ^ 96 ∧ decodeLaneBytes (leBytes 12 (encode i) ++ rest) = .ok (i, rest)) ∧
  (∀ (w : Nat) (i : Instr), w < 2 ^ 32 → decodeScalar w = .ok i → encode i = w ∧ i.wf = true ∧ i.kind = .scalar) ∧
  (∀ (w : Nat) (i : Instr), w < 2 ^ 96 → decodeLane w = .ok i → encode i = w ∧ i.wf = true ∧ i.kind = .lane)

/-- Words written out from the encoding tables decode to the instructions that the tables give (R142, R145, R146, R147, R148, R149, R150, R153, R46). -/
def Obligations.WordsDecode : Prop :=
  (∀ e ∈ [(0x10040506, Instr.add 4 5 6), (0x15040506, .div 4 5 6), (0x2404B12D, .add2A 300 301), (0x4007FFFE, .li 7 0xFFFE), (0xC0000005, .vrun 5), (0xC9FF83FF, .wcnt 31 31 0 31 31),
      (0x00400000, .endPath), (0x00800007, .trap 7), (0x00C40000, .tret 1), (0x2E010203, .cmpLt 1 2 3), (0x36010203, .lea 2 1 2 3), (0x38000C28, .wset 3 40), (0x68050010, .sget 5 16),
      (0x701426AC, .lds 5 9 2 1 1 3), (0x83FFFFFF, .jmp 0x3FFFFFF), (0x98030004, .brLt 3 4), (0xB4C05008, .fjoin 3 5 8), (0xD8300000, .barBlk 3), (0xE0000002, .vgrow 2)],
    decode (leBytes 4 e.1) = .ok (e.2, [])) ∧
  (∀ w ∈ [0x04000000, 0x3C000000, 0xF0000000, 0x00000001, 0xB8C00000, 0x70142602], ∀ r, decode (leBytes 4 w) ≠ .ok r) ∧
  decodeLaneBytes [0x01#8, 0x00#8, 0x00#8, 0x00#8, 0x00#8, 0x00#8, 0x06#8, 0xC0#8, 0xA0#8, 0x80#8, 0x00#8, 0x00#8] =
    .ok (.vadd { vd := 4, va := 5, vb := 6, vc := 0, msk := 3, ty := .i32, rm := 0, md := 0, ss := 0, im := 0, sb := false, e := true }, []) ∧
  decodeLaneBytes (leBytes 12 0x038000000000004000000601) = .ok (.fence { vd := 0, va := 0, vb := 0, sz := 0, vc := 0, msk := 0, ty := .i32, rm := 0, md := 1, win := 0, am := 0, im := 0, scope := 3, ord := 0, pfl := 0, noret := false, e := true }, []) ∧
  (∀ w ∈ [0x160000000000000000000001, 0x0C2000000000000000000001, 0x000000000000000000000005], ∀ r, decodeLaneBytes (leBytes 12 w) ≠ .ok r)
end

