-- ==== Sys2Proof/Laws/Map.lean ====
section
/-!
SUPPORT. The laws of finite maps: a read after a write, the keys left alone, and the canonical form that every operation
keeps. They hold of every list, in canonical form or not, but where a lemma says otherwise.
-/
namespace Sys2Proof.Machine

variable {α : Type}

theorem Map.get_eq_find (d : α) (m : Map α) (j : Nat) : Map.get d m j = (Map.find m j).getD d := by
  induction m with
  | nil => rfl
  | cons h t ih => obtain ⟨k, v⟩ := h; by_cases e : j = k <;> simp [Map.get, Map.find, e, ih]

@[simp] theorem Map.find_put (m : Map α) (j : Nat) (x : α) (k : Nat) :
    Map.find (m.put j x) k = if k = j then some x else Map.find m k := by
  induction m with
  | nil => simp [Map.put, Map.find]
  | cons h t ih =>
    obtain ⟨i, v⟩ := h
    simp only [Map.put]
    split
    · simp [Map.find]
    · split
      · rename_i e; subst e; by_cases e : k = j <;> simp [Map.find, e]
      · rename_i h1 h2
        by_cases e : k = i
        · subst e; simp [Map.find, Ne.symm h2]
        · simp [Map.find, e, ih]

@[simp] theorem Map.find_del (m : Map α) (j k : Nat) : Map.find (m.del j) k = if k = j then none else Map.find m k := by
  induction m with
  | nil => simp [Map.del, Map.find]
  | cons h t ih =>
    obtain ⟨i, v⟩ := h
    by_cases e : j = i
    · subst e; simp only [Map.del, if_true, ih]; by_cases e : k = j <;> simp [Map.find, e]
    · by_cases e2 : k = i
      · subst e2; simp [Map.del, Map.find, e, Ne.symm e]
      · simp [Map.del, Map.find, e, e2, ih]

@[simp] theorem Map.get_put (d : α) (m : Map α) (j : Nat) (x : α) (k : Nat) :
    Map.get d (m.put j x) k = if k = j then x else Map.get d m k := by
  by_cases e : k = j <;> simp [Map.get_eq_find, e]

@[simp] theorem Map.get_set [DecidableEq α] (d : α) (m : Map α) (j : Nat) (x : α) (k : Nat) :
    Map.get d (Map.set d m j x) k = if k = j then x else Map.get d m k := by
  unfold Map.set
  split
  · rename_i e; by_cases e2 : k = j <;> simp [Map.get_eq_find, e, e2]
  · simp

/-! ## The canonical form -/

theorem Map.sortedFrom_mono {a b : Nat} (h : a ≤ b) {m : Map α} (hm : Map.sortedFrom b m = true) : Map.sortedFrom a m = true := by
  cases m with
  | nil => rfl
  | cons p t => obtain ⟨k, v⟩ := p; simp [Map.sortedFrom] at *; exact ⟨by omega, hm.2⟩

theorem Map.sortedFrom_put {b : Nat} {m : Map α} (hm : Map.sortedFrom b m = true) {j : Nat} (hj : b ≤ j) (x : α) :
    Map.sortedFrom b (m.put j x) = true := by
  induction m generalizing b with
  | nil => simp [Map.put, Map.sortedFrom, hj]
  | cons p t ih =>
    obtain ⟨k, v⟩ := p
    simp only [Map.sortedFrom, Bool.and_eq_true, decide_eq_true_eq] at hm
    simp only [Map.put]
    split
    · rename_i h; simp [Map.sortedFrom, hj, hm.2]; omega
    · split
      · rename_i h; subst h; simp [Map.sortedFrom, hj, hm.2]
      · simp only [Map.sortedFrom, Bool.and_eq_true, decide_eq_true_eq]
        exact ⟨hm.1, ih hm.2 (by omega)⟩

theorem Map.sortedFrom_filter {b : Nat} {m : Map α} (p : Nat × α → Bool) (hm : Map.sortedFrom b m = true) :
    Map.sortedFrom b (m.filter p) = true := by
  induction m generalizing b with
  | nil => rfl
  | cons h t ih =>
    obtain ⟨k, v⟩ := h
    simp only [Map.sortedFrom, Bool.and_eq_true, decide_eq_true_eq] at hm
    by_cases e : p (k, v) = true
    · simp [List.filter, e, Map.sortedFrom, hm.1, ih hm.2]
    · simp only [List.filter, e]; exact ih (Map.sortedFrom_mono (by omega) hm.2)

theorem Map.del_eq_filter (m : Map α) (j : Nat) : m.del j = m.filter (fun kv => kv.1 != j) := by
  induction m with
  | nil => rfl
  | cons h t ih =>
    obtain ⟨k, v⟩ := h
    by_cases e : j = k
    · subst e; simp [Map.del, ih]
    · simp [Map.del, e, ih, Ne.symm e]

theorem Map.mem_put {m : Map α} {j : Nat} {x : α} {q : Nat × α} (h : q ∈ m.put j x) : q = (j, x) ∨ q ∈ m := by
  induction m with
  | nil => simpa [Map.put] using h
  | cons p t ih =>
    obtain ⟨k, v⟩ := p
    simp only [Map.put] at h
    split at h
    · simpa using h
    · split at h
      · simp at h; rcases h with h | h <;> simp [h]
      · simp at h
        rcases h with h | h
        · simp [h]
        · rcases ih h with h | h <;> simp [h]

/-- Keeping some of the entries keeps the canonical form. -/
theorem Map.wf_filter [DecidableEq α] {d : α} {m : Map α} (p : Nat × α → Bool) (hm : Map.wf d m = true) : Map.wf d (m.filter p) = true := by
  simp only [Map.wf, Bool.and_eq_true, List.all_eq_true] at *
  exact ⟨Map.sortedFrom_filter p hm.1, fun q hq => hm.2 q (List.mem_filter.mp hq).1⟩

/-- A write keeps the canonical form. -/
theorem Map.wf_set [DecidableEq α] {d : α} {m : Map α} (hm : Map.wf d m = true) (j : Nat) (x : α) : Map.wf d (Map.set d m j x) = true := by
  unfold Map.set
  split
  · rw [Map.del_eq_filter]; exact Map.wf_filter _ hm
  · rename_i hx
    simp only [Map.wf, Bool.and_eq_true, List.all_eq_true, decide_eq_true_eq] at *
    refine ⟨Map.sortedFrom_put hm.1 (Nat.zero_le j) x, fun q hq => ?_⟩
    rcases Map.mem_put hq with h | h
    · simpa [h] using hx
    · exact hm.2 q h

/-- A key below those of a sorted list is not listed. -/
theorem Map.find_none_of_sortedFrom {m : Map α} {b j : Nat} (hm : Map.sortedFrom b m = true) (hj : j < b) : Map.find m j = none := by
  induction m generalizing b with
  | nil => rfl
  | cons p t ih =>
    obtain ⟨k, v⟩ := p
    simp only [Map.sortedFrom, Bool.and_eq_true, decide_eq_true_eq] at hm
    simp only [Map.find]
    rw [if_neg (by omega)]
    exact ih hm.2 (by omega)

end Sys2Proof.Machine
end

