-- ==== Sys2Proof/Laws/State.lean ====
section
/-!
SUPPORT. What each update of the state, and of a group, leaves as it was: one lemma for each field, so that no proof need
unfold a record update.
-/
namespace Sys2Proof.Machine


/-! ## Updates of the state -/

@[simp] theorem State.setGrp_atick (s : State) (g : Nat) (x : Group) : (s.setGrp g x).atick = s.atick := rfl
@[simp] theorem State.setGrp_gunits (s : State) (g : Nat) (x : Group) : (s.setGrp g x).gunits = s.gunits := rfl
@[simp] theorem State.setGrp_trim (s : State) (g : Nat) (x : Group) : (s.setGrp g x).trim = s.trim := rfl
@[simp] theorem State.setGrp_clocks (s : State) (g : Nat) (x : Group) : (s.setGrp g x).clocks = s.clocks := rfl
@[simp] theorem State.setGrp_mem (s : State) (g : Nat) (x : Group) : (s.setGrp g x).mem = s.mem := rfl
@[simp] theorem State.setGrp_regions (s : State) (g : Nat) (x : Group) : (s.setGrp g x).regions = s.regions := rfl
@[simp] theorem State.setGrp_tlb (s : State) (g : Nat) (x : Group) : (s.setGrp g x).tlb = s.tlb := rfl
@[simp] theorem State.setGrp_scratch (s : State) (g : Nat) (x : Group) : (s.setGrp g x).scratch = s.scratch := rfl
@[simp] theorem State.setGrp_scrErr (s : State) (g : Nat) (x : Group) : (s.setGrp g x).scrErr = s.scrErr := rfl
@[simp] theorem State.setGrp_scrOwner (s : State) (g : Nat) (x : Group) : (s.setGrp g x).scrOwner = s.scrOwner := rfl
@[simp] theorem State.setGrp_tiles (s : State) (g : Nat) (x : Group) : (s.setGrp g x).tiles = s.tiles := rfl
@[simp] theorem State.setGrp_tileErr (s : State) (g : Nat) (x : Group) : (s.setGrp g x).tileErr = s.tileErr := rfl
@[simp] theorem State.setGrp_stack (s : State) (g : Nat) (x : Group) : (s.setGrp g x).stack = s.stack := rfl
@[simp] theorem State.setGrp_errLines (s : State) (g : Nat) (x : Group) : (s.setGrp g x).errLines = s.errLines := rfl
@[simp] theorem State.setGrp_errFrames (s : State) (g : Nat) (x : Group) : (s.setGrp g x).errFrames = s.errFrames := rfl
@[simp] theorem State.setGrp_contained (s : State) (g : Nat) (x : Group) : (s.setGrp g x).contained = s.contained := rfl
@[simp] theorem State.setGrp_corrected (s : State) (g : Nat) (x : Group) : (s.setGrp g x).corrected = s.corrected := rfl
@[simp] theorem State.setGrp_peerMem (s : State) (g : Nat) (x : Group) : (s.setGrp g x).peerMem = s.peerMem := rfl
@[simp] theorem State.setGrp_peerErr (s : State) (g : Nat) (x : Group) : (s.setGrp g x).peerErr = s.peerErr := rfl
@[simp] theorem State.setGrp_ctxs (s : State) (g : Nat) (x : Group) : (s.setGrp g x).ctxs = s.ctxs := rfl
@[simp] theorem State.setGrp_launches (s : State) (g : Nat) (x : Group) : (s.setGrp g x).launches = s.launches := rfl
@[simp] theorem State.setGrp_blocks (s : State) (g : Nat) (x : Group) : (s.setGrp g x).blocks = s.blocks := rfl
@[simp] theorem State.setGrp_groups (s : State) (g : Nat) (x : Group) : (s.setGrp g x).groups = s.groups.put g x := rfl
@[simp] theorem State.setGrp_copies (s : State) (g : Nat) (x : Group) : (s.setGrp g x).copies = s.copies := rfl
@[simp] theorem State.setGrp_tileOps (s : State) (g : Nat) (x : Group) : (s.setGrp g x).tileOps = s.tileOps := rfl
@[simp] theorem State.setGrp_halves (s : State) (g : Nat) (x : Group) : (s.setGrp g x).halves = s.halves := rfl
@[simp] theorem State.setGrp_colls (s : State) (g : Nat) (x : Group) : (s.setGrp g x).colls = s.colls := rfl
@[simp] theorem State.setGrp_slotChunks (s : State) (g : Nat) (x : Group) : (s.setGrp g x).slotChunks = s.slotChunks := rfl
@[simp] theorem State.setGrp_failNotes (s : State) (g : Nat) (x : Group) : (s.setGrp g x).failNotes = s.failNotes := rfl
@[simp] theorem State.setGrp_shadows (s : State) (g : Nat) (x : Group) : (s.setGrp g x).shadows = s.shadows := rfl
@[simp] theorem State.setGrp_retCores (s : State) (g : Nat) (x : Group) : (s.setGrp g x).retCores = s.retCores := rfl
@[simp] theorem State.setGrp_retDies (s : State) (g : Nat) (x : Group) : (s.setGrp g x).retDies = s.retDies := rfl
@[simp] theorem State.setGrp_retStacks (s : State) (g : Nat) (x : Group) : (s.setGrp g x).retStacks = s.retStacks := rfl
@[simp] theorem State.setGrp_retChans (s : State) (g : Nat) (x : Group) : (s.setGrp g x).retChans = s.retChans := rfl
@[simp] theorem State.setGrp_bootFail (s : State) (g : Nat) (x : Group) : (s.setGrp g x).bootFail = s.bootFail := rfl
@[simp] theorem State.setGrp_retiring (s : State) (g : Nat) (x : Group) : (s.setGrp g x).retiring = s.retiring := rfl
@[simp] theorem State.setGrp_mqbase (s : State) (g : Nat) (x : Group) : (s.setGrp g x).mqbase = s.mqbase := rfl
@[simp] theorem State.setGrp_mqsize (s : State) (g : Nat) (x : Group) : (s.setGrp g x).mqsize = s.mqsize := rfl
@[simp] theorem State.setGrp_mqtail (s : State) (g : Nat) (x : Group) : (s.setGrp g x).mqtail = s.mqtail := rfl
@[simp] theorem State.setGrp_mqhead (s : State) (g : Nat) (x : Group) : (s.setGrp g x).mqhead = s.mqhead := rfl
@[simp] theorem State.setGrp_moves (s : State) (g : Nat) (x : Group) : (s.setGrp g x).moves = s.moves := rfl
@[simp] theorem State.setGrp_evacs (s : State) (g : Nat) (x : Group) : (s.setGrp g x).evacs = s.evacs := rfl
@[simp] theorem State.setGrp_hot (s : State) (g : Nat) (x : Group) : (s.setGrp g x).hot = s.hot := rfl
@[simp] theorem State.setGrp_refresh (s : State) (g : Nat) (x : Group) : (s.setGrp g x).refresh = s.refresh := rfl
@[simp] theorem State.setGrp_devid (s : State) (g : Nat) (x : Group) : (s.setGrp g x).devid = s.devid := rfl
@[simp] theorem State.setGrp_expbase (s : State) (g : Nat) (x : Group) : (s.setGrp g x).expbase = s.expbase := rfl
@[simp] theorem State.setGrp_expsize (s : State) (g : Nat) (x : Group) : (s.setGrp g x).expsize = s.expsize := rfl
@[simp] theorem State.setGrp_rtbase (s : State) (g : Nat) (x : Group) : (s.setGrp g x).rtbase = s.rtbase := rfl
@[simp] theorem State.setGrp_ports (s : State) (g : Nat) (x : Group) : (s.setGrp g x).ports = s.ports := rfl
@[simp] theorem State.setGrp_sent (s : State) (g : Nat) (x : Group) : (s.setGrp g x).sent = s.sent := rfl
@[simp] theorem State.setGrp_e2eNext (s : State) (g : Nat) (x : Group) : (s.setGrp g x).e2eNext = s.e2eNext := rfl
@[simp] theorem State.setGrp_e2eSeen (s : State) (g : Nat) (x : Group) : (s.setGrp g x).e2eSeen = s.e2eSeen := rfl
@[simp] theorem State.setGrp_excursions (s : State) (g : Nat) (x : Group) : (s.setGrp g x).excursions = s.excursions := rfl
@[simp] theorem State.setGrp_touched (s : State) (g : Nat) (x : Group) : (s.setGrp g x).touched = s.touched := rfl
@[simp] theorem State.setGrp_devq (s : State) (g : Nat) (x : Group) : (s.setGrp g x).devq = s.devq := rfl
@[simp] theorem State.setGrp_devIvec (s : State) (g : Nat) (x : Group) : (s.setGrp g x).devIvec = s.devIvec := rfl
@[simp] theorem State.setGrp_devIrq (s : State) (g : Nat) (x : Group) : (s.setGrp g x).devIrq = s.devIrq := rfl
@[simp] theorem State.setGrp_samplers (s : State) (g : Nat) (x : Group) : (s.setGrp g x).samplers = s.samplers := rfl
@[simp] theorem State.setGrp_boot (s : State) (g : Nat) (x : Group) : (s.setGrp g x).boot = s.boot := rfl
@[simp] theorem State.setGrp_hostlink (s : State) (g : Nat) (x : Group) : (s.setGrp g x).hostlink = s.hostlink := rfl
@[simp] theorem State.setGrp_hostNext (s : State) (g : Nat) (x : Group) : (s.setGrp g x).hostNext = s.hostNext := rfl
@[simp] theorem State.setGrp_flash (s : State) (g : Nat) (x : Group) : (s.setGrp g x).flash = s.flash := rfl
@[simp] theorem State.setGrp_fwActive (s : State) (g : Nat) (x : Group) : (s.setGrp g x).fwActive = s.fwActive := rfl
@[simp] theorem State.setGrp_fwNext (s : State) (g : Nat) (x : Group) : (s.setGrp g x).fwNext = s.fwNext := rfl
@[simp] theorem State.setGrp_bervosLog (s : State) (g : Nat) (x : Group) : (s.setGrp g x).bervosLog = s.bervosLog := rfl
@[simp] theorem State.setGrp_reply (s : State) (g : Nat) (x : Group) : (s.setGrp g x).reply = s.reply := rfl
@[simp] theorem State.setGrp_telem (s : State) (g : Nat) (x : Group) : (s.setGrp g x).telem = s.telem := rfl
@[simp] theorem State.setGrp_nextDebit (s : State) (g : Nat) (x : Group) : (s.setGrp g x).nextDebit = s.nextDebit := rfl
@[simp] theorem State.setGrp_nextRefill (s : State) (g : Nat) (x : Group) : (s.setGrp g x).nextRefill = s.nextRefill := rfl
@[simp] theorem State.setGrp_nextHot (s : State) (g : Nat) (x : Group) : (s.setGrp g x).nextHot = s.nextHot := rfl
@[simp] theorem State.setGrp_clock (s : State) (g : Nat) (x : Group) : (s.setGrp g x).clock = s.clock := rfl
@[simp] theorem State.setGrp_agenda (s : State) (g : Nat) (x : Group) : (s.setGrp g x).agenda = s.agenda := rfl
@[simp] theorem State.setGrp_turnNo (s : State) (g : Nat) (x : Group) : (s.setGrp g x).turnNo = s.turnNo := rfl
@[simp] theorem State.setGrp_cur (s : State) (g : Nat) (x : Group) : (s.setGrp g x).cur = s.cur := rfl
@[simp] theorem State.setGrp_freeCtr (s : State) (g : Nat) (x : Group) : (s.setGrp g x).freeCtr = s.freeCtr := rfl
@[simp] theorem State.setGrp_l1 (s : State) (g : Nat) (x : Group) : (s.setGrp g x).l1 = s.l1 := rfl
@[simp] theorem State.setGrp_l2 (s : State) (g : Nat) (x : Group) : (s.setGrp g x).l2 = s.l2 := rfl
@[simp] theorem State.setGrp_marks (s : State) (g : Nat) (x : Group) : (s.setGrp g x).marks = s.marks := rfl
@[simp] theorem State.setGrp_quadFree (s : State) (g : Nat) (x : Group) : (s.setGrp g x).quadFree = s.quadFree := rfl
@[simp] theorem State.setGrp_images (s : State) (g : Nat) (x : Group) : (s.setGrp g x).images = s.images := rfl
@[simp] theorem State.setLau_atick (s : State) (l : Nat) (x : Launch) : (s.setLau l x).atick = s.atick := rfl
@[simp] theorem State.setLau_gunits (s : State) (l : Nat) (x : Launch) : (s.setLau l x).gunits = s.gunits := rfl
@[simp] theorem State.setLau_trim (s : State) (l : Nat) (x : Launch) : (s.setLau l x).trim = s.trim := rfl
@[simp] theorem State.setLau_clocks (s : State) (l : Nat) (x : Launch) : (s.setLau l x).clocks = s.clocks := rfl
@[simp] theorem State.setLau_mem (s : State) (l : Nat) (x : Launch) : (s.setLau l x).mem = s.mem := rfl
@[simp] theorem State.setLau_regions (s : State) (l : Nat) (x : Launch) : (s.setLau l x).regions = s.regions := rfl
@[simp] theorem State.setLau_tlb (s : State) (l : Nat) (x : Launch) : (s.setLau l x).tlb = s.tlb := rfl
@[simp] theorem State.setLau_scratch (s : State) (l : Nat) (x : Launch) : (s.setLau l x).scratch = s.scratch := rfl
@[simp] theorem State.setLau_scrErr (s : State) (l : Nat) (x : Launch) : (s.setLau l x).scrErr = s.scrErr := rfl
@[simp] theorem State.setLau_scrOwner (s : State) (l : Nat) (x : Launch) : (s.setLau l x).scrOwner = s.scrOwner := rfl
@[simp] theorem State.setLau_tiles (s : State) (l : Nat) (x : Launch) : (s.setLau l x).tiles = s.tiles := rfl
@[simp] theorem State.setLau_tileErr (s : State) (l : Nat) (x : Launch) : (s.setLau l x).tileErr = s.tileErr := rfl
@[simp] theorem State.setLau_stack (s : State) (l : Nat) (x : Launch) : (s.setLau l x).stack = s.stack := rfl
@[simp] theorem State.setLau_errLines (s : State) (l : Nat) (x : Launch) : (s.setLau l x).errLines = s.errLines := rfl
@[simp] theorem State.setLau_errFrames (s : State) (l : Nat) (x : Launch) : (s.setLau l x).errFrames = s.errFrames := rfl
@[simp] theorem State.setLau_contained (s : State) (l : Nat) (x : Launch) : (s.setLau l x).contained = s.contained := rfl
@[simp] theorem State.setLau_corrected (s : State) (l : Nat) (x : Launch) : (s.setLau l x).corrected = s.corrected := rfl
@[simp] theorem State.setLau_peerMem (s : State) (l : Nat) (x : Launch) : (s.setLau l x).peerMem = s.peerMem := rfl
@[simp] theorem State.setLau_peerErr (s : State) (l : Nat) (x : Launch) : (s.setLau l x).peerErr = s.peerErr := rfl
@[simp] theorem State.setLau_ctxs (s : State) (l : Nat) (x : Launch) : (s.setLau l x).ctxs = s.ctxs := rfl
@[simp] theorem State.setLau_launches (s : State) (l : Nat) (x : Launch) : (s.setLau l x).launches = s.launches.put l x := rfl
@[simp] theorem State.setLau_blocks (s : State) (l : Nat) (x : Launch) : (s.setLau l x).blocks = s.blocks := rfl
@[simp] theorem State.setLau_groups (s : State) (l : Nat) (x : Launch) : (s.setLau l x).groups = s.groups := rfl
@[simp] theorem State.setLau_copies (s : State) (l : Nat) (x : Launch) : (s.setLau l x).copies = s.copies := rfl
@[simp] theorem State.setLau_tileOps (s : State) (l : Nat) (x : Launch) : (s.setLau l x).tileOps = s.tileOps := rfl
@[simp] theorem State.setLau_halves (s : State) (l : Nat) (x : Launch) : (s.setLau l x).halves = s.halves := rfl
@[simp] theorem State.setLau_colls (s : State) (l : Nat) (x : Launch) : (s.setLau l x).colls = s.colls := rfl
@[simp] theorem State.setLau_slotChunks (s : State) (l : Nat) (x : Launch) : (s.setLau l x).slotChunks = s.slotChunks := rfl
@[simp] theorem State.setLau_failNotes (s : State) (l : Nat) (x : Launch) : (s.setLau l x).failNotes = s.failNotes := rfl
@[simp] theorem State.setLau_shadows (s : State) (l : Nat) (x : Launch) : (s.setLau l x).shadows = s.shadows := rfl
@[simp] theorem State.setLau_retCores (s : State) (l : Nat) (x : Launch) : (s.setLau l x).retCores = s.retCores := rfl
@[simp] theorem State.setLau_retDies (s : State) (l : Nat) (x : Launch) : (s.setLau l x).retDies = s.retDies := rfl
@[simp] theorem State.setLau_retStacks (s : State) (l : Nat) (x : Launch) : (s.setLau l x).retStacks = s.retStacks := rfl
@[simp] theorem State.setLau_retChans (s : State) (l : Nat) (x : Launch) : (s.setLau l x).retChans = s.retChans := rfl
@[simp] theorem State.setLau_bootFail (s : State) (l : Nat) (x : Launch) : (s.setLau l x).bootFail = s.bootFail := rfl
@[simp] theorem State.setLau_retiring (s : State) (l : Nat) (x : Launch) : (s.setLau l x).retiring = s.retiring := rfl
@[simp] theorem State.setLau_mqbase (s : State) (l : Nat) (x : Launch) : (s.setLau l x).mqbase = s.mqbase := rfl
@[simp] theorem State.setLau_mqsize (s : State) (l : Nat) (x : Launch) : (s.setLau l x).mqsize = s.mqsize := rfl
@[simp] theorem State.setLau_mqtail (s : State) (l : Nat) (x : Launch) : (s.setLau l x).mqtail = s.mqtail := rfl
@[simp] theorem State.setLau_mqhead (s : State) (l : Nat) (x : Launch) : (s.setLau l x).mqhead = s.mqhead := rfl
@[simp] theorem State.setLau_moves (s : State) (l : Nat) (x : Launch) : (s.setLau l x).moves = s.moves := rfl
@[simp] theorem State.setLau_evacs (s : State) (l : Nat) (x : Launch) : (s.setLau l x).evacs = s.evacs := rfl
@[simp] theorem State.setLau_hot (s : State) (l : Nat) (x : Launch) : (s.setLau l x).hot = s.hot := rfl
@[simp] theorem State.setLau_refresh (s : State) (l : Nat) (x : Launch) : (s.setLau l x).refresh = s.refresh := rfl
@[simp] theorem State.setLau_devid (s : State) (l : Nat) (x : Launch) : (s.setLau l x).devid = s.devid := rfl
@[simp] theorem State.setLau_expbase (s : State) (l : Nat) (x : Launch) : (s.setLau l x).expbase = s.expbase := rfl
@[simp] theorem State.setLau_expsize (s : State) (l : Nat) (x : Launch) : (s.setLau l x).expsize = s.expsize := rfl
@[simp] theorem State.setLau_rtbase (s : State) (l : Nat) (x : Launch) : (s.setLau l x).rtbase = s.rtbase := rfl
@[simp] theorem State.setLau_ports (s : State) (l : Nat) (x : Launch) : (s.setLau l x).ports = s.ports := rfl
@[simp] theorem State.setLau_sent (s : State) (l : Nat) (x : Launch) : (s.setLau l x).sent = s.sent := rfl
@[simp] theorem State.setLau_e2eNext (s : State) (l : Nat) (x : Launch) : (s.setLau l x).e2eNext = s.e2eNext := rfl
@[simp] theorem State.setLau_e2eSeen (s : State) (l : Nat) (x : Launch) : (s.setLau l x).e2eSeen = s.e2eSeen := rfl
@[simp] theorem State.setLau_excursions (s : State) (l : Nat) (x : Launch) : (s.setLau l x).excursions = s.excursions := rfl
@[simp] theorem State.setLau_touched (s : State) (l : Nat) (x : Launch) : (s.setLau l x).touched = s.touched := rfl
@[simp] theorem State.setLau_devq (s : State) (l : Nat) (x : Launch) : (s.setLau l x).devq = s.devq := rfl
@[simp] theorem State.setLau_devIvec (s : State) (l : Nat) (x : Launch) : (s.setLau l x).devIvec = s.devIvec := rfl
@[simp] theorem State.setLau_devIrq (s : State) (l : Nat) (x : Launch) : (s.setLau l x).devIrq = s.devIrq := rfl
@[simp] theorem State.setLau_samplers (s : State) (l : Nat) (x : Launch) : (s.setLau l x).samplers = s.samplers := rfl
@[simp] theorem State.setLau_boot (s : State) (l : Nat) (x : Launch) : (s.setLau l x).boot = s.boot := rfl
@[simp] theorem State.setLau_hostlink (s : State) (l : Nat) (x : Launch) : (s.setLau l x).hostlink = s.hostlink := rfl
@[simp] theorem State.setLau_hostNext (s : State) (l : Nat) (x : Launch) : (s.setLau l x).hostNext = s.hostNext := rfl
@[simp] theorem State.setLau_flash (s : State) (l : Nat) (x : Launch) : (s.setLau l x).flash = s.flash := rfl
@[simp] theorem State.setLau_fwActive (s : State) (l : Nat) (x : Launch) : (s.setLau l x).fwActive = s.fwActive := rfl
@[simp] theorem State.setLau_fwNext (s : State) (l : Nat) (x : Launch) : (s.setLau l x).fwNext = s.fwNext := rfl
@[simp] theorem State.setLau_bervosLog (s : State) (l : Nat) (x : Launch) : (s.setLau l x).bervosLog = s.bervosLog := rfl
@[simp] theorem State.setLau_reply (s : State) (l : Nat) (x : Launch) : (s.setLau l x).reply = s.reply := rfl
@[simp] theorem State.setLau_telem (s : State) (l : Nat) (x : Launch) : (s.setLau l x).telem = s.telem := rfl
@[simp] theorem State.setLau_nextDebit (s : State) (l : Nat) (x : Launch) : (s.setLau l x).nextDebit = s.nextDebit := rfl
@[simp] theorem State.setLau_nextRefill (s : State) (l : Nat) (x : Launch) : (s.setLau l x).nextRefill = s.nextRefill := rfl
@[simp] theorem State.setLau_nextHot (s : State) (l : Nat) (x : Launch) : (s.setLau l x).nextHot = s.nextHot := rfl
@[simp] theorem State.setLau_clock (s : State) (l : Nat) (x : Launch) : (s.setLau l x).clock = s.clock := rfl
@[simp] theorem State.setLau_agenda (s : State) (l : Nat) (x : Launch) : (s.setLau l x).agenda = s.agenda := rfl
@[simp] theorem State.setLau_turnNo (s : State) (l : Nat) (x : Launch) : (s.setLau l x).turnNo = s.turnNo := rfl
@[simp] theorem State.setLau_cur (s : State) (l : Nat) (x : Launch) : (s.setLau l x).cur = s.cur := rfl
@[simp] theorem State.setLau_freeCtr (s : State) (l : Nat) (x : Launch) : (s.setLau l x).freeCtr = s.freeCtr := rfl
@[simp] theorem State.setLau_l1 (s : State) (l : Nat) (x : Launch) : (s.setLau l x).l1 = s.l1 := rfl
@[simp] theorem State.setLau_l2 (s : State) (l : Nat) (x : Launch) : (s.setLau l x).l2 = s.l2 := rfl
@[simp] theorem State.setLau_marks (s : State) (l : Nat) (x : Launch) : (s.setLau l x).marks = s.marks := rfl
@[simp] theorem State.setLau_quadFree (s : State) (l : Nat) (x : Launch) : (s.setLau l x).quadFree = s.quadFree := rfl
@[simp] theorem State.setLau_images (s : State) (l : Nat) (x : Launch) : (s.setLau l x).images = s.images := rfl
@[simp] theorem State.setCtx_atick (s : State) (c : Nat) (x : Ctx) : (s.setCtx c x).atick = s.atick := rfl
@[simp] theorem State.setCtx_gunits (s : State) (c : Nat) (x : Ctx) : (s.setCtx c x).gunits = s.gunits := rfl
@[simp] theorem State.setCtx_trim (s : State) (c : Nat) (x : Ctx) : (s.setCtx c x).trim = s.trim := rfl
@[simp] theorem State.setCtx_clocks (s : State) (c : Nat) (x : Ctx) : (s.setCtx c x).clocks = s.clocks := rfl
@[simp] theorem State.setCtx_mem (s : State) (c : Nat) (x : Ctx) : (s.setCtx c x).mem = s.mem := rfl
@[simp] theorem State.setCtx_regions (s : State) (c : Nat) (x : Ctx) : (s.setCtx c x).regions = s.regions := rfl
@[simp] theorem State.setCtx_tlb (s : State) (c : Nat) (x : Ctx) : (s.setCtx c x).tlb = s.tlb := rfl
@[simp] theorem State.setCtx_scratch (s : State) (c : Nat) (x : Ctx) : (s.setCtx c x).scratch = s.scratch := rfl
@[simp] theorem State.setCtx_scrErr (s : State) (c : Nat) (x : Ctx) : (s.setCtx c x).scrErr = s.scrErr := rfl
@[simp] theorem State.setCtx_scrOwner (s : State) (c : Nat) (x : Ctx) : (s.setCtx c x).scrOwner = s.scrOwner := rfl
@[simp] theorem State.setCtx_tiles (s : State) (c : Nat) (x : Ctx) : (s.setCtx c x).tiles = s.tiles := rfl
@[simp] theorem State.setCtx_tileErr (s : State) (c : Nat) (x : Ctx) : (s.setCtx c x).tileErr = s.tileErr := rfl
@[simp] theorem State.setCtx_stack (s : State) (c : Nat) (x : Ctx) : (s.setCtx c x).stack = s.stack := rfl
@[simp] theorem State.setCtx_errLines (s : State) (c : Nat) (x : Ctx) : (s.setCtx c x).errLines = s.errLines := rfl
@[simp] theorem State.setCtx_errFrames (s : State) (c : Nat) (x : Ctx) : (s.setCtx c x).errFrames = s.errFrames := rfl
@[simp] theorem State.setCtx_contained (s : State) (c : Nat) (x : Ctx) : (s.setCtx c x).contained = s.contained := rfl
@[simp] theorem State.setCtx_corrected (s : State) (c : Nat) (x : Ctx) : (s.setCtx c x).corrected = s.corrected := rfl
@[simp] theorem State.setCtx_peerMem (s : State) (c : Nat) (x : Ctx) : (s.setCtx c x).peerMem = s.peerMem := rfl
@[simp] theorem State.setCtx_peerErr (s : State) (c : Nat) (x : Ctx) : (s.setCtx c x).peerErr = s.peerErr := rfl
@[simp] theorem State.setCtx_ctxs (s : State) (c : Nat) (x : Ctx) : (s.setCtx c x).ctxs = s.ctxs.put c x := rfl
@[simp] theorem State.setCtx_launches (s : State) (c : Nat) (x : Ctx) : (s.setCtx c x).launches = s.launches := rfl
@[simp] theorem State.setCtx_blocks (s : State) (c : Nat) (x : Ctx) : (s.setCtx c x).blocks = s.blocks := rfl
@[simp] theorem State.setCtx_groups (s : State) (c : Nat) (x : Ctx) : (s.setCtx c x).groups = s.groups := rfl
@[simp] theorem State.setCtx_copies (s : State) (c : Nat) (x : Ctx) : (s.setCtx c x).copies = s.copies := rfl
@[simp] theorem State.setCtx_tileOps (s : State) (c : Nat) (x : Ctx) : (s.setCtx c x).tileOps = s.tileOps := rfl
@[simp] theorem State.setCtx_halves (s : State) (c : Nat) (x : Ctx) : (s.setCtx c x).halves = s.halves := rfl
@[simp] theorem State.setCtx_colls (s : State) (c : Nat) (x : Ctx) : (s.setCtx c x).colls = s.colls := rfl
@[simp] theorem State.setCtx_slotChunks (s : State) (c : Nat) (x : Ctx) : (s.setCtx c x).slotChunks = s.slotChunks := rfl
@[simp] theorem State.setCtx_failNotes (s : State) (c : Nat) (x : Ctx) : (s.setCtx c x).failNotes = s.failNotes := rfl
@[simp] theorem State.setCtx_shadows (s : State) (c : Nat) (x : Ctx) : (s.setCtx c x).shadows = s.shadows := rfl
@[simp] theorem State.setCtx_retCores (s : State) (c : Nat) (x : Ctx) : (s.setCtx c x).retCores = s.retCores := rfl
@[simp] theorem State.setCtx_retDies (s : State) (c : Nat) (x : Ctx) : (s.setCtx c x).retDies = s.retDies := rfl
@[simp] theorem State.setCtx_retStacks (s : State) (c : Nat) (x : Ctx) : (s.setCtx c x).retStacks = s.retStacks := rfl
@[simp] theorem State.setCtx_retChans (s : State) (c : Nat) (x : Ctx) : (s.setCtx c x).retChans = s.retChans := rfl
@[simp] theorem State.setCtx_bootFail (s : State) (c : Nat) (x : Ctx) : (s.setCtx c x).bootFail = s.bootFail := rfl
@[simp] theorem State.setCtx_retiring (s : State) (c : Nat) (x : Ctx) : (s.setCtx c x).retiring = s.retiring := rfl
@[simp] theorem State.setCtx_mqbase (s : State) (c : Nat) (x : Ctx) : (s.setCtx c x).mqbase = s.mqbase := rfl
@[simp] theorem State.setCtx_mqsize (s : State) (c : Nat) (x : Ctx) : (s.setCtx c x).mqsize = s.mqsize := rfl
@[simp] theorem State.setCtx_mqtail (s : State) (c : Nat) (x : Ctx) : (s.setCtx c x).mqtail = s.mqtail := rfl
@[simp] theorem State.setCtx_mqhead (s : State) (c : Nat) (x : Ctx) : (s.setCtx c x).mqhead = s.mqhead := rfl
@[simp] theorem State.setCtx_moves (s : State) (c : Nat) (x : Ctx) : (s.setCtx c x).moves = s.moves := rfl
@[simp] theorem State.setCtx_evacs (s : State) (c : Nat) (x : Ctx) : (s.setCtx c x).evacs = s.evacs := rfl
@[simp] theorem State.setCtx_hot (s : State) (c : Nat) (x : Ctx) : (s.setCtx c x).hot = s.hot := rfl
@[simp] theorem State.setCtx_refresh (s : State) (c : Nat) (x : Ctx) : (s.setCtx c x).refresh = s.refresh := rfl
@[simp] theorem State.setCtx_devid (s : State) (c : Nat) (x : Ctx) : (s.setCtx c x).devid = s.devid := rfl
@[simp] theorem State.setCtx_expbase (s : State) (c : Nat) (x : Ctx) : (s.setCtx c x).expbase = s.expbase := rfl
@[simp] theorem State.setCtx_expsize (s : State) (c : Nat) (x : Ctx) : (s.setCtx c x).expsize = s.expsize := rfl
@[simp] theorem State.setCtx_rtbase (s : State) (c : Nat) (x : Ctx) : (s.setCtx c x).rtbase = s.rtbase := rfl
@[simp] theorem State.setCtx_ports (s : State) (c : Nat) (x : Ctx) : (s.setCtx c x).ports = s.ports := rfl
@[simp] theorem State.setCtx_sent (s : State) (c : Nat) (x : Ctx) : (s.setCtx c x).sent = s.sent := rfl
@[simp] theorem State.setCtx_e2eNext (s : State) (c : Nat) (x : Ctx) : (s.setCtx c x).e2eNext = s.e2eNext := rfl
@[simp] theorem State.setCtx_e2eSeen (s : State) (c : Nat) (x : Ctx) : (s.setCtx c x).e2eSeen = s.e2eSeen := rfl
@[simp] theorem State.setCtx_excursions (s : State) (c : Nat) (x : Ctx) : (s.setCtx c x).excursions = s.excursions := rfl
@[simp] theorem State.setCtx_touched (s : State) (c : Nat) (x : Ctx) : (s.setCtx c x).touched = s.touched := rfl
@[simp] theorem State.setCtx_devq (s : State) (c : Nat) (x : Ctx) : (s.setCtx c x).devq = s.devq := rfl
@[simp] theorem State.setCtx_devIvec (s : State) (c : Nat) (x : Ctx) : (s.setCtx c x).devIvec = s.devIvec := rfl
@[simp] theorem State.setCtx_devIrq (s : State) (c : Nat) (x : Ctx) : (s.setCtx c x).devIrq = s.devIrq := rfl
@[simp] theorem State.setCtx_samplers (s : State) (c : Nat) (x : Ctx) : (s.setCtx c x).samplers = s.samplers := rfl
@[simp] theorem State.setCtx_boot (s : State) (c : Nat) (x : Ctx) : (s.setCtx c x).boot = s.boot := rfl
@[simp] theorem State.setCtx_hostlink (s : State) (c : Nat) (x : Ctx) : (s.setCtx c x).hostlink = s.hostlink := rfl
@[simp] theorem State.setCtx_hostNext (s : State) (c : Nat) (x : Ctx) : (s.setCtx c x).hostNext = s.hostNext := rfl
@[simp] theorem State.setCtx_flash (s : State) (c : Nat) (x : Ctx) : (s.setCtx c x).flash = s.flash := rfl
@[simp] theorem State.setCtx_fwActive (s : State) (c : Nat) (x : Ctx) : (s.setCtx c x).fwActive = s.fwActive := rfl
@[simp] theorem State.setCtx_fwNext (s : State) (c : Nat) (x : Ctx) : (s.setCtx c x).fwNext = s.fwNext := rfl
@[simp] theorem State.setCtx_bervosLog (s : State) (c : Nat) (x : Ctx) : (s.setCtx c x).bervosLog = s.bervosLog := rfl
@[simp] theorem State.setCtx_reply (s : State) (c : Nat) (x : Ctx) : (s.setCtx c x).reply = s.reply := rfl
@[simp] theorem State.setCtx_telem (s : State) (c : Nat) (x : Ctx) : (s.setCtx c x).telem = s.telem := rfl
@[simp] theorem State.setCtx_nextDebit (s : State) (c : Nat) (x : Ctx) : (s.setCtx c x).nextDebit = s.nextDebit := rfl
@[simp] theorem State.setCtx_nextRefill (s : State) (c : Nat) (x : Ctx) : (s.setCtx c x).nextRefill = s.nextRefill := rfl
@[simp] theorem State.setCtx_nextHot (s : State) (c : Nat) (x : Ctx) : (s.setCtx c x).nextHot = s.nextHot := rfl
@[simp] theorem State.setCtx_clock (s : State) (c : Nat) (x : Ctx) : (s.setCtx c x).clock = s.clock := rfl
@[simp] theorem State.setCtx_agenda (s : State) (c : Nat) (x : Ctx) : (s.setCtx c x).agenda = s.agenda := rfl
@[simp] theorem State.setCtx_turnNo (s : State) (c : Nat) (x : Ctx) : (s.setCtx c x).turnNo = s.turnNo := rfl
@[simp] theorem State.setCtx_cur (s : State) (c : Nat) (x : Ctx) : (s.setCtx c x).cur = s.cur := rfl
@[simp] theorem State.setCtx_freeCtr (s : State) (c : Nat) (x : Ctx) : (s.setCtx c x).freeCtr = s.freeCtr := rfl
@[simp] theorem State.setCtx_l1 (s : State) (c : Nat) (x : Ctx) : (s.setCtx c x).l1 = s.l1 := rfl
@[simp] theorem State.setCtx_l2 (s : State) (c : Nat) (x : Ctx) : (s.setCtx c x).l2 = s.l2 := rfl
@[simp] theorem State.setCtx_marks (s : State) (c : Nat) (x : Ctx) : (s.setCtx c x).marks = s.marks := rfl
@[simp] theorem State.setCtx_quadFree (s : State) (c : Nat) (x : Ctx) : (s.setCtx c x).quadFree = s.quadFree := rfl
@[simp] theorem State.setCtx_images (s : State) (c : Nat) (x : Ctx) : (s.setCtx c x).images = s.images := rfl

/-! ## Updates of a group -/

@[simp] theorem Group.adv_ctx (x : Group) : (x.adv).ctx = x.ctx := rfl
@[simp] theorem Group.adv_launch (x : Group) : (x.adv).launch = x.launch := rfl
@[simp] theorem Group.adv_block (x : Group) : (x.adv).block = x.block := rfl
@[simp] theorem Group.adv_gid (x : Group) : (x.adv).gid = x.gid := rfl
@[simp] theorem Group.adv_core (x : Group) : (x.adv).core = x.core := rfl
@[simp] theorem Group.adv_slot (x : Group) : (x.adv).slot = x.slot := rfl
@[simp] theorem Group.adv_sidx (x : Group) : (x.adv).sidx = x.sidx := rfl
@[simp] theorem Group.adv_residence (x : Group) : (x.adv).residence = x.residence := rfl
@[simp] theorem Group.adv_salloc (x : Group) : (x.adv).salloc = x.salloc := rfl
@[simp] theorem Group.adv_valloc (x : Group) : (x.adv).valloc = x.valloc := rfl
@[simp] theorem Group.adv_sreg (x : Group) : (x.adv).sreg = x.sreg := rfl
@[simp] theorem Group.adv_vreg (x : Group) : (x.adv).vreg = x.vreg := rfl
@[simp] theorem Group.adv_m0 (x : Group) : (x.adv).m0 = x.m0 := rfl
@[simp] theorem Group.adv_masks (x : Group) : (x.adv).masks = x.masks := rfl
@[simp] theorem Group.adv_wins (x : Group) : (x.adv).wins = x.wins := rfl
@[simp] theorem Group.adv_front (x : Group) : (x.adv).front = x.front := rfl
@[simp] theorem Group.adv_fmt (x : Group) : (x.adv).fmt = x.fmt := rfl
@[simp] theorem Group.adv_queue (x : Group) : (x.adv).queue = x.queue := rfl
@[simp] theorem Group.adv_rstack (x : Group) : (x.adv).rstack = x.rstack := rfl
@[simp] theorem Group.adv_fflags (x : Group) : (x.adv).fflags = x.fflags := rfl
@[simp] theorem Group.adv_vmode (x : Group) : (x.adv).vmode = x.vmode := rfl
@[simp] theorem Group.adv_stklim (x : Group) : (x.adv).stklim = x.stklim := rfl
@[simp] theorem Group.adv_sigdim (x : Group) : (x.adv).sigdim = x.sigdim := rfl
@[simp] theorem Group.adv_sigdepth (x : Group) : (x.adv).sigdepth = x.sigdepth := rfl
@[simp] theorem Group.adv_blevel (x : Group) : (x.adv).blevel = x.blevel := rfl
@[simp] theorem Group.adv_blimit (x : Group) : (x.adv).blimit = x.blimit := rfl
@[simp] theorem Group.adv_ops (x : Group) : (x.adv).ops = x.ops := rfl
@[simp] theorem Group.adv_pend (x : Group) : (x.adv).pend = x.pend := rfl
@[simp] theorem Group.adv_seq (x : Group) : (x.adv).seq = x.seq := rfl
@[simp] theorem Group.adv_tileNo (x : Group) : (x.adv).tileNo = x.tileNo := rfl
@[simp] theorem Group.adv_hseq (x : Group) : (x.adv).hseq = x.hseq := rfl
@[simp] theorem Group.adv_handles (x : Group) : (x.adv).handles = x.handles := rfl
@[simp] theorem Group.adv_lfsr (x : Group) : (x.adv).lfsr = x.lfsr := rfl
@[simp] theorem Group.adv_retired (x : Group) : (x.adv).retired = x.retired := rfl
@[simp] theorem Group.adv_trap (x : Group) : (x.adv).trap = x.trap := rfl
@[simp] theorem Group.adv_replay (x : Group) : (x.adv).replay = x.replay := rfl
@[simp] theorem Group.adv_unit (x : Group) : (x.adv).unit = x.unit := rfl
@[simp] theorem Group.adv_lut (x : Group) : (x.adv).lut = x.lut := rfl
@[simp] theorem Group.adv_interval (x : Group) : (x.adv).interval = x.interval := rfl
@[simp] theorem Group.adv_ordq (x : Group) : (x.adv).ordq = x.ordq := rfl
@[simp] theorem Group.adv_wait (x : Group) : (x.adv).wait = x.wait := rfl
@[simp] theorem Group.adv_age (x : Group) : (x.adv).age = x.age := rfl
@[simp] theorem Group.adv_lastIssue (x : Group) : (x.adv).lastIssue = x.lastIssue := rfl
@[simp] theorem Group.adv_deferred (x : Group) : (x.adv).deferred = x.deferred := rfl
@[simp] theorem Group.adv_verr (x : Group) : (x.adv).verr = x.verr := rfl
@[simp] theorem Group.adv_serr (x : Group) : (x.adv).serr = x.serr := rfl
@[simp] theorem Group.adv_pfWait (x : Group) : (x.adv).pfWait = x.pfWait := rfl
@[simp] theorem Group.adv_notBefore (x : Group) : (x.adv).notBefore = x.notBefore := rfl
@[simp] theorem Group.adv_dbgGo (x : Group) : (x.adv).dbgGo = x.dbgGo := rfl
@[simp] theorem Group.adv_dbgStop (x : Group) : (x.adv).dbgStop = x.dbgStop := rfl
@[simp] theorem Group.adv_atEdge (x : Group) : (x.adv).atEdge = x.atEdge := rfl
@[simp] theorem Group.adv_brkArg (x : Group) : (x.adv).brkArg = x.brkArg := rfl
@[simp] theorem Group.adv_window (x : Group) : (x.adv).window = x.window := rfl
@[simp] theorem Group.adv_vdone (x : Group) : (x.adv).vdone = x.vdone := rfl
@[simp] theorem Group.adv_locket (x : Group) : (x.adv).locket = x.locket := rfl
@[simp] theorem Group.adv_stopped (x : Group) : (x.adv).stopped = x.stopped := rfl
@[simp] theorem Group.adv_stalled (x : Group) : (x.adv).stalled = x.stalled := rfl
@[simp] theorem Group.adv_savedAt (x : Group) : (x.adv).savedAt = x.savedAt := rfl
@[simp] theorem Group.adv_declined (x : Group) : (x.adv).declined = x.declined := rfl
@[simp] theorem Group.adv_collN (x : Group) : (x.adv).collN = x.collN := rfl
@[simp] theorem Group.adv_loadNo (x : Group) : (x.adv).loadNo = x.loadNo := rfl
@[simp] theorem Group.adv_lastScalar (x : Group) : (x.adv).lastScalar = x.lastScalar := rfl
@[simp] theorem Group.adv_verrOf (x : Group) : (x.adv).verrOf = x.verrOf := rfl
@[simp] theorem Group.adv_savedGt (x : Group) : (x.adv).savedGt = x.savedGt := rfl
@[simp] theorem Group.adv_savedDie (x : Group) : (x.adv).savedDie = x.savedDie := rfl
@[simp] theorem Group.setSr_ctx (x : Group) (r : Nat) (v : W64) : (x.setSr r v).ctx = x.ctx := by
  unfold Group.setSr; split <;> rfl
@[simp] theorem Group.setSr_launch (x : Group) (r : Nat) (v : W64) : (x.setSr r v).launch = x.launch := by
  unfold Group.setSr; split <;> rfl
@[simp] theorem Group.setSr_block (x : Group) (r : Nat) (v : W64) : (x.setSr r v).block = x.block := by
  unfold Group.setSr; split <;> rfl
@[simp] theorem Group.setSr_gid (x : Group) (r : Nat) (v : W64) : (x.setSr r v).gid = x.gid := by
  unfold Group.setSr; split <;> rfl
@[simp] theorem Group.setSr_core (x : Group) (r : Nat) (v : W64) : (x.setSr r v).core = x.core := by
  unfold Group.setSr; split <;> rfl
@[simp] theorem Group.setSr_slot (x : Group) (r : Nat) (v : W64) : (x.setSr r v).slot = x.slot := by
  unfold Group.setSr; split <;> rfl
@[simp] theorem Group.setSr_sidx (x : Group) (r : Nat) (v : W64) : (x.setSr r v).sidx = x.sidx := by
  unfold Group.setSr; split <;> rfl
@[simp] theorem Group.setSr_residence (x : Group) (r : Nat) (v : W64) : (x.setSr r v).residence = x.residence := by
  unfold Group.setSr; split <;> rfl
@[simp] theorem Group.setSr_salloc (x : Group) (r : Nat) (v : W64) : (x.setSr r v).salloc = x.salloc := by
  unfold Group.setSr; split <;> rfl
@[simp] theorem Group.setSr_valloc (x : Group) (r : Nat) (v : W64) : (x.setSr r v).valloc = x.valloc := by
  unfold Group.setSr; split <;> rfl
@[simp] theorem Group.setSr_vreg (x : Group) (r : Nat) (v : W64) : (x.setSr r v).vreg = x.vreg := by
  unfold Group.setSr; split <;> rfl
@[simp] theorem Group.setSr_m0 (x : Group) (r : Nat) (v : W64) : (x.setSr r v).m0 = x.m0 := by
  unfold Group.setSr; split <;> rfl
@[simp] theorem Group.setSr_masks (x : Group) (r : Nat) (v : W64) : (x.setSr r v).masks = x.masks := by
  unfold Group.setSr; split <;> rfl
@[simp] theorem Group.setSr_wins (x : Group) (r : Nat) (v : W64) : (x.setSr r v).wins = x.wins := by
  unfold Group.setSr; split <;> rfl
@[simp] theorem Group.setSr_front (x : Group) (r : Nat) (v : W64) : (x.setSr r v).front = x.front := by
  unfold Group.setSr; split <;> rfl
@[simp] theorem Group.setSr_pc (x : Group) (r : Nat) (v : W64) : (x.setSr r v).pc = x.pc := by
  unfold Group.setSr; split <;> rfl
@[simp] theorem Group.setSr_fmt (x : Group) (r : Nat) (v : W64) : (x.setSr r v).fmt = x.fmt := by
  unfold Group.setSr; split <;> rfl
@[simp] theorem Group.setSr_queue (x : Group) (r : Nat) (v : W64) : (x.setSr r v).queue = x.queue := by
  unfold Group.setSr; split <;> rfl
@[simp] theorem Group.setSr_rstack (x : Group) (r : Nat) (v : W64) : (x.setSr r v).rstack = x.rstack := by
  unfold Group.setSr; split <;> rfl
@[simp] theorem Group.setSr_fflags (x : Group) (r : Nat) (v : W64) : (x.setSr r v).fflags = x.fflags := by
  unfold Group.setSr; split <;> rfl
@[simp] theorem Group.setSr_vmode (x : Group) (r : Nat) (v : W64) : (x.setSr r v).vmode = x.vmode := by
  unfold Group.setSr; split <;> rfl
@[simp] theorem Group.setSr_stklim (x : Group) (r : Nat) (v : W64) : (x.setSr r v).stklim = x.stklim := by
  unfold Group.setSr; split <;> rfl
@[simp] theorem Group.setSr_sigdim (x : Group) (r : Nat) (v : W64) : (x.setSr r v).sigdim = x.sigdim := by
  unfold Group.setSr; split <;> rfl
@[simp] theorem Group.setSr_sigdepth (x : Group) (r : Nat) (v : W64) : (x.setSr r v).sigdepth = x.sigdepth := by
  unfold Group.setSr; split <;> rfl
@[simp] theorem Group.setSr_blevel (x : Group) (r : Nat) (v : W64) : (x.setSr r v).blevel = x.blevel := by
  unfold Group.setSr; split <;> rfl
@[simp] theorem Group.setSr_blimit (x : Group) (r : Nat) (v : W64) : (x.setSr r v).blimit = x.blimit := by
  unfold Group.setSr; split <;> rfl
@[simp] theorem Group.setSr_ops (x : Group) (r : Nat) (v : W64) : (x.setSr r v).ops = x.ops := by
  unfold Group.setSr; split <;> rfl
@[simp] theorem Group.setSr_pend (x : Group) (r : Nat) (v : W64) : (x.setSr r v).pend = x.pend := by
  unfold Group.setSr; split <;> rfl
@[simp] theorem Group.setSr_seq (x : Group) (r : Nat) (v : W64) : (x.setSr r v).seq = x.seq := by
  unfold Group.setSr; split <;> rfl
@[simp] theorem Group.setSr_tileNo (x : Group) (r : Nat) (v : W64) : (x.setSr r v).tileNo = x.tileNo := by
  unfold Group.setSr; split <;> rfl
@[simp] theorem Group.setSr_hseq (x : Group) (r : Nat) (v : W64) : (x.setSr r v).hseq = x.hseq := by
  unfold Group.setSr; split <;> rfl
@[simp] theorem Group.setSr_handles (x : Group) (r : Nat) (v : W64) : (x.setSr r v).handles = x.handles := by
  unfold Group.setSr; split <;> rfl
@[simp] theorem Group.setSr_lfsr (x : Group) (r : Nat) (v : W64) : (x.setSr r v).lfsr = x.lfsr := by
  unfold Group.setSr; split <;> rfl
@[simp] theorem Group.setSr_retired (x : Group) (r : Nat) (v : W64) : (x.setSr r v).retired = x.retired := by
  unfold Group.setSr; split <;> rfl
@[simp] theorem Group.setSr_trap (x : Group) (r : Nat) (v : W64) : (x.setSr r v).trap = x.trap := by
  unfold Group.setSr; split <;> rfl
@[simp] theorem Group.setSr_replay (x : Group) (r : Nat) (v : W64) : (x.setSr r v).replay = x.replay := by
  unfold Group.setSr; split <;> rfl
@[simp] theorem Group.setSr_unit (x : Group) (r : Nat) (v : W64) : (x.setSr r v).unit = x.unit := by
  unfold Group.setSr; split <;> rfl
@[simp] theorem Group.setSr_lut (x : Group) (r : Nat) (v : W64) : (x.setSr r v).lut = x.lut := by
  unfold Group.setSr; split <;> rfl
@[simp] theorem Group.setSr_interval (x : Group) (r : Nat) (v : W64) : (x.setSr r v).interval = x.interval := by
  unfold Group.setSr; split <;> rfl
@[simp] theorem Group.setSr_ordq (x : Group) (r : Nat) (v : W64) : (x.setSr r v).ordq = x.ordq := by
  unfold Group.setSr; split <;> rfl
@[simp] theorem Group.setSr_wait (x : Group) (r : Nat) (v : W64) : (x.setSr r v).wait = x.wait := by
  unfold Group.setSr; split <;> rfl
@[simp] theorem Group.setSr_age (x : Group) (r : Nat) (v : W64) : (x.setSr r v).age = x.age := by
  unfold Group.setSr; split <;> rfl
@[simp] theorem Group.setSr_lastIssue (x : Group) (r : Nat) (v : W64) : (x.setSr r v).lastIssue = x.lastIssue := by
  unfold Group.setSr; split <;> rfl
@[simp] theorem Group.setSr_deferred (x : Group) (r : Nat) (v : W64) : (x.setSr r v).deferred = x.deferred := by
  unfold Group.setSr; split <;> rfl
@[simp] theorem Group.setSr_verr (x : Group) (r : Nat) (v : W64) : (x.setSr r v).verr = x.verr := by
  unfold Group.setSr; split <;> rfl
@[simp] theorem Group.setSr_pfWait (x : Group) (r : Nat) (v : W64) : (x.setSr r v).pfWait = x.pfWait := by
  unfold Group.setSr; split <;> rfl
@[simp] theorem Group.setSr_notBefore (x : Group) (r : Nat) (v : W64) : (x.setSr r v).notBefore = x.notBefore := by
  unfold Group.setSr; split <;> rfl
@[simp] theorem Group.setSr_dbgGo (x : Group) (r : Nat) (v : W64) : (x.setSr r v).dbgGo = x.dbgGo := by
  unfold Group.setSr; split <;> rfl
@[simp] theorem Group.setSr_dbgStop (x : Group) (r : Nat) (v : W64) : (x.setSr r v).dbgStop = x.dbgStop := by
  unfold Group.setSr; split <;> rfl
@[simp] theorem Group.setSr_atEdge (x : Group) (r : Nat) (v : W64) : (x.setSr r v).atEdge = x.atEdge := by
  unfold Group.setSr; split <;> rfl
@[simp] theorem Group.setSr_brkArg (x : Group) (r : Nat) (v : W64) : (x.setSr r v).brkArg = x.brkArg := by
  unfold Group.setSr; split <;> rfl
@[simp] theorem Group.setSr_window (x : Group) (r : Nat) (v : W64) : (x.setSr r v).window = x.window := by
  unfold Group.setSr; split <;> rfl
@[simp] theorem Group.setSr_vdone (x : Group) (r : Nat) (v : W64) : (x.setSr r v).vdone = x.vdone := by
  unfold Group.setSr; split <;> rfl
@[simp] theorem Group.setSr_locket (x : Group) (r : Nat) (v : W64) : (x.setSr r v).locket = x.locket := by
  unfold Group.setSr; split <;> rfl
@[simp] theorem Group.setSr_stopped (x : Group) (r : Nat) (v : W64) : (x.setSr r v).stopped = x.stopped := by
  unfold Group.setSr; split <;> rfl
@[simp] theorem Group.setSr_stalled (x : Group) (r : Nat) (v : W64) : (x.setSr r v).stalled = x.stalled := by
  unfold Group.setSr; split <;> rfl
@[simp] theorem Group.setSr_savedAt (x : Group) (r : Nat) (v : W64) : (x.setSr r v).savedAt = x.savedAt := by
  unfold Group.setSr; split <;> rfl
@[simp] theorem Group.setSr_declined (x : Group) (r : Nat) (v : W64) : (x.setSr r v).declined = x.declined := by
  unfold Group.setSr; split <;> rfl
@[simp] theorem Group.setSr_collN (x : Group) (r : Nat) (v : W64) : (x.setSr r v).collN = x.collN := by
  unfold Group.setSr; split <;> rfl
@[simp] theorem Group.setSr_loadNo (x : Group) (r : Nat) (v : W64) : (x.setSr r v).loadNo = x.loadNo := by
  unfold Group.setSr; split <;> rfl
@[simp] theorem Group.setSr_lastScalar (x : Group) (r : Nat) (v : W64) : (x.setSr r v).lastScalar = x.lastScalar := by
  unfold Group.setSr; split <;> rfl
@[simp] theorem Group.setSr_verrOf (x : Group) (r : Nat) (v : W64) : (x.setSr r v).verrOf = x.verrOf := by
  unfold Group.setSr; split <;> rfl
@[simp] theorem Group.setSr_savedGt (x : Group) (r : Nat) (v : W64) : (x.setSr r v).savedGt = x.savedGt := by
  unfold Group.setSr; split <;> rfl
@[simp] theorem Group.setSr_savedDie (x : Group) (r : Nat) (v : W64) : (x.setSr r v).savedDie = x.savedDie := by
  unfold Group.setSr; split <;> rfl
@[simp] theorem Group.setVr_ctx (x : Group) (k l : Nat) (v : W32) : (x.setVr k l v).ctx = x.ctx := rfl
@[simp] theorem Group.setVr_launch (x : Group) (k l : Nat) (v : W32) : (x.setVr k l v).launch = x.launch := rfl
@[simp] theorem Group.setVr_block (x : Group) (k l : Nat) (v : W32) : (x.setVr k l v).block = x.block := rfl
@[simp] theorem Group.setVr_gid (x : Group) (k l : Nat) (v : W32) : (x.setVr k l v).gid = x.gid := rfl
@[simp] theorem Group.setVr_core (x : Group) (k l : Nat) (v : W32) : (x.setVr k l v).core = x.core := rfl
@[simp] theorem Group.setVr_slot (x : Group) (k l : Nat) (v : W32) : (x.setVr k l v).slot = x.slot := rfl
@[simp] theorem Group.setVr_sidx (x : Group) (k l : Nat) (v : W32) : (x.setVr k l v).sidx = x.sidx := rfl
@[simp] theorem Group.setVr_residence (x : Group) (k l : Nat) (v : W32) : (x.setVr k l v).residence = x.residence := rfl
@[simp] theorem Group.setVr_salloc (x : Group) (k l : Nat) (v : W32) : (x.setVr k l v).salloc = x.salloc := rfl
@[simp] theorem Group.setVr_valloc (x : Group) (k l : Nat) (v : W32) : (x.setVr k l v).valloc = x.valloc := rfl
@[simp] theorem Group.setVr_sreg (x : Group) (k l : Nat) (v : W32) : (x.setVr k l v).sreg = x.sreg := rfl
@[simp] theorem Group.setVr_m0 (x : Group) (k l : Nat) (v : W32) : (x.setVr k l v).m0 = x.m0 := rfl
@[simp] theorem Group.setVr_masks (x : Group) (k l : Nat) (v : W32) : (x.setVr k l v).masks = x.masks := rfl
@[simp] theorem Group.setVr_wins (x : Group) (k l : Nat) (v : W32) : (x.setVr k l v).wins = x.wins := rfl
@[simp] theorem Group.setVr_front (x : Group) (k l : Nat) (v : W32) : (x.setVr k l v).front = x.front := rfl
@[simp] theorem Group.setVr_pc (x : Group) (k l : Nat) (v : W32) : (x.setVr k l v).pc = x.pc := rfl
@[simp] theorem Group.setVr_fmt (x : Group) (k l : Nat) (v : W32) : (x.setVr k l v).fmt = x.fmt := rfl
@[simp] theorem Group.setVr_queue (x : Group) (k l : Nat) (v : W32) : (x.setVr k l v).queue = x.queue := rfl
@[simp] theorem Group.setVr_rstack (x : Group) (k l : Nat) (v : W32) : (x.setVr k l v).rstack = x.rstack := rfl
@[simp] theorem Group.setVr_fflags (x : Group) (k l : Nat) (v : W32) : (x.setVr k l v).fflags = x.fflags := rfl
@[simp] theorem Group.setVr_vmode (x : Group) (k l : Nat) (v : W32) : (x.setVr k l v).vmode = x.vmode := rfl
@[simp] theorem Group.setVr_stklim (x : Group) (k l : Nat) (v : W32) : (x.setVr k l v).stklim = x.stklim := rfl
@[simp] theorem Group.setVr_sigdim (x : Group) (k l : Nat) (v : W32) : (x.setVr k l v).sigdim = x.sigdim := rfl
@[simp] theorem Group.setVr_sigdepth (x : Group) (k l : Nat) (v : W32) : (x.setVr k l v).sigdepth = x.sigdepth := rfl
@[simp] theorem Group.setVr_blevel (x : Group) (k l : Nat) (v : W32) : (x.setVr k l v).blevel = x.blevel := rfl
@[simp] theorem Group.setVr_blimit (x : Group) (k l : Nat) (v : W32) : (x.setVr k l v).blimit = x.blimit := rfl
@[simp] theorem Group.setVr_ops (x : Group) (k l : Nat) (v : W32) : (x.setVr k l v).ops = x.ops := rfl
@[simp] theorem Group.setVr_pend (x : Group) (k l : Nat) (v : W32) : (x.setVr k l v).pend = x.pend := rfl
@[simp] theorem Group.setVr_seq (x : Group) (k l : Nat) (v : W32) : (x.setVr k l v).seq = x.seq := rfl
@[simp] theorem Group.setVr_tileNo (x : Group) (k l : Nat) (v : W32) : (x.setVr k l v).tileNo = x.tileNo := rfl
@[simp] theorem Group.setVr_hseq (x : Group) (k l : Nat) (v : W32) : (x.setVr k l v).hseq = x.hseq := rfl
@[simp] theorem Group.setVr_handles (x : Group) (k l : Nat) (v : W32) : (x.setVr k l v).handles = x.handles := rfl
@[simp] theorem Group.setVr_lfsr (x : Group) (k l : Nat) (v : W32) : (x.setVr k l v).lfsr = x.lfsr := rfl
@[simp] theorem Group.setVr_retired (x : Group) (k l : Nat) (v : W32) : (x.setVr k l v).retired = x.retired := rfl
@[simp] theorem Group.setVr_trap (x : Group) (k l : Nat) (v : W32) : (x.setVr k l v).trap = x.trap := rfl
@[simp] theorem Group.setVr_replay (x : Group) (k l : Nat) (v : W32) : (x.setVr k l v).replay = x.replay := rfl
@[simp] theorem Group.setVr_unit (x : Group) (k l : Nat) (v : W32) : (x.setVr k l v).unit = x.unit := rfl
@[simp] theorem Group.setVr_lut (x : Group) (k l : Nat) (v : W32) : (x.setVr k l v).lut = x.lut := rfl
@[simp] theorem Group.setVr_interval (x : Group) (k l : Nat) (v : W32) : (x.setVr k l v).interval = x.interval := rfl
@[simp] theorem Group.setVr_ordq (x : Group) (k l : Nat) (v : W32) : (x.setVr k l v).ordq = x.ordq := rfl
@[simp] theorem Group.setVr_wait (x : Group) (k l : Nat) (v : W32) : (x.setVr k l v).wait = x.wait := rfl
@[simp] theorem Group.setVr_age (x : Group) (k l : Nat) (v : W32) : (x.setVr k l v).age = x.age := rfl
@[simp] theorem Group.setVr_lastIssue (x : Group) (k l : Nat) (v : W32) : (x.setVr k l v).lastIssue = x.lastIssue := rfl
@[simp] theorem Group.setVr_deferred (x : Group) (k l : Nat) (v : W32) : (x.setVr k l v).deferred = x.deferred := rfl
@[simp] theorem Group.setVr_serr (x : Group) (k l : Nat) (v : W32) : (x.setVr k l v).serr = x.serr := rfl
@[simp] theorem Group.setVr_pfWait (x : Group) (k l : Nat) (v : W32) : (x.setVr k l v).pfWait = x.pfWait := rfl
@[simp] theorem Group.setVr_notBefore (x : Group) (k l : Nat) (v : W32) : (x.setVr k l v).notBefore = x.notBefore := rfl
@[simp] theorem Group.setVr_dbgGo (x : Group) (k l : Nat) (v : W32) : (x.setVr k l v).dbgGo = x.dbgGo := rfl
@[simp] theorem Group.setVr_dbgStop (x : Group) (k l : Nat) (v : W32) : (x.setVr k l v).dbgStop = x.dbgStop := rfl
@[simp] theorem Group.setVr_atEdge (x : Group) (k l : Nat) (v : W32) : (x.setVr k l v).atEdge = x.atEdge := rfl
@[simp] theorem Group.setVr_brkArg (x : Group) (k l : Nat) (v : W32) : (x.setVr k l v).brkArg = x.brkArg := rfl
@[simp] theorem Group.setVr_window (x : Group) (k l : Nat) (v : W32) : (x.setVr k l v).window = x.window := rfl
@[simp] theorem Group.setVr_vdone (x : Group) (k l : Nat) (v : W32) : (x.setVr k l v).vdone = x.vdone := rfl
@[simp] theorem Group.setVr_locket (x : Group) (k l : Nat) (v : W32) : (x.setVr k l v).locket = x.locket := rfl
@[simp] theorem Group.setVr_stopped (x : Group) (k l : Nat) (v : W32) : (x.setVr k l v).stopped = x.stopped := rfl
@[simp] theorem Group.setVr_stalled (x : Group) (k l : Nat) (v : W32) : (x.setVr k l v).stalled = x.stalled := rfl
@[simp] theorem Group.setVr_savedAt (x : Group) (k l : Nat) (v : W32) : (x.setVr k l v).savedAt = x.savedAt := rfl
@[simp] theorem Group.setVr_declined (x : Group) (k l : Nat) (v : W32) : (x.setVr k l v).declined = x.declined := rfl
@[simp] theorem Group.setVr_collN (x : Group) (k l : Nat) (v : W32) : (x.setVr k l v).collN = x.collN := rfl
@[simp] theorem Group.setVr_loadNo (x : Group) (k l : Nat) (v : W32) : (x.setVr k l v).loadNo = x.loadNo := rfl
@[simp] theorem Group.setVr_lastScalar (x : Group) (k l : Nat) (v : W32) : (x.setVr k l v).lastScalar = x.lastScalar := rfl
@[simp] theorem Group.setVr_verrOf (x : Group) (k l : Nat) (v : W32) : (x.setVr k l v).verrOf = x.verrOf := rfl
@[simp] theorem Group.setVr_savedGt (x : Group) (k l : Nat) (v : W32) : (x.setVr k l v).savedGt = x.savedGt := rfl
@[simp] theorem Group.setVr_savedDie (x : Group) (k l : Nat) (v : W32) : (x.setVr k l v).savedDie = x.savedDie := rfl
@[simp] theorem Group.setMask_ctx (x : Group) (k : Nat) (v : W32) : (x.setMask k v).ctx = x.ctx := by
  unfold Group.setMask; split <;> rfl
@[simp] theorem Group.setMask_launch (x : Group) (k : Nat) (v : W32) : (x.setMask k v).launch = x.launch := by
  unfold Group.setMask; split <;> rfl
@[simp] theorem Group.setMask_block (x : Group) (k : Nat) (v : W32) : (x.setMask k v).block = x.block := by
  unfold Group.setMask; split <;> rfl
@[simp] theorem Group.setMask_gid (x : Group) (k : Nat) (v : W32) : (x.setMask k v).gid = x.gid := by
  unfold Group.setMask; split <;> rfl
@[simp] theorem Group.setMask_core (x : Group) (k : Nat) (v : W32) : (x.setMask k v).core = x.core := by
  unfold Group.setMask; split <;> rfl
@[simp] theorem Group.setMask_slot (x : Group) (k : Nat) (v : W32) : (x.setMask k v).slot = x.slot := by
  unfold Group.setMask; split <;> rfl
@[simp] theorem Group.setMask_sidx (x : Group) (k : Nat) (v : W32) : (x.setMask k v).sidx = x.sidx := by
  unfold Group.setMask; split <;> rfl
@[simp] theorem Group.setMask_residence (x : Group) (k : Nat) (v : W32) : (x.setMask k v).residence = x.residence := by
  unfold Group.setMask; split <;> rfl
@[simp] theorem Group.setMask_salloc (x : Group) (k : Nat) (v : W32) : (x.setMask k v).salloc = x.salloc := by
  unfold Group.setMask; split <;> rfl
@[simp] theorem Group.setMask_valloc (x : Group) (k : Nat) (v : W32) : (x.setMask k v).valloc = x.valloc := by
  unfold Group.setMask; split <;> rfl
@[simp] theorem Group.setMask_sreg (x : Group) (k : Nat) (v : W32) : (x.setMask k v).sreg = x.sreg := by
  unfold Group.setMask; split <;> rfl
@[simp] theorem Group.setMask_vreg (x : Group) (k : Nat) (v : W32) : (x.setMask k v).vreg = x.vreg := by
  unfold Group.setMask; split <;> rfl
@[simp] theorem Group.setMask_m0 (x : Group) (k : Nat) (v : W32) : (x.setMask k v).m0 = x.m0 := by
  unfold Group.setMask; split <;> rfl
@[simp] theorem Group.setMask_wins (x : Group) (k : Nat) (v : W32) : (x.setMask k v).wins = x.wins := by
  unfold Group.setMask; split <;> rfl
@[simp] theorem Group.setMask_front (x : Group) (k : Nat) (v : W32) : (x.setMask k v).front = x.front := by
  unfold Group.setMask; split <;> rfl
@[simp] theorem Group.setMask_pc (x : Group) (k : Nat) (v : W32) : (x.setMask k v).pc = x.pc := by
  unfold Group.setMask; split <;> rfl
@[simp] theorem Group.setMask_fmt (x : Group) (k : Nat) (v : W32) : (x.setMask k v).fmt = x.fmt := by
  unfold Group.setMask; split <;> rfl
@[simp] theorem Group.setMask_queue (x : Group) (k : Nat) (v : W32) : (x.setMask k v).queue = x.queue := by
  unfold Group.setMask; split <;> rfl
@[simp] theorem Group.setMask_rstack (x : Group) (k : Nat) (v : W32) : (x.setMask k v).rstack = x.rstack := by
  unfold Group.setMask; split <;> rfl
@[simp] theorem Group.setMask_fflags (x : Group) (k : Nat) (v : W32) : (x.setMask k v).fflags = x.fflags := by
  unfold Group.setMask; split <;> rfl
@[simp] theorem Group.setMask_vmode (x : Group) (k : Nat) (v : W32) : (x.setMask k v).vmode = x.vmode := by
  unfold Group.setMask; split <;> rfl
@[simp] theorem Group.setMask_stklim (x : Group) (k : Nat) (v : W32) : (x.setMask k v).stklim = x.stklim := by
  unfold Group.setMask; split <;> rfl
@[simp] theorem Group.setMask_sigdim (x : Group) (k : Nat) (v : W32) : (x.setMask k v).sigdim = x.sigdim := by
  unfold Group.setMask; split <;> rfl
@[simp] theorem Group.setMask_sigdepth (x : Group) (k : Nat) (v : W32) : (x.setMask k v).sigdepth = x.sigdepth := by
  unfold Group.setMask; split <;> rfl
@[simp] theorem Group.setMask_blevel (x : Group) (k : Nat) (v : W32) : (x.setMask k v).blevel = x.blevel := by
  unfold Group.setMask; split <;> rfl
@[simp] theorem Group.setMask_blimit (x : Group) (k : Nat) (v : W32) : (x.setMask k v).blimit = x.blimit := by
  unfold Group.setMask; split <;> rfl
@[simp] theorem Group.setMask_ops (x : Group) (k : Nat) (v : W32) : (x.setMask k v).ops = x.ops := by
  unfold Group.setMask; split <;> rfl
@[simp] theorem Group.setMask_pend (x : Group) (k : Nat) (v : W32) : (x.setMask k v).pend = x.pend := by
  unfold Group.setMask; split <;> rfl
@[simp] theorem Group.setMask_seq (x : Group) (k : Nat) (v : W32) : (x.setMask k v).seq = x.seq := by
  unfold Group.setMask; split <;> rfl
@[simp] theorem Group.setMask_tileNo (x : Group) (k : Nat) (v : W32) : (x.setMask k v).tileNo = x.tileNo := by
  unfold Group.setMask; split <;> rfl
@[simp] theorem Group.setMask_hseq (x : Group) (k : Nat) (v : W32) : (x.setMask k v).hseq = x.hseq := by
  unfold Group.setMask; split <;> rfl
@[simp] theorem Group.setMask_handles (x : Group) (k : Nat) (v : W32) : (x.setMask k v).handles = x.handles := by
  unfold Group.setMask; split <;> rfl
@[simp] theorem Group.setMask_lfsr (x : Group) (k : Nat) (v : W32) : (x.setMask k v).lfsr = x.lfsr := by
  unfold Group.setMask; split <;> rfl
@[simp] theorem Group.setMask_retired (x : Group) (k : Nat) (v : W32) : (x.setMask k v).retired = x.retired := by
  unfold Group.setMask; split <;> rfl
@[simp] theorem Group.setMask_trap (x : Group) (k : Nat) (v : W32) : (x.setMask k v).trap = x.trap := by
  unfold Group.setMask; split <;> rfl
@[simp] theorem Group.setMask_replay (x : Group) (k : Nat) (v : W32) : (x.setMask k v).replay = x.replay := by
  unfold Group.setMask; split <;> rfl
@[simp] theorem Group.setMask_unit (x : Group) (k : Nat) (v : W32) : (x.setMask k v).unit = x.unit := by
  unfold Group.setMask; split <;> rfl
@[simp] theorem Group.setMask_lut (x : Group) (k : Nat) (v : W32) : (x.setMask k v).lut = x.lut := by
  unfold Group.setMask; split <;> rfl
@[simp] theorem Group.setMask_interval (x : Group) (k : Nat) (v : W32) : (x.setMask k v).interval = x.interval := by
  unfold Group.setMask; split <;> rfl
@[simp] theorem Group.setMask_ordq (x : Group) (k : Nat) (v : W32) : (x.setMask k v).ordq = x.ordq := by
  unfold Group.setMask; split <;> rfl
@[simp] theorem Group.setMask_wait (x : Group) (k : Nat) (v : W32) : (x.setMask k v).wait = x.wait := by
  unfold Group.setMask; split <;> rfl
@[simp] theorem Group.setMask_age (x : Group) (k : Nat) (v : W32) : (x.setMask k v).age = x.age := by
  unfold Group.setMask; split <;> rfl
@[simp] theorem Group.setMask_lastIssue (x : Group) (k : Nat) (v : W32) : (x.setMask k v).lastIssue = x.lastIssue := by
  unfold Group.setMask; split <;> rfl
@[simp] theorem Group.setMask_deferred (x : Group) (k : Nat) (v : W32) : (x.setMask k v).deferred = x.deferred := by
  unfold Group.setMask; split <;> rfl
@[simp] theorem Group.setMask_verr (x : Group) (k : Nat) (v : W32) : (x.setMask k v).verr = x.verr := by
  unfold Group.setMask; split <;> rfl
@[simp] theorem Group.setMask_serr (x : Group) (k : Nat) (v : W32) : (x.setMask k v).serr = x.serr := by
  unfold Group.setMask; split <;> rfl
@[simp] theorem Group.setMask_pfWait (x : Group) (k : Nat) (v : W32) : (x.setMask k v).pfWait = x.pfWait := by
  unfold Group.setMask; split <;> rfl
@[simp] theorem Group.setMask_notBefore (x : Group) (k : Nat) (v : W32) : (x.setMask k v).notBefore = x.notBefore := by
  unfold Group.setMask; split <;> rfl
@[simp] theorem Group.setMask_dbgGo (x : Group) (k : Nat) (v : W32) : (x.setMask k v).dbgGo = x.dbgGo := by
  unfold Group.setMask; split <;> rfl
@[simp] theorem Group.setMask_dbgStop (x : Group) (k : Nat) (v : W32) : (x.setMask k v).dbgStop = x.dbgStop := by
  unfold Group.setMask; split <;> rfl
@[simp] theorem Group.setMask_atEdge (x : Group) (k : Nat) (v : W32) : (x.setMask k v).atEdge = x.atEdge := by
  unfold Group.setMask; split <;> rfl
@[simp] theorem Group.setMask_brkArg (x : Group) (k : Nat) (v : W32) : (x.setMask k v).brkArg = x.brkArg := by
  unfold Group.setMask; split <;> rfl
@[simp] theorem Group.setMask_window (x : Group) (k : Nat) (v : W32) : (x.setMask k v).window = x.window := by
  unfold Group.setMask; split <;> rfl
@[simp] theorem Group.setMask_vdone (x : Group) (k : Nat) (v : W32) : (x.setMask k v).vdone = x.vdone := by
  unfold Group.setMask; split <;> rfl
@[simp] theorem Group.setMask_locket (x : Group) (k : Nat) (v : W32) : (x.setMask k v).locket = x.locket := by
  unfold Group.setMask; split <;> rfl
@[simp] theorem Group.setMask_stopped (x : Group) (k : Nat) (v : W32) : (x.setMask k v).stopped = x.stopped := by
  unfold Group.setMask; split <;> rfl
@[simp] theorem Group.setMask_stalled (x : Group) (k : Nat) (v : W32) : (x.setMask k v).stalled = x.stalled := by
  unfold Group.setMask; split <;> rfl
@[simp] theorem Group.setMask_savedAt (x : Group) (k : Nat) (v : W32) : (x.setMask k v).savedAt = x.savedAt := by
  unfold Group.setMask; split <;> rfl
@[simp] theorem Group.setMask_declined (x : Group) (k : Nat) (v : W32) : (x.setMask k v).declined = x.declined := by
  unfold Group.setMask; split <;> rfl
@[simp] theorem Group.setMask_collN (x : Group) (k : Nat) (v : W32) : (x.setMask k v).collN = x.collN := by
  unfold Group.setMask; split <;> rfl
@[simp] theorem Group.setMask_loadNo (x : Group) (k : Nat) (v : W32) : (x.setMask k v).loadNo = x.loadNo := by
  unfold Group.setMask; split <;> rfl
@[simp] theorem Group.setMask_lastScalar (x : Group) (k : Nat) (v : W32) : (x.setMask k v).lastScalar = x.lastScalar := by
  unfold Group.setMask; split <;> rfl
@[simp] theorem Group.setMask_verrOf (x : Group) (k : Nat) (v : W32) : (x.setMask k v).verrOf = x.verrOf := by
  unfold Group.setMask; split <;> rfl
@[simp] theorem Group.setMask_savedGt (x : Group) (k : Nat) (v : W32) : (x.setMask k v).savedGt = x.savedGt := by
  unfold Group.setMask; split <;> rfl
@[simp] theorem Group.setMask_savedDie (x : Group) (k : Nat) (v : W32) : (x.setMask k v).savedDie = x.savedDie := by
  unfold Group.setMask; split <;> rfl
@[simp] theorem Group.setWin_ctx (x : Group) (k : Nat) (w : Window) : (x.setWin k w).ctx = x.ctx := rfl
@[simp] theorem Group.setWin_launch (x : Group) (k : Nat) (w : Window) : (x.setWin k w).launch = x.launch := rfl
@[simp] theorem Group.setWin_block (x : Group) (k : Nat) (w : Window) : (x.setWin k w).block = x.block := rfl
@[simp] theorem Group.setWin_gid (x : Group) (k : Nat) (w : Window) : (x.setWin k w).gid = x.gid := rfl
@[simp] theorem Group.setWin_core (x : Group) (k : Nat) (w : Window) : (x.setWin k w).core = x.core := rfl
@[simp] theorem Group.setWin_slot (x : Group) (k : Nat) (w : Window) : (x.setWin k w).slot = x.slot := rfl
@[simp] theorem Group.setWin_sidx (x : Group) (k : Nat) (w : Window) : (x.setWin k w).sidx = x.sidx := rfl
@[simp] theorem Group.setWin_residence (x : Group) (k : Nat) (w : Window) : (x.setWin k w).residence = x.residence := rfl
@[simp] theorem Group.setWin_salloc (x : Group) (k : Nat) (w : Window) : (x.setWin k w).salloc = x.salloc := rfl
@[simp] theorem Group.setWin_valloc (x : Group) (k : Nat) (w : Window) : (x.setWin k w).valloc = x.valloc := rfl
@[simp] theorem Group.setWin_sreg (x : Group) (k : Nat) (w : Window) : (x.setWin k w).sreg = x.sreg := rfl
@[simp] theorem Group.setWin_vreg (x : Group) (k : Nat) (w : Window) : (x.setWin k w).vreg = x.vreg := rfl
@[simp] theorem Group.setWin_m0 (x : Group) (k : Nat) (w : Window) : (x.setWin k w).m0 = x.m0 := rfl
@[simp] theorem Group.setWin_masks (x : Group) (k : Nat) (w : Window) : (x.setWin k w).masks = x.masks := rfl
@[simp] theorem Group.setWin_front (x : Group) (k : Nat) (w : Window) : (x.setWin k w).front = x.front := rfl
@[simp] theorem Group.setWin_pc (x : Group) (k : Nat) (w : Window) : (x.setWin k w).pc = x.pc := rfl
@[simp] theorem Group.setWin_fmt (x : Group) (k : Nat) (w : Window) : (x.setWin k w).fmt = x.fmt := rfl
@[simp] theorem Group.setWin_queue (x : Group) (k : Nat) (w : Window) : (x.setWin k w).queue = x.queue := rfl
@[simp] theorem Group.setWin_rstack (x : Group) (k : Nat) (w : Window) : (x.setWin k w).rstack = x.rstack := rfl
@[simp] theorem Group.setWin_fflags (x : Group) (k : Nat) (w : Window) : (x.setWin k w).fflags = x.fflags := rfl
@[simp] theorem Group.setWin_vmode (x : Group) (k : Nat) (w : Window) : (x.setWin k w).vmode = x.vmode := rfl
@[simp] theorem Group.setWin_stklim (x : Group) (k : Nat) (w : Window) : (x.setWin k w).stklim = x.stklim := rfl
@[simp] theorem Group.setWin_sigdim (x : Group) (k : Nat) (w : Window) : (x.setWin k w).sigdim = x.sigdim := rfl
@[simp] theorem Group.setWin_sigdepth (x : Group) (k : Nat) (w : Window) : (x.setWin k w).sigdepth = x.sigdepth := rfl
@[simp] theorem Group.setWin_blevel (x : Group) (k : Nat) (w : Window) : (x.setWin k w).blevel = x.blevel := rfl
@[simp] theorem Group.setWin_blimit (x : Group) (k : Nat) (w : Window) : (x.setWin k w).blimit = x.blimit := rfl
@[simp] theorem Group.setWin_ops (x : Group) (k : Nat) (w : Window) : (x.setWin k w).ops = x.ops := rfl
@[simp] theorem Group.setWin_pend (x : Group) (k : Nat) (w : Window) : (x.setWin k w).pend = x.pend := rfl
@[simp] theorem Group.setWin_seq (x : Group) (k : Nat) (w : Window) : (x.setWin k w).seq = x.seq := rfl
@[simp] theorem Group.setWin_tileNo (x : Group) (k : Nat) (w : Window) : (x.setWin k w).tileNo = x.tileNo := rfl
@[simp] theorem Group.setWin_hseq (x : Group) (k : Nat) (w : Window) : (x.setWin k w).hseq = x.hseq := rfl
@[simp] theorem Group.setWin_handles (x : Group) (k : Nat) (w : Window) : (x.setWin k w).handles = x.handles := rfl
@[simp] theorem Group.setWin_lfsr (x : Group) (k : Nat) (w : Window) : (x.setWin k w).lfsr = x.lfsr := rfl
@[simp] theorem Group.setWin_retired (x : Group) (k : Nat) (w : Window) : (x.setWin k w).retired = x.retired := rfl
@[simp] theorem Group.setWin_trap (x : Group) (k : Nat) (w : Window) : (x.setWin k w).trap = x.trap := rfl
@[simp] theorem Group.setWin_replay (x : Group) (k : Nat) (w : Window) : (x.setWin k w).replay = x.replay := rfl
@[simp] theorem Group.setWin_unit (x : Group) (k : Nat) (w : Window) : (x.setWin k w).unit = x.unit := rfl
@[simp] theorem Group.setWin_lut (x : Group) (k : Nat) (w : Window) : (x.setWin k w).lut = x.lut := rfl
@[simp] theorem Group.setWin_interval (x : Group) (k : Nat) (w : Window) : (x.setWin k w).interval = x.interval := rfl
@[simp] theorem Group.setWin_ordq (x : Group) (k : Nat) (w : Window) : (x.setWin k w).ordq = x.ordq := rfl
@[simp] theorem Group.setWin_wait (x : Group) (k : Nat) (w : Window) : (x.setWin k w).wait = x.wait := rfl
@[simp] theorem Group.setWin_age (x : Group) (k : Nat) (w : Window) : (x.setWin k w).age = x.age := rfl
@[simp] theorem Group.setWin_lastIssue (x : Group) (k : Nat) (w : Window) : (x.setWin k w).lastIssue = x.lastIssue := rfl
@[simp] theorem Group.setWin_deferred (x : Group) (k : Nat) (w : Window) : (x.setWin k w).deferred = x.deferred := rfl
@[simp] theorem Group.setWin_verr (x : Group) (k : Nat) (w : Window) : (x.setWin k w).verr = x.verr := rfl
@[simp] theorem Group.setWin_serr (x : Group) (k : Nat) (w : Window) : (x.setWin k w).serr = x.serr := rfl
@[simp] theorem Group.setWin_pfWait (x : Group) (k : Nat) (w : Window) : (x.setWin k w).pfWait = x.pfWait := rfl
@[simp] theorem Group.setWin_notBefore (x : Group) (k : Nat) (w : Window) : (x.setWin k w).notBefore = x.notBefore := rfl
@[simp] theorem Group.setWin_dbgGo (x : Group) (k : Nat) (w : Window) : (x.setWin k w).dbgGo = x.dbgGo := rfl
@[simp] theorem Group.setWin_dbgStop (x : Group) (k : Nat) (w : Window) : (x.setWin k w).dbgStop = x.dbgStop := rfl
@[simp] theorem Group.setWin_atEdge (x : Group) (k : Nat) (w : Window) : (x.setWin k w).atEdge = x.atEdge := rfl
@[simp] theorem Group.setWin_brkArg (x : Group) (k : Nat) (w : Window) : (x.setWin k w).brkArg = x.brkArg := rfl
@[simp] theorem Group.setWin_window (x : Group) (k : Nat) (w : Window) : (x.setWin k w).window = x.window := rfl
@[simp] theorem Group.setWin_vdone (x : Group) (k : Nat) (w : Window) : (x.setWin k w).vdone = x.vdone := rfl
@[simp] theorem Group.setWin_locket (x : Group) (k : Nat) (w : Window) : (x.setWin k w).locket = x.locket := rfl
@[simp] theorem Group.setWin_stopped (x : Group) (k : Nat) (w : Window) : (x.setWin k w).stopped = x.stopped := rfl
@[simp] theorem Group.setWin_stalled (x : Group) (k : Nat) (w : Window) : (x.setWin k w).stalled = x.stalled := rfl
@[simp] theorem Group.setWin_savedAt (x : Group) (k : Nat) (w : Window) : (x.setWin k w).savedAt = x.savedAt := rfl
@[simp] theorem Group.setWin_declined (x : Group) (k : Nat) (w : Window) : (x.setWin k w).declined = x.declined := rfl
@[simp] theorem Group.setWin_collN (x : Group) (k : Nat) (w : Window) : (x.setWin k w).collN = x.collN := rfl
@[simp] theorem Group.setWin_loadNo (x : Group) (k : Nat) (w : Window) : (x.setWin k w).loadNo = x.loadNo := rfl
@[simp] theorem Group.setWin_lastScalar (x : Group) (k : Nat) (w : Window) : (x.setWin k w).lastScalar = x.lastScalar := rfl
@[simp] theorem Group.setWin_verrOf (x : Group) (k : Nat) (w : Window) : (x.setWin k w).verrOf = x.verrOf := rfl
@[simp] theorem Group.setWin_savedGt (x : Group) (k : Nat) (w : Window) : (x.setWin k w).savedGt = x.savedGt := rfl
@[simp] theorem Group.setWin_savedDie (x : Group) (k : Nat) (w : Window) : (x.setWin k w).savedDie = x.savedDie := rfl
@[simp] theorem Group.enter_ctx (x : Group) (cl : OpClass) (id : Nat) : (x.enter cl id).ctx = x.ctx := rfl
@[simp] theorem Group.enter_launch (x : Group) (cl : OpClass) (id : Nat) : (x.enter cl id).launch = x.launch := rfl
@[simp] theorem Group.enter_block (x : Group) (cl : OpClass) (id : Nat) : (x.enter cl id).block = x.block := rfl
@[simp] theorem Group.enter_gid (x : Group) (cl : OpClass) (id : Nat) : (x.enter cl id).gid = x.gid := rfl
@[simp] theorem Group.enter_core (x : Group) (cl : OpClass) (id : Nat) : (x.enter cl id).core = x.core := rfl
@[simp] theorem Group.enter_slot (x : Group) (cl : OpClass) (id : Nat) : (x.enter cl id).slot = x.slot := rfl
@[simp] theorem Group.enter_sidx (x : Group) (cl : OpClass) (id : Nat) : (x.enter cl id).sidx = x.sidx := rfl
@[simp] theorem Group.enter_residence (x : Group) (cl : OpClass) (id : Nat) : (x.enter cl id).residence = x.residence := rfl
@[simp] theorem Group.enter_salloc (x : Group) (cl : OpClass) (id : Nat) : (x.enter cl id).salloc = x.salloc := rfl
@[simp] theorem Group.enter_valloc (x : Group) (cl : OpClass) (id : Nat) : (x.enter cl id).valloc = x.valloc := rfl
@[simp] theorem Group.enter_sreg (x : Group) (cl : OpClass) (id : Nat) : (x.enter cl id).sreg = x.sreg := rfl
@[simp] theorem Group.enter_vreg (x : Group) (cl : OpClass) (id : Nat) : (x.enter cl id).vreg = x.vreg := rfl
@[simp] theorem Group.enter_m0 (x : Group) (cl : OpClass) (id : Nat) : (x.enter cl id).m0 = x.m0 := rfl
@[simp] theorem Group.enter_masks (x : Group) (cl : OpClass) (id : Nat) : (x.enter cl id).masks = x.masks := rfl
@[simp] theorem Group.enter_wins (x : Group) (cl : OpClass) (id : Nat) : (x.enter cl id).wins = x.wins := rfl
@[simp] theorem Group.enter_front (x : Group) (cl : OpClass) (id : Nat) : (x.enter cl id).front = x.front := rfl
@[simp] theorem Group.enter_pc (x : Group) (cl : OpClass) (id : Nat) : (x.enter cl id).pc = x.pc := rfl
@[simp] theorem Group.enter_fmt (x : Group) (cl : OpClass) (id : Nat) : (x.enter cl id).fmt = x.fmt := rfl
@[simp] theorem Group.enter_queue (x : Group) (cl : OpClass) (id : Nat) : (x.enter cl id).queue = x.queue := rfl
@[simp] theorem Group.enter_rstack (x : Group) (cl : OpClass) (id : Nat) : (x.enter cl id).rstack = x.rstack := rfl
@[simp] theorem Group.enter_fflags (x : Group) (cl : OpClass) (id : Nat) : (x.enter cl id).fflags = x.fflags := rfl
@[simp] theorem Group.enter_vmode (x : Group) (cl : OpClass) (id : Nat) : (x.enter cl id).vmode = x.vmode := rfl
@[simp] theorem Group.enter_stklim (x : Group) (cl : OpClass) (id : Nat) : (x.enter cl id).stklim = x.stklim := rfl
@[simp] theorem Group.enter_sigdim (x : Group) (cl : OpClass) (id : Nat) : (x.enter cl id).sigdim = x.sigdim := rfl
@[simp] theorem Group.enter_sigdepth (x : Group) (cl : OpClass) (id : Nat) : (x.enter cl id).sigdepth = x.sigdepth := rfl
@[simp] theorem Group.enter_blevel (x : Group) (cl : OpClass) (id : Nat) : (x.enter cl id).blevel = x.blevel := rfl
@[simp] theorem Group.enter_blimit (x : Group) (cl : OpClass) (id : Nat) : (x.enter cl id).blimit = x.blimit := rfl
@[simp] theorem Group.enter_pend (x : Group) (cl : OpClass) (id : Nat) : (x.enter cl id).pend = x.pend := rfl
@[simp] theorem Group.enter_seq (x : Group) (cl : OpClass) (id : Nat) : (x.enter cl id).seq = x.seq := rfl
@[simp] theorem Group.enter_tileNo (x : Group) (cl : OpClass) (id : Nat) : (x.enter cl id).tileNo = x.tileNo := rfl
@[simp] theorem Group.enter_hseq (x : Group) (cl : OpClass) (id : Nat) : (x.enter cl id).hseq = x.hseq := rfl
@[simp] theorem Group.enter_handles (x : Group) (cl : OpClass) (id : Nat) : (x.enter cl id).handles = x.handles := rfl
@[simp] theorem Group.enter_lfsr (x : Group) (cl : OpClass) (id : Nat) : (x.enter cl id).lfsr = x.lfsr := rfl
@[simp] theorem Group.enter_retired (x : Group) (cl : OpClass) (id : Nat) : (x.enter cl id).retired = x.retired := rfl
@[simp] theorem Group.enter_trap (x : Group) (cl : OpClass) (id : Nat) : (x.enter cl id).trap = x.trap := rfl
@[simp] theorem Group.enter_replay (x : Group) (cl : OpClass) (id : Nat) : (x.enter cl id).replay = x.replay := rfl
@[simp] theorem Group.enter_unit (x : Group) (cl : OpClass) (id : Nat) : (x.enter cl id).unit = x.unit := rfl
@[simp] theorem Group.enter_lut (x : Group) (cl : OpClass) (id : Nat) : (x.enter cl id).lut = x.lut := rfl
@[simp] theorem Group.enter_interval (x : Group) (cl : OpClass) (id : Nat) : (x.enter cl id).interval = x.interval := rfl
@[simp] theorem Group.enter_ordq (x : Group) (cl : OpClass) (id : Nat) : (x.enter cl id).ordq = x.ordq := rfl
@[simp] theorem Group.enter_wait (x : Group) (cl : OpClass) (id : Nat) : (x.enter cl id).wait = x.wait := rfl
@[simp] theorem Group.enter_age (x : Group) (cl : OpClass) (id : Nat) : (x.enter cl id).age = x.age := rfl
@[simp] theorem Group.enter_lastIssue (x : Group) (cl : OpClass) (id : Nat) : (x.enter cl id).lastIssue = x.lastIssue := rfl
@[simp] theorem Group.enter_deferred (x : Group) (cl : OpClass) (id : Nat) : (x.enter cl id).deferred = x.deferred := rfl
@[simp] theorem Group.enter_verr (x : Group) (cl : OpClass) (id : Nat) : (x.enter cl id).verr = x.verr := rfl
@[simp] theorem Group.enter_serr (x : Group) (cl : OpClass) (id : Nat) : (x.enter cl id).serr = x.serr := rfl
@[simp] theorem Group.enter_pfWait (x : Group) (cl : OpClass) (id : Nat) : (x.enter cl id).pfWait = x.pfWait := rfl
@[simp] theorem Group.enter_notBefore (x : Group) (cl : OpClass) (id : Nat) : (x.enter cl id).notBefore = x.notBefore := rfl
@[simp] theorem Group.enter_dbgGo (x : Group) (cl : OpClass) (id : Nat) : (x.enter cl id).dbgGo = x.dbgGo := rfl
@[simp] theorem Group.enter_dbgStop (x : Group) (cl : OpClass) (id : Nat) : (x.enter cl id).dbgStop = x.dbgStop := rfl
@[simp] theorem Group.enter_atEdge (x : Group) (cl : OpClass) (id : Nat) : (x.enter cl id).atEdge = x.atEdge := rfl
@[simp] theorem Group.enter_brkArg (x : Group) (cl : OpClass) (id : Nat) : (x.enter cl id).brkArg = x.brkArg := rfl
@[simp] theorem Group.enter_window (x : Group) (cl : OpClass) (id : Nat) : (x.enter cl id).window = x.window := rfl
@[simp] theorem Group.enter_vdone (x : Group) (cl : OpClass) (id : Nat) : (x.enter cl id).vdone = x.vdone := rfl
@[simp] theorem Group.enter_locket (x : Group) (cl : OpClass) (id : Nat) : (x.enter cl id).locket = x.locket := rfl
@[simp] theorem Group.enter_stopped (x : Group) (cl : OpClass) (id : Nat) : (x.enter cl id).stopped = x.stopped := rfl
@[simp] theorem Group.enter_stalled (x : Group) (cl : OpClass) (id : Nat) : (x.enter cl id).stalled = x.stalled := rfl
@[simp] theorem Group.enter_savedAt (x : Group) (cl : OpClass) (id : Nat) : (x.enter cl id).savedAt = x.savedAt := rfl
@[simp] theorem Group.enter_declined (x : Group) (cl : OpClass) (id : Nat) : (x.enter cl id).declined = x.declined := rfl
@[simp] theorem Group.enter_collN (x : Group) (cl : OpClass) (id : Nat) : (x.enter cl id).collN = x.collN := rfl
@[simp] theorem Group.enter_loadNo (x : Group) (cl : OpClass) (id : Nat) : (x.enter cl id).loadNo = x.loadNo := rfl
@[simp] theorem Group.enter_lastScalar (x : Group) (cl : OpClass) (id : Nat) : (x.enter cl id).lastScalar = x.lastScalar := rfl
@[simp] theorem Group.enter_verrOf (x : Group) (cl : OpClass) (id : Nat) : (x.enter cl id).verrOf = x.verrOf := rfl
@[simp] theorem Group.enter_savedGt (x : Group) (cl : OpClass) (id : Nat) : (x.enter cl id).savedGt = x.savedGt := rfl
@[simp] theorem Group.enter_savedDie (x : Group) (cl : OpClass) (id : Nat) : (x.enter cl id).savedDie = x.savedDie := rfl
@[simp] theorem Group.finishOp_ctx (x : Group) (id : Nat) : (x.finishOp id).ctx = x.ctx := rfl
@[simp] theorem Group.finishOp_launch (x : Group) (id : Nat) : (x.finishOp id).launch = x.launch := rfl
@[simp] theorem Group.finishOp_block (x : Group) (id : Nat) : (x.finishOp id).block = x.block := rfl
@[simp] theorem Group.finishOp_gid (x : Group) (id : Nat) : (x.finishOp id).gid = x.gid := rfl
@[simp] theorem Group.finishOp_core (x : Group) (id : Nat) : (x.finishOp id).core = x.core := rfl
@[simp] theorem Group.finishOp_slot (x : Group) (id : Nat) : (x.finishOp id).slot = x.slot := rfl
@[simp] theorem Group.finishOp_sidx (x : Group) (id : Nat) : (x.finishOp id).sidx = x.sidx := rfl
@[simp] theorem Group.finishOp_residence (x : Group) (id : Nat) : (x.finishOp id).residence = x.residence := rfl
@[simp] theorem Group.finishOp_salloc (x : Group) (id : Nat) : (x.finishOp id).salloc = x.salloc := rfl
@[simp] theorem Group.finishOp_valloc (x : Group) (id : Nat) : (x.finishOp id).valloc = x.valloc := rfl
@[simp] theorem Group.finishOp_sreg (x : Group) (id : Nat) : (x.finishOp id).sreg = x.sreg := rfl
@[simp] theorem Group.finishOp_vreg (x : Group) (id : Nat) : (x.finishOp id).vreg = x.vreg := rfl
@[simp] theorem Group.finishOp_m0 (x : Group) (id : Nat) : (x.finishOp id).m0 = x.m0 := rfl
@[simp] theorem Group.finishOp_masks (x : Group) (id : Nat) : (x.finishOp id).masks = x.masks := rfl
@[simp] theorem Group.finishOp_wins (x : Group) (id : Nat) : (x.finishOp id).wins = x.wins := rfl
@[simp] theorem Group.finishOp_front (x : Group) (id : Nat) : (x.finishOp id).front = x.front := rfl
@[simp] theorem Group.finishOp_pc (x : Group) (id : Nat) : (x.finishOp id).pc = x.pc := rfl
@[simp] theorem Group.finishOp_fmt (x : Group) (id : Nat) : (x.finishOp id).fmt = x.fmt := rfl
@[simp] theorem Group.finishOp_queue (x : Group) (id : Nat) : (x.finishOp id).queue = x.queue := rfl
@[simp] theorem Group.finishOp_rstack (x : Group) (id : Nat) : (x.finishOp id).rstack = x.rstack := rfl
@[simp] theorem Group.finishOp_fflags (x : Group) (id : Nat) : (x.finishOp id).fflags = x.fflags := rfl
@[simp] theorem Group.finishOp_vmode (x : Group) (id : Nat) : (x.finishOp id).vmode = x.vmode := rfl
@[simp] theorem Group.finishOp_stklim (x : Group) (id : Nat) : (x.finishOp id).stklim = x.stklim := rfl
@[simp] theorem Group.finishOp_sigdim (x : Group) (id : Nat) : (x.finishOp id).sigdim = x.sigdim := rfl
@[simp] theorem Group.finishOp_sigdepth (x : Group) (id : Nat) : (x.finishOp id).sigdepth = x.sigdepth := rfl
@[simp] theorem Group.finishOp_blevel (x : Group) (id : Nat) : (x.finishOp id).blevel = x.blevel := rfl
@[simp] theorem Group.finishOp_blimit (x : Group) (id : Nat) : (x.finishOp id).blimit = x.blimit := rfl
@[simp] theorem Group.finishOp_pend (x : Group) (id : Nat) : (x.finishOp id).pend = x.pend := rfl
@[simp] theorem Group.finishOp_seq (x : Group) (id : Nat) : (x.finishOp id).seq = x.seq := rfl
@[simp] theorem Group.finishOp_tileNo (x : Group) (id : Nat) : (x.finishOp id).tileNo = x.tileNo := rfl
@[simp] theorem Group.finishOp_hseq (x : Group) (id : Nat) : (x.finishOp id).hseq = x.hseq := rfl
@[simp] theorem Group.finishOp_handles (x : Group) (id : Nat) : (x.finishOp id).handles = x.handles := rfl
@[simp] theorem Group.finishOp_lfsr (x : Group) (id : Nat) : (x.finishOp id).lfsr = x.lfsr := rfl
@[simp] theorem Group.finishOp_retired (x : Group) (id : Nat) : (x.finishOp id).retired = x.retired := rfl
@[simp] theorem Group.finishOp_trap (x : Group) (id : Nat) : (x.finishOp id).trap = x.trap := rfl
@[simp] theorem Group.finishOp_replay (x : Group) (id : Nat) : (x.finishOp id).replay = x.replay := rfl
@[simp] theorem Group.finishOp_unit (x : Group) (id : Nat) : (x.finishOp id).unit = x.unit := rfl
@[simp] theorem Group.finishOp_lut (x : Group) (id : Nat) : (x.finishOp id).lut = x.lut := rfl
@[simp] theorem Group.finishOp_interval (x : Group) (id : Nat) : (x.finishOp id).interval = x.interval := rfl
@[simp] theorem Group.finishOp_ordq (x : Group) (id : Nat) : (x.finishOp id).ordq = x.ordq := rfl
@[simp] theorem Group.finishOp_wait (x : Group) (id : Nat) : (x.finishOp id).wait = x.wait := rfl
@[simp] theorem Group.finishOp_age (x : Group) (id : Nat) : (x.finishOp id).age = x.age := rfl
@[simp] theorem Group.finishOp_lastIssue (x : Group) (id : Nat) : (x.finishOp id).lastIssue = x.lastIssue := rfl
@[simp] theorem Group.finishOp_deferred (x : Group) (id : Nat) : (x.finishOp id).deferred = x.deferred := rfl
@[simp] theorem Group.finishOp_verr (x : Group) (id : Nat) : (x.finishOp id).verr = x.verr := rfl
@[simp] theorem Group.finishOp_serr (x : Group) (id : Nat) : (x.finishOp id).serr = x.serr := rfl
@[simp] theorem Group.finishOp_pfWait (x : Group) (id : Nat) : (x.finishOp id).pfWait = x.pfWait := rfl
@[simp] theorem Group.finishOp_notBefore (x : Group) (id : Nat) : (x.finishOp id).notBefore = x.notBefore := rfl
@[simp] theorem Group.finishOp_dbgGo (x : Group) (id : Nat) : (x.finishOp id).dbgGo = x.dbgGo := rfl
@[simp] theorem Group.finishOp_dbgStop (x : Group) (id : Nat) : (x.finishOp id).dbgStop = x.dbgStop := rfl
@[simp] theorem Group.finishOp_atEdge (x : Group) (id : Nat) : (x.finishOp id).atEdge = x.atEdge := rfl
@[simp] theorem Group.finishOp_brkArg (x : Group) (id : Nat) : (x.finishOp id).brkArg = x.brkArg := rfl
@[simp] theorem Group.finishOp_window (x : Group) (id : Nat) : (x.finishOp id).window = x.window := rfl
@[simp] theorem Group.finishOp_vdone (x : Group) (id : Nat) : (x.finishOp id).vdone = x.vdone := rfl
@[simp] theorem Group.finishOp_locket (x : Group) (id : Nat) : (x.finishOp id).locket = x.locket := rfl
@[simp] theorem Group.finishOp_stopped (x : Group) (id : Nat) : (x.finishOp id).stopped = x.stopped := rfl
@[simp] theorem Group.finishOp_stalled (x : Group) (id : Nat) : (x.finishOp id).stalled = x.stalled := rfl
@[simp] theorem Group.finishOp_savedAt (x : Group) (id : Nat) : (x.finishOp id).savedAt = x.savedAt := rfl
@[simp] theorem Group.finishOp_declined (x : Group) (id : Nat) : (x.finishOp id).declined = x.declined := rfl
@[simp] theorem Group.finishOp_collN (x : Group) (id : Nat) : (x.finishOp id).collN = x.collN := rfl
@[simp] theorem Group.finishOp_loadNo (x : Group) (id : Nat) : (x.finishOp id).loadNo = x.loadNo := rfl
@[simp] theorem Group.finishOp_lastScalar (x : Group) (id : Nat) : (x.finishOp id).lastScalar = x.lastScalar := rfl
@[simp] theorem Group.finishOp_verrOf (x : Group) (id : Nat) : (x.finishOp id).verrOf = x.verrOf := rfl
@[simp] theorem Group.finishOp_savedGt (x : Group) (id : Nat) : (x.finishOp id).savedGt = x.savedGt := rfl
@[simp] theorem Group.finishOp_savedDie (x : Group) (id : Nat) : (x.finishOp id).savedDie = x.savedDie := rfl

/-! ## Reads after writes -/

@[simp] theorem Group.adv_pc (x : Group) : x.adv.pc = x.pc + 4#64 := rfl
@[simp] theorem Group.adv_sr (x : Group) (r : Nat) : x.adv.sr r = x.sr r := rfl
@[simp] theorem Group.adv_vr (x : Group) (k l : Nat) : x.adv.vr k l = x.vr k l := rfl
@[simp] theorem Group.adv_mask (x : Group) (k : Nat) : x.adv.mask k = x.mask k := rfl
@[simp] theorem Group.adv_win (x : Group) (k : Nat) : x.adv.win k = x.win k := rfl

/-- `s0` reads zero (R143). -/
@[simp] theorem Group.sr_zero (x : Group) : x.sr 0 = 0#64 := by simp [Group.sr]

/-- A scalar register after a write: the value written, but for `s0`, which stays zero (R143). -/
@[simp] theorem Group.setSr_sr (x : Group) (d : Nat) (v : W64) (r : Nat) :
    (x.setSr d v).sr r = if r = d ∧ d ≠ 0 then v else x.sr r := by
  by_cases h : d = 0
  · subst h; simp [Group.setSr]
  · by_cases h0 : r = 0
    · subst h0; rw [if_neg (by omega)]; simp
    · by_cases e : r = d <;> simp [Group.sr, Group.setSr, h, h0, e]

/-- A vector register entry after a write. -/
theorem Group.setVr_vr (x : Group) (k l : Nat) (v : W32) (j i : Nat) :
    (x.setVr k l v).vr j i = if 32 * j + i = 32 * k + l then v else x.vr j i := by simp [Group.vr, Group.setVr]

/-- A mask after a write; a write of `m0` is discarded (R17). -/
@[simp] theorem Group.setMask_mask (x : Group) (k : Nat) (v : W32) (j : Nat) :
    (x.setMask k v).mask j = if j = k ∧ k ≠ 0 then v else x.mask j := by
  by_cases h : k = 0
  · subst h; simp [Group.setMask]
  · by_cases h0 : j = 0
    · subst h0; rw [if_neg (by omega)]; simp [Group.mask, Group.setMask, h]
    · by_cases e : j = k <;> simp [Group.mask, Group.setMask, h, h0, e]

/-- A window after a write. -/
@[simp] theorem Group.setWin_win (x : Group) (k : Nat) (w : Window) (j : Nat) :
    (x.setWin k w).win j = if j = k then w else x.win j := by simp [Group.win, Group.setWin]

/-- A group after a put of a group. -/
@[simp] theorem State.setGrp_grp (s : State) (g : Nat) (x : Group) (k : Nat) :
    (s.setGrp g x).grp k = if k = g then x else s.grp k := by simp [State.grp]

/-- A launch after a put of a launch. -/
@[simp] theorem State.setLau_lau (s : State) (l : Nat) (x : Launch) (k : Nat) :
    (s.setLau l x).lau k = if k = l then x else s.lau k := by simp [State.lau]

/-- A context after a put of a context. -/
@[simp] theorem State.setCtx_ctx (s : State) (c : Nat) (x : Ctx) (k : Nat) :
    (s.setCtx c x).ctx k = if k = c then x else s.ctx k := by simp [State.ctx]

end Sys2Proof.Machine
end

