-- ==== Sys2Proof/Laws/Lane.lean ====
section
/-!
SUPPORT. What the shared operations of lane instructions can do: the checks every one makes, the write of the lanes, the issue
check, and taking a trap.
-/
namespace Sys2Proof.Machine

/-! ## Taking a trap and the issue check -/

/-- Everything the taking of a trap can do (R57, R396): stop the group in a live handler or without a vector, else enter the
handler. -/
theorem State.takeTrap_cases (s : State) (g : Nat) (t : TrapArgs) :
    ((s.grp g).trap.isSome = true ∧ s.takeTrap g t = s.stopGroup g cDouble t.f) ∨
    ((s.grp g).trap = none ∧ (s.kd (s.grp g)).trapv = 0xFFFFFFFF ∧ s.takeTrap g t = s.stopGroup g t.code t.f) ∨
    ((s.grp g).trap = none ∧ (s.kd (s.grp g)).trapv ≠ 0xFFFFFFFF ∧
      s.takeTrap g t = s.setGrp g ((s.grp g).enterHandler t .trap (s.kd (s.grp g)).trapv)) := by
  cases h : (s.grp g).trap with
  | some r => left; simp [State.takeTrap, h]
  | none =>
    right
    by_cases hv : (s.kd (s.grp g)).trapv = 0xFFFFFFFF
    · left; simp [State.takeTrap, h, hv]
    · right; simp [State.takeTrap, h, hv]

/-- Everything a checked issue can do (R134, R135, R98): trap, wait, or issue. -/
theorem State.checkedIssue_cases (s : State) (x : Group) (cs : Costs) (cl : OpClass) (p : Pend) (k : State) :
    s.checkedIssue x cs cl p k = s.trapGroup s.cur cVlarge ∨ s.checkedIssue x cs cl p k = s.trapGroup s.cur cVbound ∨
    s.checkedIssue x cs cl p k = s ∨
    (s.issueCheck x.ctx x.strict (s.inWindow x) cs = .ok ∧ s.room s.cur x cl p = true ∧ s.checkedIssue x cs cl p k = k) := by
  unfold State.checkedIssue
  cases h : s.issueCheck x.ctx x.strict (s.inWindow x) cs with
  | tooLarge => exact .inl rfl
  | bound => exact .inr (.inl rfl)
  | stall => exact .inr (.inr (.inl rfl))
  | ok =>
    right; right
    by_cases hc : s.room s.cur x cl p = true
    · right; exact ⟨rfl, hc, if_pos hc⟩
    · left; exact if_neg hc

/-! ## Masks of lanes -/

theorem maskSum_lt (p : Nat → Bool) (n : Nat) : (List.range n).foldl (fun a l => a + (if p l then 2 ^ l else 0)) 0 < 2 ^ n := by
  induction n with
  | zero => simp
  | succ n ih =>
    rw [List.range_succ, List.foldl_append]
    simp only [List.foldl_cons, List.foldl_nil, Nat.pow_succ]
    split <;> omega

theorem maskSum_testBit (p : Nat → Bool) (n j : Nat) :
    ((List.range n).foldl (fun a l => a + (if p l then 2 ^ l else 0)) 0).testBit j = (decide (j < n) && p j) := by
  induction n with
  | zero => simp
  | succ n ih =>
    rw [List.range_succ, List.foldl_append]
    simp only [List.foldl_cons, List.foldl_nil]
    have hlt := maskSum_lt p n
    generalize (List.range n).foldl (fun a l => a + (if p l then 2 ^ l else 0)) 0 = f at ih hlt
    rcases Nat.lt_trichotomy j n with h | h | h
    · have e : (f + if p n then 2 ^ n else 0).testBit j = f.testBit j := by
        split
        · rw [Nat.add_comm]; exact Nat.testBit_two_pow_add_gt h f
        · rw [Nat.add_zero]
      rw [e, ih]; simp [h, Nat.lt_succ_of_lt h]
    · subst h
      have hf : f.testBit j = false := Nat.testBit_lt_two_pow hlt
      cases hp : p j with
      | true => simp only [if_true]; rw [Nat.add_comm, Nat.testBit_two_pow_add_eq, hf]; simp
      | false => simp [hf]
    · have hb : f + (if p n then 2 ^ n else 0) < 2 ^ j := by
        have : 2 ^ (n + 1) ≤ 2 ^ j := Nat.pow_le_pow_right (by decide) h
        rw [Nat.pow_succ] at this; split <;> omega
      rw [Nat.testBit_lt_two_pow hb]
      have : ¬ j < n + 1 := by omega
      simp [this]

/-- A bit of the mask of the lanes that satisfy a test. -/
@[simp] theorem maskOf_getLsbD (p : Nat → Bool) (l : Nat) : (maskOf p).getLsbD l = (decide (l < 32) && p l) := by
  rw [maskOf, BitVec.getLsbD_ofNat, maskSum_testBit]
  by_cases h : l < 32 <;> simp [h]

/-- The lanes of a mask. -/
theorem mem_lanesOf (m : W32) (l : Nat) : l ∈ lanesOf m ↔ l < 32 ∧ m.getLsbD l = true := by simp [lanesOf]

/-! ## The checks of a lane instruction -/

/-- Everything a lane instruction can do before its own effect: no group, an excluded form, a register out of range, a wait, marked
sources, or its effect. -/
theorem laneGo_cases (s : State) (mk : Nat) (legal : Group → Bool) (rs ws : Group → List Nat) (ss : List Nat) (k : Group → State) (sw : List Nat) :
    (Map.find s.groups s.cur = none ∧ laneGo s mk legal rs ws ss k sw = .fault .noSuchAgent) ∨
    ∃ x, Map.find s.groups s.cur = some x ∧
      ((legal x = false ∧ laneGo s mk legal rs ws ss k sw = .next (s.laneCause x mk cIllegal)) ∨
       (legal x = true ∧ laneGo s mk legal rs ws ss k sw = .next (s.laneCause x mk cRange)) ∨
       (legal x = true ∧ laneGo s mk legal rs ws ss k sw = .next s) ∨
       (legal x = true ∧ ∃ bad, bad ≠ 0#32 ∧ laneGo s mk legal rs ws ss k sw = .next (s.consumeBad x mk bad k)) ∨
       (legal x = true ∧ laneGo s mk legal rs ws ss k sw = .next ((s.postGrp s.cur .fault 4 cData 0 6).laneCause x mk cData)) ∨
       (legal x = true ∧ laneGo s mk legal rs ws ss k sw = .next (k x))) := by
  cases hf : Map.find s.groups s.cur with
  | none => left; simp [laneGo, hf]
  | some x =>
    right
    refine ⟨x, rfl, ?_⟩
    unfold laneGo
    simp only [hf]
    cases hl : legal x with
    | false => left; simp
    | true =>
      right
      simp only [Bool.not_true, Bool.false_eq_true, if_false, true_and]
      split
      · exact .inl rfl
      · right
        split
        · exact .inl rfl
        · right
          split
          · exact .inr (.inl rfl)
          · split
            · rename_i hb; exact .inl ⟨_, hb, rfl⟩
            · exact .inr (.inr rfl)

/-- A ready lane instruction of a legal form takes its effect. -/
theorem laneGo_ready {s : State} {x : Group} {mk : Nat} {ss sw : List Nat} {legal : Group → Bool} {rs ws : Group → List Nat}
    (h : LaneReady s x mk (rs x) (ws x) ss sw) (hl : legal x = true) (k : Group → State) :
    laneGo s mk legal rs ws ss k sw = .next (k x) := by
  obtain ⟨h1, h2, h3, h4, h5, -⟩ := h
  have a1 : x.vOk (rs x ++ ws x) = true := by
    rw [Group.vOk, List.all_eq_true]; intro r hr; exact decide_eq_true (h2 r hr).1
  have a2 : x.sOk (ss ++ sw) = true := by
    rw [Group.sOk, List.all_eq_true]; intro r hr; exact decide_eq_true (h3 r hr).1
  have a3 : (rs x ++ ws x).any (fun r => x.pendV.contains r) = false := by
    rw [List.any_eq_false]; intro r hr; simpa using (h2 r hr).2
  have a4 : meets (ss ++ sw) x.pendS = false := by
    rw [meets, List.any_eq_false]; intro r hr
    by_cases h0 : r = 0
    · simp [h0]
    · simpa [h0] using (h3 r hr).2 h0
  have a5 : maskOf (fun l => (x.active mk).getLsbD l && (rs x).any (fun r => x.verr.contains (32 * r + l))) = 0#32 := by
    apply BitVec.eq_of_getLsbD_eq
    intro l hl'
    rw [maskOf_getLsbD]
    cases hm : (x.active mk).getLsbD l with
    | false => simp
    | true =>
      have : (rs x).any (fun r => x.verr.contains (32 * r + l)) = false := by
        rw [List.any_eq_false]; intro r hr; simpa using h4 r hr l hl' hm
      rw [this]; simp
  have a6 : ss.any (fun r => x.serr.contains r) = false := by
    rw [List.any_eq_false]; intro r hr; simpa using h5 r hr
  unfold laneGo
  simp only [h1, hl, a1, a2, a3, a4, a5, a6]
  rfl

/-! ## The lanes written -/

/-- The error marks after the write of a vector register. -/
theorem Group.mem_setVr_verr (x : Group) (k l : Nat) (v : W32) (j : Nat) : j ∈ (x.setVr k l v).verr ↔ j ∈ x.verr ∧ j ≠ 32 * k + l := by
  simp [Group.setVr]

/-- What the words of one lane leave: other lanes stand, and the last word of a register number is what it holds. -/
theorem Group.setWords (l : Nat) (hl : l < 32) (ws : List (Nat × W32)) :
    ∀ x : Group, (ws.map (fun w => w.1)).Nodup →
      (let y := ws.foldl (fun z kw => z.setVr kw.1 l kw.2) x
       y = { x with vreg := y.vreg, verr := y.verr } ∧
       (∀ k l', l' < 32 → y.vr k l' = if l' = l then (ws.lookup k).getD (x.vr k l') else x.vr k l') ∧
       (∀ k l', l' < 32 → (32 * k + l' ∈ y.verr ↔ 32 * k + l' ∈ x.verr ∧ ¬(l' = l ∧ ∃ w, (k, w) ∈ ws)))) := by
  induction ws with
  | nil => intro x _; refine ⟨rfl, fun k l' _ => ?_, fun k l' _ => ?_⟩ <;> simp
  | cons w t ih =>
    intro x hn
    rw [List.map_cons, List.nodup_cons] at hn
    obtain ⟨e, hv, hr⟩ := ih (x.setVr w.1 l w.2) hn.2
    refine ⟨?_, fun k l' hl' => ?_, fun k l' hl' => ?_⟩
    · rw [List.foldl_cons]; rw [e]; rfl
    · rw [List.foldl_cons, hv k l' hl', Group.setVr_vr]
      have none_of : k = w.1 → t.lookup k = none := by
        intro hk
        cases hlk : t.lookup k with
        | none => rfl
        | some v =>
          exfalso; apply hn.1
          rw [List.lookup_eq_some_iff] at hlk
          obtain ⟨l1, l2, ht, -⟩ := hlk
          rw [List.mem_map]; exact ⟨(k, v), by rw [ht]; simp, hk⟩
      by_cases h1 : l' = l
      · subst h1
        by_cases h2 : k = w.1
        · have h5 : (k == w.1) = true := by simpa using h2
          rw [none_of h2, List.lookup_cons, h5, h2]; simp
        · have h3 : ¬ (32 * k + l' = 32 * w.1 + l') := by omega
          have h4 : (k == w.1) = false := by simpa using h2
          rw [if_pos rfl, if_pos rfl, if_neg h3, List.lookup_cons, h4]
      · have h3 : ¬ (32 * k + l' = 32 * w.1 + l) := by omega
        rw [if_neg h1, if_neg h1, if_neg h3]
    · rw [List.foldl_cons, hr k l' hl', Group.mem_setVr_verr]
      constructor
      · rintro ⟨⟨h1, h2⟩, h3⟩
        refine ⟨h1, fun h => ?_⟩
        obtain ⟨h4, v, h5⟩ := h
        rw [List.mem_cons] at h5
        rcases h5 with h5 | h5
        · apply h2; rw [← h5, h4]
        · exact h3 ⟨h4, v, h5⟩
      · rintro ⟨h1, h2⟩
        refine ⟨⟨h1, fun h => h2 ⟨by omega, w.2, ?_⟩⟩, fun h => h2 ⟨h.1, ?_⟩⟩
        · have : k = w.1 := by omega
          rw [this]; exact List.mem_cons_self
        · obtain ⟨-, v, hv'⟩ := h; exact ⟨v, List.mem_cons_of_mem _ hv'⟩

/-- What one lane leaves in its group. -/
theorem Group.put_spec (x : Group) (l : Nat) (hl : l < 32) (r : LaneOut) (hn : (r.words.map (fun w => w.1)).Nodup) (hs : x.lfsr.length = 32) :
    (x.put l r) = { x with vreg := (x.put l r).vreg, verr := (x.put l r).verr, fflags := (x.put l r).fflags, lfsr := (x.put l r).lfsr } ∧
    (∀ k l', l' < 32 → (x.put l r).vr k l' = if l' = l then (r.words.lookup k).getD (x.vr k l') else x.vr k l') ∧
    (∀ k l', l' < 32 → (32 * k + l' ∈ (x.put l r).verr ↔ 32 * k + l' ∈ x.verr ∧ ¬(l' = l ∧ ∃ w, (k, w) ∈ r.words))) ∧
    (x.put l r).fflags = x.fflags ||| r.flags ∧
    (∀ l', (x.put l r).seed l' = if l' = l then r.lfsr.getD (x.seed l') else x.seed l') ∧ (x.put l r).lfsr.length = 32 := by
  obtain ⟨e, hv, hr⟩ := Group.setWords l hl r.words x hn
  generalize hy : r.words.foldl (fun z kw => z.setVr kw.1 l kw.2) x = y at e hv hr
  have hput : x.put l r = { x with vreg := y.vreg, verr := y.verr, fflags := x.fflags ||| r.flags
                                   lfsr := match r.lfsr with | some v => x.lfsr.set l v | none => x.lfsr } := by
    unfold Group.put
    rw [hy, e]
    cases r.lfsr <;> rfl
  rw [hput]
  refine ⟨rfl, hv, hr, rfl, fun l' => ?_, ?_⟩
  · cases hf : r.lfsr with
    | none => simp [Group.seed]
    | some v =>
      simp only [Group.seed, Option.getD_some]
      by_cases h : l' = l
      · subst h; simp [List.getD, hs, hl]
      · rw [if_neg h]
        have h' : l ≠ l' := fun e => h e.symm
        simp [List.getD, h']
  · cases r.lfsr <;> simp [hs]

/-- What a list of lanes leaves, each lane named once. -/
theorem Group.putList_spec (f : Nat → LaneOut) (hw : ∀ l, ((f l).words.map (fun w => w.1)).Nodup) (ls : List Nat) :
    ∀ x : Group, x.lfsr.length = 32 → ls.Nodup → (∀ l ∈ ls, l < 32) →
      (let y := (ls.map (fun l => (l, f l))).foldl (fun y lr => y.put lr.1 lr.2) x
       y = { x with vreg := y.vreg, verr := y.verr, fflags := y.fflags, lfsr := y.lfsr } ∧
       (∀ k l, l < 32 → y.vr k l = if l ∈ ls then ((f l).words.lookup k).getD (x.vr k l) else x.vr k l) ∧
       (∀ k l, l < 32 → (32 * k + l ∈ y.verr ↔ 32 * k + l ∈ x.verr ∧ ¬(l ∈ ls ∧ ∃ w, (k, w) ∈ (f l).words))) ∧
       (∀ j, y.fflags.getLsbD j = (x.fflags.getLsbD j || ls.any (fun l => (f l).flags.getLsbD j))) ∧
       (∀ l, l < 32 → y.seed l = if l ∈ ls then (f l).lfsr.getD (x.seed l) else x.seed l)) := by
  induction ls with
  | nil => intro x _ _ _; refine ⟨rfl, ?_, ?_, ?_, ?_⟩ <;> simp
  | cons a t ih =>
    intro x hs hn hb
    rw [List.nodup_cons] at hn
    obtain ⟨pe, pv, pr, pf, ps, pl⟩ := Group.put_spec x a (hb a List.mem_cons_self) (f a) (hw a) hs
    obtain ⟨e, hv, hr, hf, hq⟩ := ih (x.put a (f a)) pl hn.2 (fun l h => hb l (List.mem_cons_of_mem _ h))
    simp only [List.map_cons, List.foldl_cons]
    refine ⟨?_, fun k l h => ?_, fun k l h => ?_, fun j => ?_, fun l h => ?_⟩
    · rw [e, pe]
    · rw [hv k l h, pv k l h]
      by_cases h1 : l = a
      · subst h1; simp [hn.1]
      · simp [h1]
    · rw [hr k l h, pr k l h, List.mem_cons]
      by_cases h1 : l = a
      · subst h1; simp [hn.1]
      · simp [h1]
    · rw [hf j, pf, BitVec.getLsbD_or, List.any_cons, Bool.or_assoc]
    · rw [hq l h, ps l]
      by_cases h1 : l = a
      · subst h1; simp [hn.1]
      · simp [h1]

/-- The queue moves on whatever the lanes hold. -/
theorem Group.popLane_with (x : Group) (a : Map W32) (b : List Nat) (c : W32) (d : List W32) (e : Bool) :
    ({ x with vreg := a, verr := b, fflags := c, lfsr := d } : Group).popLane e =
      { (x.popLane e) with vreg := a, verr := b, fflags := c, lfsr := d } := by
  unfold Group.popLane
  dsimp only
  split <;> rfl

/-- THE WRITE OF THE LANES (R214): what every lane instruction that completes at issue gives, each lane's words on registers of
their own. -/
theorem givesLanes_putLanes (s : State) (x : Group) (mk : Nat) (e : Bool) (f : Nat → LaneOut)
    (hw : ∀ l, ((f l).words.map (fun w => w.1)).Nodup) (hs : x.lfsr.length = 32) :
    GivesLanes s x mk e f (.next (s.doneLane (x.putLanes (x.active mk) f) e)) := by
  have hnd : (lanesOf (x.active mk)).Nodup := List.Pairwise.filter _ List.nodup_range
  obtain ⟨he, hv, hr, hf, hq⟩ := Group.putList_spec f hw (lanesOf (x.active mk)) x hs hnd (fun l h => ((mem_lanesOf _ l).1 h).1)
  have hp : x.putLanes (x.active mk) f = ((lanesOf (x.active mk)).map (fun l => (l, f l))).foldl (fun y lr => y.put lr.1 lr.2) x := rfl
  rw [← hp] at he hv hr hf hq
  generalize x.putLanes (x.active mk) f = y at he hv hr hf hq
  have hpop : y.popLane e = { (x.popLane e) with vreg := y.vreg, verr := y.verr, fflags := y.fflags, lfsr := y.lfsr } := by
    conv => lhs; rw [he]
    exact Group.popLane_with x _ _ _ _ e
  refine ⟨y.popLane e, rfl, ?_, fun k l h => ?_, fun k l h => ?_, fun j => ?_, fun l h => ?_⟩
  · conv => lhs; rw [hpop]
    rw [hpop]
  · rw [hpop]
    show y.vr k l = _
    rw [hv k l h]; simp [mem_lanesOf, h]
  · rw [hpop]
    show (32 * k + l ∈ y.verr ↔ _)
    rw [hr k l h]; simp [mem_lanesOf, h]
  · rw [hpop]
    show y.fflags.getLsbD j = _
    rw [hf j]; simp [lanesOf, List.any_filter]
  · rw [hpop]
    show y.seed l = _
    rw [hq l h]; simp [mem_lanesOf, h]

/-- The words of an element lie in registers of their own. -/
theorem elemWords_nodup (t : Ty) (d v : Nat) : ((elemWords t d v).map (fun w => w.1)).Nodup := by
  unfold elemWords
  split
  · simp
  · split <;> simp

/-- The words of an interval lie in registers of their own. -/
theorem ivlWords_nodup (d : Nat) (a : Ivl) : ((ivlWords d a).map (fun w => w.1)).Nodup := by simp [ivlWords]

/-- The words of a rounded result lie in registers of their own. -/
theorem LaneOut.ofRounded_nodup (t : Ty) (d : Nat) (r : Rounded) (old : W32) :
    ((LaneOut.ofRounded t d r old).words.map (fun w => w.1)).Nodup := elemWords_nodup t d r.bits

/-- A bit of a destination mask after its write (R221): the active lanes' bits are new, the others stand; `m0` is not written. -/
theorem Group.putMask_bit (x : Group) (d : Nat) (m : W32) (f : Nat → Bool) (j l : Nat) (hl : l < 32) :
    ((x.putMask d m f).mask j).getLsbD l = if j = d ∧ d ≠ 0 ∧ m.getLsbD l = true then f l else (x.mask j).getLsbD l := by
  unfold Group.putMask
  rw [Group.setMask_mask]
  by_cases h : j = d ∧ d ≠ 0
  · obtain ⟨rfl, h2⟩ := h
    rw [if_pos ⟨rfl, h2⟩, BitVec.getLsbD_or, BitVec.getLsbD_and, BitVec.getLsbD_not, maskOf_getLsbD]
    cases m.getLsbD l <;> simp [hl, h2]
  · rw [if_neg h]
    have h3 : ¬(j = d ∧ d ≠ 0 ∧ m.getLsbD l = true) := fun e => h ⟨e.1, e.2.1⟩
    rw [if_neg h3]

end Sys2Proof.Machine
end

