-- ==== Sys2Proof/Laws/Memory.lean ====
section
/-!
SUPPORT. The laws of memory: a read after a write, the bytes left alone, and the canonical form, which every operation on
memory keeps.
-/
namespace Sys2Proof.Machine

@[simp] theorem getByte_setByte (m : List Host.Cell) (a : Nat) (b : Byte) (k : Nat) :
    getByte (setByte m a b) k = if k = a then b else getByte m k := Map.get_set _ _ _ _ _

/-- A byte write keeps the canonical form. -/
theorem setByte_wf {m : List Host.Cell} (h : Memory.wf m = true) (a : Nat) (b : Byte) : Memory.wf (setByte m a b) = true :=
  Map.wf_set h a b

/-- A write of bytes keeps the canonical form. -/
theorem setBytes_wf {m : List Host.Cell} (h : Memory.wf m = true) (a : Nat) (bs : List Byte) : Memory.wf (setBytes m a bs) = true := by
  induction bs generalizing m a with
  | nil => exact h
  | cons b t ih => exact ih (setByte_wf h a b) (a + 1)

/-- A write of a number keeps the canonical form. -/
theorem setLE_wf {m : List Host.Cell} (h : Memory.wf m = true) (a n x : Nat) : Memory.wf (setLE m a n x) = true := setBytes_wf h a _

/-- A byte after a write of bytes: the byte written there, or what stood there. -/
theorem getByte_setBytes (m : List Host.Cell) (a : Nat) (bs : List Byte) (k : Nat) :
    getByte (setBytes m a bs) k = if h : a ≤ k ∧ k < a + bs.length then bs[k - a]'(by omega) else getByte m k := by
  induction bs generalizing m a with
  | nil => rw [dif_neg (by simp)]; rfl
  | cons b t ih =>
    simp only [setBytes]
    rw [ih]
    by_cases h1 : a + 1 ≤ k ∧ k < a + 1 + t.length
    · rw [dif_pos h1, dif_pos (by simp; omega)]
      have e : k - a = (k - (a + 1)) + 1 := by omega
      simp [e]
    · rw [dif_neg h1, getByte_setByte]
      by_cases h2 : k = a
      · subst h2; rw [if_pos rfl, dif_pos (by simp)]; simp
      · rw [if_neg h2, dif_neg (by simp; omega)]

/-- The bytes outside a write stand. -/
theorem getByte_setBytes_other (m : List Host.Cell) (a : Nat) (bs : List Byte) (k : Nat) (h : k < a ∨ a + bs.length ≤ k) :
    getByte (setBytes m a bs) k = getByte m k := by
  rw [getByte_setBytes, dif_neg (by omega)]

/-- The bytes written are the bytes read. -/
theorem getBytes_setBytes (m : List Host.Cell) (a : Nat) (bs : List Byte) : getBytes (setBytes m a bs) a bs.length = bs := by
  have go : ∀ (n : Nat) (m : List Host.Cell) (o : Nat), o + n = bs.length → getBytes (setBytes m a bs) (a + o) n = bs.drop o := by
    intro n
    induction n with
    | zero => intro m o h; simp [getBytes]; omega
    | succ n ih =>
      intro m o h
      have ho : o < bs.length := by omega
      rw [getBytes, getByte_setBytes, dif_pos (by omega), Nat.add_assoc, ih m (o + 1) (by omega), List.drop_eq_getElem_cons ho]
      simp
  simpa using go bs.length m 0 (by omega)

theorem leNat_leBytes (n x : Nat) : leNat (leBytes n x) = x % 2 ^ (8 * n) := by
  induction n generalizing x with
  | zero => simp [leBytes, leNat, Nat.mod_one]
  | succ n ih =>
    simp only [leBytes, leNat, ih]
    have e : (2 : Nat) ^ (8 * (n + 1)) = 256 * 2 ^ (8 * n) := by rw [Nat.mul_add, Nat.pow_add]; omega
    rw [e, Nat.mod_mul]
    simp [BitVec.toNat_ofNat]

@[simp] theorem length_leBytes (n x : Nat) : (leBytes n x).length = n := by
  induction n generalizing x with
  | zero => rfl
  | succ n ih => simp [leBytes, ih]

/-- A number written is the number read, cut to its bytes. -/
theorem getLE_setLE (m : List Host.Cell) (a n x : Nat) : getLE (setLE m a n x) a n = x % 2 ^ (8 * n) := by
  have h := getBytes_setBytes m a (leBytes n x)
  rw [length_leBytes] at h
  rw [getLE, setLE, h, leNat_leBytes]

/-- The memory at reset, which lists nothing, is in canonical form. -/
theorem reset_mem_wf : State.reset.MemWf := ⟨rfl, rfl⟩

/-- A write to the device's memory keeps the canonical form. -/
theorem State.writeMem_memWf {s : State} (h : s.MemWf) (pa : Nat) (bs : List Byte) : (s.writeMem pa bs).MemWf := by
  refine ⟨?_, ?_⟩
  · have e : (s.writeMem pa bs).mem = setBytes s.mem pa bs := rfl
    rw [e]; exact setBytes_wf h.1 pa bs
  · have e : (s.writeMem pa bs).peerMem = s.peerMem := rfl
    rw [e]; exact h.2

end Sys2Proof.Machine
end

