-- ==== Sys2Proof/Laws/Page.lean ====
section
/-!
SUPPORT. A page table walk sees only the page number, so that a read within one page takes one walk.
-/
namespace Sys2Proof.Machine

open Sys2Proof

/-- A walk depends on the page number alone (R374). -/
theorem walkFrom_page (m : List Host.Cell) {a b : Nat} (h : a / 65536 = b / 65536) (level table : Nat) : walkFrom m a level table = walkFrom m b level table := by
  have e : ∀ k, 16 ≤ k → a / 2 ^ k = b / 2 ^ k := by
    intro k hk
    obtain ⟨j, rfl⟩ : ∃ j, k = 16 + j := ⟨k - 16, by omega⟩
    have h' : a / 2 ^ 16 = b / 2 ^ 16 := h
    rw [Nat.pow_add, ← Nat.div_div_eq_div_mul, ← Nat.div_div_eq_div_mul, h']
  induction level generalizing table with
  | zero =>
    have h0 : bits a 20 16 = bits b 20 16 := by unfold bits; rw [e 16 (by omega)]
    unfold walkFrom; rw [h0]
  | succ n ih =>
    unfold walkFrom; rw [e (21 + 9 * n) (by omega)]
    simp only [ih]

/-- A context's walk depends on the page number alone. -/
theorem State.walk_page (s : State) (c va : Nat) : s.walk c (va % 2 ^ 57) = s.walk c (va / 65536 * 65536 % 2 ^ 57) := by
  have e : va % 2 ^ 57 / 65536 = va / 65536 * 65536 % 2 ^ 57 / 65536 := by omega
  have e48 : va % 2 ^ 57 / 2 ^ 48 = va / 65536 * 65536 % 2 ^ 57 / 2 ^ 48 := by omega
  unfold State.walk
  rw [e48, walkFrom_page s.mem e 4]

/-- The place of a byte in its frame: that of its page's base, plus its offset (R374). -/
theorem leafPa_page (l : Leaf) (va : Nat) : leafPa l (va % 2 ^ 57) = leafPa l (va / 65536 * 65536 % 2 ^ 57) + va % 65536 := by
  simp only [leafPa, pageSize]
  cases l.large <;> simp <;> omega

/-- With no page in motion a byte is where its leaf says. -/
theorem State.leafHome_still (s : State) (c va : Nat) (l : Leaf) (h : s.moves = []) : s.leafHome c va l = leafPa l va := by
  simp [State.leafHome, h, homeOf]

/-- The physical address of a byte: that of its page's base, plus its offset (R374). -/
theorem State.ctxPa_page (s : State) (c va : Nat) (h : s.moves = []) :
    s.ctxPa c va = (s.ctxPa c (va / 65536 * 65536)).map (fun pa => pa + va % 65536) := by
  simp only [State.ctxPa, s.walk_page c va, h, homeOf]
  cases s.walk c (va / 65536 * 65536 % 2 ^ 57) with
  | leaf l =>
    have e := leafPa_page l va
    simp only [Nat.reducePow] at e
    simp [e]
  | absent => rfl
  | malformed => rfl

/-- A read by one walk where the bytes lie in one page, of the device or of a peer. -/
def State.pageRead (s : State) (c va n : Nat) : Nat :=
  match s.walk c (va / 65536 * 65536 % 2 ^ 57) with
  | .leaf l => getLE (if leafType l.bits = 4 then s.peerMem else s.mem) (leafPa l (va / 65536 * 65536 % 2 ^ 57) + va % 65536) n
  | _ => 0

/-- A read within one page takes its bytes from the page's frame. -/
theorem State.vRead_page (s : State) (c va n : Nat) (h : s.moves = []) (hn : va % 65536 + n ≤ 65536) : s.vRead c va n = s.pageRead c va n := by
  induction n generalizing va with
  | zero => simp only [State.vRead, State.pageRead]; cases s.walk c (va / 65536 * 65536 % 2 ^ 57) <;> rfl
  | succ n ih =>
    have eb : s.vByte c va = match s.walk c (va / 65536 * 65536 % 2 ^ 57) with
        | .leaf l => getByte (if leafType l.bits = 4 then s.peerMem else s.mem) (leafPa l (va / 65536 * 65536 % 2 ^ 57) + va % 65536)
        | _ => 0#8 := by
      simp only [State.vByte, s.walk_page c va]
      cases s.walk c (va / 65536 * 65536 % 2 ^ 57) with
      | leaf l =>
        have hh : s.leafHome c (va % 2 ^ 57) l = leafPa l (va % 2 ^ 57) := s.leafHome_still c _ l h
        simp only [hh, leafPa_page l va]; split <;> rfl
      | absent => rfl
      | malformed => rfl
    rw [State.vRead, eb]
    by_cases hl : n = 0
    · subst hl
      simp only [State.vRead, State.pageRead]
      cases s.walk c (va / 65536 * 65536 % 2 ^ 57) <;> simp [getLE, getBytes, leNat]
    · have hd : (va + 1) / 65536 = va / 65536 := by omega
      have hm : (va + 1) % 65536 = va % 65536 + 1 := by omega
      rw [ih (va + 1) (by omega)]
      simp only [State.pageRead, hd, hm]
      cases s.walk c (va / 65536 * 65536 % 2 ^ 57) <;> simp [getLE, getBytes, leNat, Nat.add_assoc]

/-- Bytes of one page are mapped together. -/
theorem State.vMapped_page (s : State) (c va n : Nat) (h : s.moves = []) (hn : va % 65536 + n ≤ 65536) (h0 : 0 < n) :
    s.vMapped c va n = (s.ctxPa c (va / 65536 * 65536)).isSome := by
  induction n generalizing va with
  | zero => omega
  | succ n ih =>
    have e := s.ctxPa_page c va h
    rw [State.vMapped, e]
    by_cases hl : n = 0
    · subst hl; simp [State.vMapped]
    · have hd : (va + 1) / 65536 = va / 65536 := by omega
      rw [ih (va + 1) (by omega) (by omega), hd]
      cases s.ctxPa c (va / 65536 * 65536) <;> rfl

end Sys2Proof.Machine
end

