-- ==== Sys2Proof/Laws/Scalar.lean ====
section
/-!
SUPPORT. What the shared operations of scalar instructions can do: the checks every one makes, and the write of a register.
-/
namespace Sys2Proof.Machine

/-- A ready scalar instruction takes its effect. -/
theorem scalarGo_ready {s : State} {x : Group} {rs ws ms : List Nat} (h : ScalarReady s x rs ws ms) (k : Group → State) :
    scalarGo s rs ws ms k = .next (k x) := by
  obtain ⟨h1, h2, h3, h4⟩ := h
  simp only [scalarGo, h1, h2, h3, h4]; rfl

/-- Everything a scalar instruction can do: it is no instruction of a group, takes the register-range trap, waits, raises a
marked source, or takes its effect. -/
theorem scalarGo_cases (s : State) (rs ws ms : List Nat) (k : Group → State) :
    (Map.find s.groups s.cur = none ∧ scalarGo s rs ws ms k = .fault .noSuchAgent) ∨
    ∃ x, Map.find s.groups s.cur = some x ∧
      ((x.sOk (rs ++ ws) = false ∧ scalarGo s rs ws ms k = .next (s.trapGroup s.cur cRange)) ∨
       (x.sOk (rs ++ ws) = true ∧ s.scoreWaits x rs ws ms = true ∧ scalarGo s rs ws ms k = .next s) ∨
       (x.sOk (rs ++ ws) = true ∧ s.scoreWaits x rs ws ms = false ∧ rs.any (fun r => x.serr.contains r) = true ∧
         scalarGo s rs ws ms k = .next (s.trapData (0, 6))) ∨
       (ScalarReady s x rs ws ms ∧ scalarGo s rs ws ms k = .next (k x))) := by
  cases hf : Map.find s.groups s.cur with
  | none => left; simp [scalarGo, hf]
  | some x =>
    right
    refine ⟨x, rfl, ?_⟩
    cases h1 : x.sOk (rs ++ ws) with
    | false => left; simp [scalarGo, hf, h1]
    | true =>
      right
      cases h2 : s.scoreWaits x rs ws ms with
      | true => left; simp [scalarGo, hf, h1, h2]
      | false =>
        right
        cases h3 : rs.any (fun r => x.serr.contains r) with
        | true => left; exact ⟨rfl, rfl, rfl, by simp only [scalarGo, hf, h1, h2, h3]; rfl⟩
        | false => right; exact ⟨⟨hf, h1, h2, h3⟩, scalarGo_ready ⟨hf, h1, h2, h3⟩ k⟩

/-- A scalar instruction that finds its group never stops the machine. -/
theorem scalarGo_next {s : State} {x : Group} (h : Map.find s.groups s.cur = some x) (rs ws ms : List Nat) (k : Group → State) :
    ∃ t, scalarGo s rs ws ms k = .next t := by
  rcases scalarGo_cases s rs ws ms k with ⟨h1, -⟩ | ⟨y, -, ⟨-, e⟩ | ⟨-, -, e⟩ | ⟨-, -, -, e⟩ | ⟨-, e⟩⟩
  · rw [h] at h1; cases h1
  all_goals exact ⟨_, e⟩

/-- The error marks after a register write. -/
theorem Group.mem_setSr_serr (x : Group) (d : Nat) (v : W64) (r : Nat) : r ∈ (x.setSr d v).serr ↔ r ∈ x.serr ∧ ¬(r = d ∧ d ≠ 0) := by
  by_cases h : d = 0
  · subst h; simp [Group.setSr]
  · simp only [Group.setSr, h, if_false, List.mem_filter, bne_iff_ne, ne_eq, not_false_eq_true, and_true]

/-- A group after a register write, its `pc` set. -/
theorem Group.setSr_shape (x : Group) (d : Nat) (v p : W64) :
    { x.setSr d v with pc := p } = { x with sreg := (x.setSr d v).sreg, serr := (x.setSr d v).serr, pc := p } := by
  by_cases h : d = 0 <;> simp [Group.setSr, h]

/-- The write of one register, with a new `pc`. -/
theorem givesRegAt_set (s : State) (x : Group) (d : Nat) (v p : W64) :
    GivesRegAt s x d v p (.next (s.setGrp s.cur { x.setSr d v with pc := p })) := by
  refine ⟨{ x.setSr d v with pc := p }, rfl, ?_, fun r => ?_, fun r => ?_⟩
  · exact Group.setSr_shape x d v p
  · exact Group.setSr_sr x d v r
  · exact Group.mem_setSr_serr x d v r

/-- The write of one register, and the next instruction. -/
theorem givesReg_writeS (s : State) (x : Group) (d : Nat) (v : W64) : GivesReg s x d v (.next (s.writeS x d v)) := by
  have e : (x.setSr d v).adv = { x.setSr d v with pc := x.pc + 4#64 } := by
    have := Group.setSr_pc x d v
    simp only [Group.adv, this]
  unfold State.writeS
  rw [e]
  exact givesRegAt_set s x d v (x.pc + 4#64)

/-- A ready register instruction writes its register. -/
theorem scalarGo_writeS {s : State} {x : Group} {rs ws ms : List Nat} (h : ScalarReady s x rs ws ms) (d : Nat) (f : Group → W64) :
    GivesReg s x d (f x) (scalarGo s rs ws ms (fun y => s.writeS y d (f y))) := by
  rw [scalarGo_ready h]; exact givesReg_writeS s x d (f x)

end Sys2Proof.Machine
end

