-- ==== Sys2Proof/Tests/Slice0.lean ====
section
/-!
SUPPORT. Tests: words of the encoding tables, ill-formed terms, single steps, and for every statement of
Sys2Proof/Certificates/Slice0/Obligations.lean states and operands that meet its hypotheses.
-/
namespace Sys2Proof.Tests
open Sys2Proof Sys2Proof.Machine

-- The checks below are made one after another: side by side each takes a thread and a stack of its own.
set_option Elab.async false
-- Conjunctions of many parts are decided at once.
set_option synthInstance.maxSize 4000
set_option synthInstance.maxHeartbeats 400000

/-! ## Helper states

One group of one block of one launch on context 0 of a device that is up. A page of 64 KiB at virtual address 0x10000 holds its code: scalar words of zeros, and at the lane base one `vadd` with E. -/

/-- The descriptor: code, constants of two entries, a trap handler, 64 words of private memory, scratch of 2 KiB. -/
def kd0 : KDesc :=
  { sbase := 0x10000, ssize := 0x8000, lbase := 0x18000, lsize := 0x7000, cbase := 0x1F000, csize := 2, trapv := 0x100, priv := 64, scr := 2, rgn := 16 }
/-- The launch. -/
def l0 : Launch := { phase := .running, b := 1, ncores := 1, pb := 0x1F800, places := [(0, 0)], kd := kd0, ctab := [0#64, 5#64], units := [(1, {})], lid := 3 }
/-- The context. -/
def c0 : Ctx := { en := true, st := .running, ptroot := 0x10000001000#64, part := 1#1440, floors := [(0, 640#64), (1, 64#64), (4, 64#64)] }
/-- Its memory: page tables with a malformed leaf at 0x30000 and a page at 0x40000 that nothing may touch; the lane word. -/
def mem0 : List Host.Cell :=
  [(0x10000001001, 0x20#8), (0x10000001005, 0x01#8), (0x10000001007, 0x80#8), (0x10000002001, 0x30#8), (0x10000002005, 0x01#8), (0x10000002007, 0x80#8), (0x10000003001, 0x40#8), (0x10000003005, 0x01#8), (0x10000003007, 0x80#8), 
   (0x10000004001, 0x50#8), (0x10000004005, 0x01#8), (0x10000004007, 0x80#8), (0x10000005008, 0x01#8), (0x1000000500A, 0x02#8), (0x1000000500D, 0x01#8), (0x1000000500F, 0xC7#8), (0x1000000501F, 0xC0#8), (0x10000005020, 0x01#8), (0x10000005022, 0x03#8), (0x10000005025, 0x01#8), (0x10000005027, 0xC0#8), (0x10000028000, 0x01#8)]
theorem mem0_eq : mem0 = setLE (setLE (setLE (fetchTables []) (2 ^ 40 + 0x5018) 8 (2 ^ 63 + 2 ^ 62)) (2 ^ 40 + 0x5020) 8 (2 ^ 63 + 2 ^ 62 + 2 ^ 40 + 0x30000 + 1)) (2 ^ 40 + 0x28000) 12 1 := by decide +kernel
/-- A device with tables of contexts, launches and groups. -/
def dev (c : Ctx) (l : Launch) (x : Group) : State :=
  { State.reset with
    boot := 6, mem := mem0, ctxs := [(0, c)], launches := [(1, l)], blocks := [(1, { launch := 1, bases := [0] })], groups := [(1, x)], cur := 1, clock := 1 }
/-- The device with the plain context and launch. -/
def st (x : Group) : State := dev c0 l0 x
/-- A group with some registers. -/
def g0 : Group := { launch := 1, block := 1, stklim := 64, sreg := [(5, 7#64), (6, 3#64)] }
/-- A lane block of the whole mask. -/
def b0 : LaneBlock := { mask := 0xFFFFFFFF#32, fmt := 0x08840000#32 }


/-- Reads that take one walk where the bytes lie in one page. -/
def fastRead (s : State) (c va n : Nat) : Nat := if s.moves = [] ∧ va % 65536 + n ≤ 65536 then s.pageRead c va n else s.vRead c va n
def fastMapped (s : State) (c va n : Nat) : Bool := if s.moves = [] ∧ va % 65536 + n ≤ 65536 ∧ 0 < n then (s.ctxPa c (va / 65536 * 65536)).isSome else s.vMapped c va n

theorem vRead_fast (s : State) (c va n : Nat) : s.vRead c va n = fastRead s c va n := by
  unfold fastRead; split
  · rename_i h; exact s.vRead_page c va n h.1 h.2
  · rfl

theorem vMapped_fast (s : State) (c va n : Nat) : s.vMapped c va n = fastMapped s c va n := by
  unfold fastMapped; split
  · rename_i h; exact s.vMapped_page c va n h.1 h.2.1 h.2.2
  · rfl

/-- The leaves of a page table, skipping entries where memory lists nothing. -/
def fastLeaves (m : List Host.Cell) (va : Nat) : Nat → Nat → List (Nat × Leaf)
  | 0, table => leavesFrom m va 0 table
  | level + 1, table =>
    let cs := m.filter (fun c => decide (table ≤ c.1) && decide (c.1 < table + 4096))
    (List.range (if level = 3 then 510 else 512)).flatMap (fun i =>
      let a := table + 8 * i
      if cs.any (fun c => decide (a ≤ c.1) && decide (c.1 < a + 8)) then
        let w := BitVec.ofNat 64 (getLE m a 8)
        let v := va + 2 ^ (21 + 9 * level) * i
        if w.getLsbD 63 = false then []
        else if w.getLsbD 62 then (if level = 0 ∧ leafOk w true = true then [(v, ⟨w, a, true⟩)] else [])
        else if tableOk w level then fastLeaves m v level (bits w.toNat 51 8 * 256)
        else []
      else [])

theorem getByte_absent (m : List Host.Cell) (a : Nat) (h : ∀ c ∈ m, c.1 ≠ a) : getByte m a = 0#8 := by
  induction m with
  | nil => rfl
  | cons c t ih =>
    have h1 : a ≠ c.1 := fun e => h c (List.mem_cons_self ..) e.symm
    show (if a = c.1 then c.2 else Map.get memDefault t a) = 0#8
    rw [if_neg h1]; exact ih (fun d hd => h d (List.mem_cons_of_mem _ hd))

theorem getLE_absent (m : List Host.Cell) (a n : Nat) (h : ∀ c ∈ m, ¬(a ≤ c.1 ∧ c.1 < a + n)) : getLE m a n = 0 := by
  induction n generalizing a with
  | zero => rfl
  | succ n ih =>
    have h0 := getByte_absent m a (fun c hc e => h c hc ⟨by omega, by omega⟩)
    have h1 := ih (a + 1) (fun c hc e => h c hc ⟨by omega, by omega⟩)
    simp only [getLE, getBytes, leNat] at h1 ⊢
    rw [h0, h1]; rfl

theorem leavesFrom_fast (m : List Host.Cell) (level : Nat) : ∀ va table, leavesFrom m va level table = fastLeaves m va level table := by
  induction level with
  | zero => intro va table; rfl
  | succ n ih =>
    intro va table
    unfold leavesFrom fastLeaves
    dsimp only
    rw [List.flatMap_def, List.flatMap_def]
    congr 1
    refine List.map_congr_left (fun i hi => ?_)
    have hi' : i < 512 := by have := List.mem_range.1 hi; split at this <;> omega
    simp only [ih]
    by_cases h1 : ((m.filter (fun c => decide (table ≤ c.1) && decide (c.1 < table + 4096))).any (fun c => decide (table + 8 * i ≤ c.1) && decide (c.1 < table + 8 * i + 8))) = true
    · rw [if_pos h1]
    · rw [if_neg h1]
      have : getLE m (table + 8 * i) 8 = 0 := getLE_absent m _ 8 (fun c hc hr => h1 (by
        rw [List.any_eq_true]
        refine ⟨c, List.mem_filter.2 ⟨hc, ?_⟩, ?_⟩
        · simp only [Bool.and_eq_true, decide_eq_true_eq]; omega
        · simp only [Bool.and_eq_true, decide_eq_true_eq]; exact hr))
      rw [this]; rfl

/-! ## Witnesses: the hypotheses of the statements can be met -/

theorem witness_scalarResults : ScalarReady (st g0) g0 [5, 6] [4] [] ∧ ScalarReady (st g0) g0 [4, 5] [4] [] ∧ ScalarReady (st g0) g0 [63, 5] [63] [] ∧
    ScalarReady (st g0) g0 [0, 5] [0] [] ∧ ScalarReady (st g0) g0 [5] [4] [] ∧ ScalarReady (st g0) g0 [4, 5, 6] [4] [] ∧ ScalarReady (st g0) g0 [] [4] [] ∧
    ScalarReady (st g0) g0 [4] [4] [] ∧ ScalarReady (st g0) g0 [] [] [] ∧ 3 < 4 ∧ 65535 < 65536 := by
  unfold ScalarReady; decide +kernel

/-- A group whose registers hold the operands of the division corners. -/
def gDiv : Group := { g0 with sreg := [(5, 0x8000000000000000#64), (6, 0xFFFFFFFFFFFFFFFF#64)] }

theorem witness_divisionNeverTraps : ScalarReady (st gDiv) gDiv [5, 6] [4] [] ∧ gDiv.sr 5 = 0x8000000000000000#64 ∧ gDiv.sr 6 = 0xFFFFFFFFFFFFFFFF#64 ∧
    ScalarReady (st gDiv) gDiv [5, 6] [5] [] ∧ ScalarReady (st gDiv) gDiv [5, 7] [4] [] ∧ gDiv.sr 7 = 0#64 ∧ ScalarReady (st gDiv) gDiv [5, 7] [5] [] := by
  unfold ScalarReady; decide +kernel

/-- A group with a marked register, and one with a load in flight that will write s5. -/
def gBad : Group := { g0 with serr := [5] }
/-- The load is its only operation. -/
def gLoad : Group := { g0 with pend := [{ id := 1, cls := some .l, dest := .sreg 5 false, parts := [{ va := 0x10000, place := .phys 0x10000020000 0x10000 0 1, size := 8 }] }] }

theorem witness_registerAndBranchInstructions : (2 ^ 26 - 1 < 2 ^ 26 ∧ ScalarReady (st g0) g0 [] [1] [] ∧ ScalarReady (st g0) g0 [1] [] [] ∧ ScalarReady (st g0) g0 [5] [] [] ∧
    ScalarReady (st g0) g0 [0] [] [] ∧ 2 ^ 16 - 1 < 2 ^ 16) ∧
    (Map.find (st g0).groups (st g0).cur = some g0 ∧ g0.sOk ([64, 6] ++ [4]) = false ∧ g0.sOk ([63, 6] ++ [4]) = true) ∧
    (gLoad.sOk ([5, 6] ++ [4]) = true ∧ (st gLoad).scoreWaits gLoad [5, 6] [4] [] = true) ∧
    (gBad.sOk ([5, 6] ++ [4]) = true ∧ (st gBad).scoreWaits gBad [5, 6] [4] [] = false ∧ 5 ∈ gBad.serr) := by
  unfold ScalarReady; decide +kernel

/-- A frontier table with entries, the rest of the 16 free. -/
def frontOf (es : List FEntry) : List FEntry := es ++ List.replicate (16 - es.length) { kind := .free }
/-- A group at pc 4 n with half its lanes, masks m1 to m4, and a frontier table. -/
def gF (n : Nat) (fs : List FEntry) : Group :=
  { g0 with m0 := 0xFFFF#32, masks := [(1, 0xFF#32), (2, 0xFFFF#32), (3, 0x10000#32), (4, 0xFFFFFFFF#32)], pc := BitVec.ofNat 64 (4 * n), front := fs }
/-- A full table of paths that wait at addresses 100, 101, … -/
def fullFront : List FEntry := (List.range 16).map (fun i => { kind := .ordinary, mask := 0x10000#32, addr := 100 + i })
/-- One path that waits at an address. -/
def waitAt (a : Nat) : List FEntry := frontOf [{ kind := .ordinary, mask := 0x10000#32, addr := a }]

/-- A free entry. -/
def noPath : FEntry := { kind := .free }

/-- No two ordinary paths wait at one address, as a check of the table. -/
def apart (fs : List FEntry) : Bool :=
  (List.range fs.length).all (fun i => (List.range fs.length).all (fun j =>
    !((fs.getD i noPath).kind == .ordinary && (fs.getD j noPath).kind == .ordinary &&
      (fs.getD i noPath).addr == (fs.getD j noPath).addr) || i == j))

theorem pathsApart_of (x : Group) (h : apart x.front = true) : x.pathsApart := by
  intro i j e f he hf hk hl ha
  have hi : i < x.front.length := (List.getElem?_eq_some_iff.mp he).1
  have hj : j < x.front.length := (List.getElem?_eq_some_iff.mp hf).1
  have h1 := List.all_eq_true.mp (List.all_eq_true.mp h i (List.mem_range.mpr hi)) j (List.mem_range.mpr hj)
  simpa [List.getD_eq_getElem?_getD, he, hf, hk, hl, ha] using h1

/-- The i-th entry is the lowest of those that satisfy a test, as a check of the table. -/
def lowestOk (x : Group) (i : Nat) (e : FEntry) (p : FEntry → Bool) : Bool :=
  x.front[i]? == some e && x.eligible e && p e &&
  (List.range x.front.length).all (fun j => match x.front[j]? with | some f => !(x.eligible f && p f) || j == i || decide (e.addr < f.addr) | none => true)

theorem lowest_of (x : Group) (i : Nat) (e : FEntry) (p : FEntry → Bool) (h : lowestOk x i e p = true) : x.lowest i e p := by
  simp only [lowestOk, Bool.and_eq_true, beq_iff_eq] at h
  refine ⟨h.1.1.1, h.1.1.2, h.1.2, fun j f hf he hp hj => ?_⟩
  have h1 := List.all_eq_true.mp h.2 j (List.mem_range.mpr (List.getElem?_eq_some_iff.mp hf).1)
  simpa [hf, he, hp, hj] using h1

theorem witness_frontierInstructions_split : 65535 < 2 ^ 16 ∧ (let x := gF 8 (frontOf []); let taken (k : Nat) := x.m0 &&& x.mask k; let fall (k : Nat) := x.m0 &&& ~~~(x.mask k);
    (ScalarReady (st x) x [] [] [3] ∧ taken 3 = 0#32) ∧ (ScalarReady (st x) x [] [] [2] ∧ taken 2 ≠ 0#32 ∧ fall 2 = 0#32 ∧ branchTo x 2 ≠ x.pc + 4#64) ∧
    (branchTo x 1 = x.pc + 4#64) ∧ (ScalarReady (st x) x [] [] [1] ∧ taken 1 ≠ 0#32 ∧ fall 1 ≠ 0#32 ∧ branchTo x 2 ≠ x.pc + 4#64 ∧ x.roomFor 10 = true ∧ (branchTo x 2).toNat / 4 = 10) ∧
    (branchTo x 65535 ≠ x.pc + 4#64 ∧ (x.pc.toNat : Int) + 4 * (BitVec.ofNat 16 65535).toInt < ((x.pc + 4#64).toNat : Int) ∧ x.roomFor 9 = true)) ∧
    (branchTo (gF 0 (frontOf [])) 65535 = 0xFFFFFFFFFFFFFFFC#64 ∧ (0 : Int) + 4 * (BitVec.ofNat 16 65535).toInt < 4) ∧
    (let x := gF 8 fullFront; ScalarReady (st x) x [] [] [1] ∧ x.roomFor 10 = false) := by
  unfold ScalarReady; decide +kernel

theorem witness_frontierInstructions_fent : (gF 8 (waitAt 8)).pathsApart ∧ (gF 8 (waitAt 7)).pathsApart ∧ (gF 120 fullFront).pathsApart ∧
    (let x := gF 8 (waitAt 8); ScalarReady (st x) x [] [] [] ∧ x.pc.toNat % 4 = 0 ∧ x.pc.toNat < 2 ^ 34 ∧ (∀ e ∈ x.front, x.eligible e = true → 8 ≤ e.addr) ∧ (x.pathAt 8) ≠ 0#32) ∧
    (let x := gF 8 (waitAt 7); ScalarReady (st x) x [] [] [] ∧ x.roomFor 8 = true) ∧
    (let x := gF 120 fullFront; ScalarReady (st x) x [] [] [] ∧ x.roomFor 120 = false) :=
  ⟨pathsApart_of _ (by decide +kernel), pathsApart_of _ (by decide +kernel), pathsApart_of _ (by decide +kernel), by unfold ScalarReady; decide +kernel⟩

theorem witness_frontierInstructions_lowest : ((gF 8 (waitAt 7)).lowest 0 { kind := .ordinary, mask := 0x10000#32, addr := 7 } (fun f => decide (f.addr < 8))) ∧
    ((gF 120 fullFront).lowest 0 { kind := .ordinary, mask := 0x10000#32, addr := 100 } (fun f => decide (f.addr < 120))) ∧
    ((gF 8 (waitAt 8)).lowest 0 { kind := .ordinary, mask := 0x10000#32, addr := 8 } (fun f => f.addr != 9)) :=
  ⟨lowest_of _ _ _ _ (by decide +kernel), lowest_of _ _ _ _ (by decide +kernel), lowest_of _ _ _ _ (by decide +kernel)⟩

theorem witness_frontierInstructions_fnext : (gF 8 (frontOf [])).pathsApart ∧
    (let x := gF 8 (frontOf []); ScalarReady (st x) x [] [] [] ∧ x.pc.toNat % 4 = 0 ∧ x.pc.toNat < 2 ^ 34 ∧ x.roomFor 9 = true ∧ ∀ e ∈ x.front, x.eligible e = true → e.addr = 9) ∧
    (let x := gF 8 (waitAt 8); ScalarReady (st x) x [] [] [] ∧ x.roomFor 9 = true) ∧ (let x := gF 120 fullFront; x.roomFor 121 = false) :=
  ⟨pathsApart_of _ (by decide +kernel), by unfold ScalarReady; decide +kernel⟩

/-- A `vcmp` that writes mask 1, last of its block. -/
def iCmp : Instr := .vcmp ⟨1, 0, 0, 0, 0, .n32, 0, 0, 0, 0, false, true⟩

theorem witness_fanyCounts : ScalarReady (st (gF 8 (frontOf []))) (gF 8 (frontOf [])) [] [4] [1] ∧ ScalarReady (st (gF 8 (frontOf []))) (gF 8 (frontOf [])) [] [4] [3] ∧
    (let x := { g0 with queue := [b0] }
     let s := { st x with mem := setLE mem0 (2 ^ 40 + 0x28000) 12 (encode iCmp) }
     Map.find s.groups s.cur = some x ∧ x.sOk [4] = true ∧ x.queue ≠ [] ∧ iCmp ∈ s.queued x ∧ 1 ∈ (laneUse iCmp).masks) := by
  unfold ScalarReady; decide +kernel

/-- A table with a join wait at an address, for lanes that m4 names and, at most, lanes 8 to 15. -/
def joinAt (a : Nat) (jset : W32) : List FEntry := frontOf [{ kind := .joinWait, mask := 0xFFFF0000#32, jset := jset, addr := a, sd := 4, tleft := 16 }]

theorem witness_pathsJoinAndEnd_fjoin :
    (let x := gF 8 (frontOf []); ScalarReady (st x) x [] [4] [2] ∧ x.pc.toNat % 4 = 0 ∧ x.pc.toNat < 2 ^ 34 ∧ (∀ e ∈ x.front, e.kind = .joinWait → e.addr ≠ 8) ∧
      (∃ e ∈ x.front, e.kind = .free) ∧ x.mask 2 &&& ~~~(x.m0 ||| x.retired) = 0#32 ∧ ScalarReady (st x) x [] [4] [4] ∧ x.mask 4 &&& ~~~(x.m0 ||| x.retired) ≠ 0#32 ∧
      ∀ e ∈ x.front, x.eligible e = false) ∧
    (let x := gF 8 fullFront; ScalarReady (st x) x [] [4] [2] ∧ (∀ e ∈ x.front, e.kind = .joinWait → e.addr ≠ 8) ∧ ∀ e ∈ x.front, e.kind ≠ .free) ∧
    (gF 8 (waitAt 9)).lowest 0 { kind := .ordinary, mask := 0x10000#32, addr := 9 } (fun _ => true) :=
  ⟨by unfold ScalarReady; decide +kernel, by unfold ScalarReady; decide +kernel, lowest_of _ _ _ _ (by decide +kernel)⟩

theorem witness_pathsJoinAndEnd_meet : ∃ e, (gF 8 (joinAt 8 0xFFFFFFFF#32)).front[0]? = some e ∧ e.kind = .joinWait ∧ e.addr = 8 ∧
    (∀ j f, (gF 8 (joinAt 8 0xFFFFFFFF#32)).front[j]? = some f → f.kind = .joinWait → f.addr = 8 → j = 0) ∧
    e.jset &&& ~~~(e.mask ||| (gF 8 (joinAt 8 0xFFFFFFFF#32)).m0 ||| (gF 8 (joinAt 8 0xFFFFFFFF#32)).retired) = 0#32 := by
  refine ⟨_, rfl, rfl, rfl, fun j f hf hk _ => ?_, by decide⟩
  cases j with
  | zero => rfl
  | succ j =>
    simp only [gF, joinAt, frontOf, List.cons_append, List.nil_append, List.getElem?_cons_succ, List.getElem?_replicate] at hf
    split at hf <;> cases hf
    cases hk

/-- A join wait that still lacks lanes 24 to 31, before its time limit and after it. -/
theorem witness_pathsJoinAndEnd_short : ∀ late : Bool, (let e : FEntry := { kind := .joinWait, mask := 0xFF0000#32, jset := 0xFFFFFFFF#32, addr := 8, sd := 4, tleft := 16, lapsed := late }
    let x := gF 8 (frontOf [e]); ScalarReady (st x) x [] [4] [2] ∧ x.front[0]? = some e ∧ e.jset &&& ~~~(e.mask ||| x.m0 ||| x.retired) ≠ 0#32 ∧ ∀ f ∈ x.front, x.eligible f = false) := by
  unfold ScalarReady; decide +kernel

theorem witness_pathsJoinAndEnd_end :
    (let x := { gF 8 (frontOf []) with queue := [b0] }; ScalarReady (st x) x [] [] [] ∧ x.queue ≠ []) ∧
    (let x := gF 8 (frontOf []); ScalarReady (st x) x [] [] [] ∧ x.queue = [] ∧ x.deferred = [] ∧ x.verr = [] ∧ ∀ e ∈ x.front, e.kind = .free) ∧
    (let x := gF 8 (waitAt 9); ScalarReady (st x) x [] [] [] ∧ ∀ e ∈ x.front, e.kind ≠ .joinWait) ∧ (gF 8 (waitAt 9)).pathsApart ∧
    (gF 8 (waitAt 9)).lowest 0 { kind := .ordinary, mask := 0x10000#32, addr := 9 } (fun _ => true) :=
  ⟨by unfold ScalarReady; decide +kernel, by unfold ScalarReady; decide +kernel, by unfold ScalarReady; decide +kernel, pathsApart_of _ (by decide +kernel),
    lowest_of _ _ _ _ (by decide +kernel)⟩

theorem witness_pathsJoinAndEnd_last : ∃ e, (gF 8 (joinAt 9 0xFFFFFFFF#32)).trap = none ∧ (gF 8 (joinAt 9 0xFFFFFFFF#32)).front[0]? = some e ∧ e.kind = .joinWait ∧
    e.jset &&& ~~~(e.mask ||| (gF 8 (joinAt 9 0xFFFFFFFF#32)).retired ||| (gF 8 (joinAt 9 0xFFFFFFFF#32)).m0) = 0#32 ∧
    ∀ j f, (gF 8 (joinAt 9 0xFFFFFFFF#32)).front[j]? = some f → j ≠ 0 → f.kind = .free := by
  refine ⟨_, rfl, rfl, rfl, by decide, fun j f hf hj => ?_⟩
  cases j with
  | zero => exact absurd rfl hj
  | succ j =>
    simp only [gF, joinAt, frontOf, List.cons_append, List.nil_append, List.getElem?_cons_succ, List.getElem?_replicate] at hf
    split at hf <;> cases hf
    rfl

/-- A group with an address in s5. -/
def gA (v : Nat) : Group := { g0 with sreg := [(5, BitVec.ofNat 64 v), (6, 9#64)] }

/-- The leaf of the page at 0x10000, and that of the end of the walk of an address. -/
def leaf0 : Leaf := ⟨BitVec.ofNat 64 (2 ^ 63 + 2 ^ 62 + 7 * 2 ^ 56 + 2 ^ 40 + 0x20000 + 1), 2 ^ 40 + 0x5008, false⟩
theorem xlate_page (v : Nat) (h : (st g0).xlate (.core 0) 0 v = .absent) : ∀ l, (st (gA v)).xlate (.core 0) 0 v ≠ .leaf l := by
  intro l hl
  have : (st (gA v)).xlate (.core 0) 0 v = .absent := h
  rw [this] at hl; cases hl

theorem witness_windowAndConstantInstructions_wset :
    (ScalarReady (st (gA (2 ^ 57))) (gA (2 ^ 57)) [5] [] [] ∧ 2 ^ 57 ≤ ((gA (2 ^ 57)).sr 5).toNat) ∧
    (ScalarReady (st (gA (2 ^ 57 - 1))) (gA (2 ^ 57 - 1)) [5] [] [] ∧ ((gA (2 ^ 57 - 1)).sr 5).toNat < 2 ^ 57 ∧ ((gA (2 ^ 57 - 1)).sr 5).toNat / 2 ^ 48 = 0x1FF) ∧
    (ScalarReady (st (gA (0x1FE * 2 ^ 48))) (gA (0x1FE * 2 ^ 48)) [5] [] [] ∧ ((gA (0x1FE * 2 ^ 48)).sr 5).toNat / 2 ^ 48 = 0x1FE) ∧
    (ScalarReady (st (gA 0x20000)) (gA 0x20000) [5] [] [] ∧ ((gA 0x20000).sr 5).toNat / 2 ^ 48 < 0x1FE ∧ (st (gA 0x20000)).xlate (.core 0) 0 0x20000 = .absent) ∧
    (ScalarReady (st (gA 0x10008)) (gA 0x10008) [5] [] [] ∧ (st (gA 0x10008)).xlate (.core 0) 0 0x10008 = .leaf leaf0) := by
  unfold ScalarReady; decide +kernel

theorem witness_windowAndConstantInstructions_rest :
    (let x := { g0 with wins := [(1, { vbase := 0x10008, v := true, lim := 0x10000 - 8 }), (2, { vbase := 0x10008, v := true, st := true })] };
      ScalarReady (st x) x [] [] [] ∧ ScalarReady (st x) x [] [4] [] ∧ (x.win 3).v = false ∧ ((x.win 1).v = true ∧ (x.win 1).st = false) ∧ (x.win 2).v = true ∧ (x.win 2).st = true) ∧
    (ScalarReady (st (gA (2 ^ 57))) (gA (2 ^ 57)) [5] [4] []) ∧ (ScalarReady (st (gA 8)) (gA 8) [5] [4] [] ∧ ((gA 8).sr 5).toNat / 2 ^ 48 ≠ 0x1FE) ∧
    (let x := gA (0x1FE * 2 ^ 48 + 64); ScalarReady (st x) x [5] [4] [] ∧ x.stklim ≤ (x.sr 5).toNat % 2 ^ 48) ∧
    (let x := gA (0x1FE * 2 ^ 48 + 63); ScalarReady (st x) x [5] [4] [] ∧ (x.sr 5).toNat % 2 ^ 48 < x.stklim) ∧
    ((st g0).kd g0).csize ≤ 2 ∧ 1 < ((st g0).kd g0).csize ∧ (st g0).fetchAt g0 (((st g0).kd g0).cbase + 8 * 1) 8 = .bytes [0, 0, 0, 0, 0, 0, 0, 0] ∧
    ((st g0).lau g0.launch).ctab[0]? = some 0#64 ∧ ((st g0).lau g0.launch).ctab[1]? = some 5#64 := by
  unfold ScalarReady; decide +kernel

theorem witness_specialRegisters_sget : ScalarReady (st g0) g0 [] [4] [] ∧ g0.queue = [] ∧
    (let x := { g0 with queue := [b0] }; ScalarReady (st x) x [] [4] [] ∧ x.queue ≠ []) := by
  unfold ScalarReady; decide +kernel

theorem witness_specialRegisters_sset : (let x (v : Nat) : Group := gA v;
    (ScalarReady (st (x 0x08840000)) (x 0x08840000) [5] [] [] ∧ fmtLegal 0x08840000 ∧ ¬ fmtLegal 0x08840001 ∧ ¬ fmtLegal (2 ^ 32)) ∧
    ScalarReady (st (x 48)) (x 48) [5] [] [] ∧ 48 ≤ ((st (x 48)).kd (x 48)).priv ∧ ¬ 80 ≤ ((st (x 48)).kd (x 48)).priv ∧
    ScalarReady (st (x 1)) (x 1) [5] [] [] ∧ ScalarReady (st (x 32)) (x 32) [5] [] [] ∧ ScalarReady (st (x 33)) (x 33) [5] [] [] ∧ ScalarReady (st (x 8)) (x 8) [5] [] [] ∧
    ScalarReady (st (x 9)) (x 9) [5] [] [] ∧ ScalarReady (st (x 0)) (x 0) [5] [] []) := by
  unfold ScalarReady fmtLegal; decide +kernel

/-- The word that `fmtset` with a mask of fields forms from s5. -/
theorem witness_specialRegisters_fmtset : 63 < 64 ∧ (let x := gA 0xFFFFFFFF; ScalarReady (st x) x [5] [] [] ∧
    (∀ j, j < 32 → (0x0F840000#32).getLsbD j = if (∃ p ∈ fmtFields, p.2.1 ≤ j ∧ j ≤ p.2.2 ∧ (32 : Nat).testBit p.1) then (x.sr 5).getLsbD j else x.fmt.getLsbD j) ∧
    fmtLegal 0x0F840000 ∧
    (∀ j, j < 32 → (0x0884C000#32).getLsbD j = if (∃ p ∈ fmtFields, p.2.1 ≤ j ∧ j ≤ p.2.2 ∧ (4 : Nat).testBit p.1) then (x.sr 5).getLsbD j else x.fmt.getLsbD j) ∧
    ¬ fmtLegal 0x0884C000) := by
  unfold ScalarReady fmtLegal; decide +kernel

/-- A group in its trap handler. -/
def gT : Group := { g0 with trap := some { pc := 0x40#64, m0 := 0xFFFFFFFF#32, fmt := 0x08840000#32, f := 0xFFFFFFFF#32, tcause := 0x40#32 } }

theorem witness_causesTaken : Map.find (st g0).groups (st g0).cur = some g0 ∧ g0.trap = none ∧ ((st g0).kd g0).trapv ≠ 0xFFFFFFFF ∧
    Map.find (st gT).groups (st gT).cur = some gT ∧ gT.trap ≠ none ∧
    (let x := { g0 with queue := [b0] }; Map.find (st x).groups (st x).cur = some x ∧ x.queue = [b0]) ∧
    (let x := { gT with queue := [b0] }; Map.find (st x).groups (st x).cur = some x ∧ x.queue = [b0] ∧ x.trap ≠ none) := by
  decide +kernel

theorem witness_trapInstructions : ScalarReady (st g0) g0 [] [] [] ∧ g0.trap = none ∧ ((st g0).kd g0).trapv ≠ 0xFFFFFFFF ∧ ((st g0).ctx g0.ctx).dbgctl.getLsbD 0 = false ∧
    (st g0).target ((st g0).lau g0.launch) = none ∧ ((dev { c0 with dbgctl := 1#64 } l0 g0).ctx g0.ctx).dbgctl.getLsbD 0 = true ∧ ScalarReady (dev { c0 with dbgctl := 1#64 } l0 g0) g0 [] [] [] := by
  unfold ScalarReady; decide +kernel

theorem witness_returnsFromHandlers :
    (ScalarReady (st g0) g0 [] [] [3] ∧ g0.trap = none ∧ ScalarReady (st g0) g0 [] [] []) ∧
    (let x := { gT with m0 := 1#32 }; ScalarReady (st x) x [] [] [3] ∧ x.trap = gT.trap ∧ x.m0 ≠ 0xFFFFFFFF#32) ∧
    (ScalarReady (st gT) gT [] [] [3] ∧ ScalarReady (st gT) gT [] [] [] ∧ (gT.trap.map (fun r => (r.handler, r.f))) = some (.trap, gT.m0) ∧
      (∀ e ∈ gT.front, e.kind ≠ .free → e.hnd = false) ∧ (∀ e ∈ gT.front, e.kind = .joinWait → e.lapsed = false)) ∧
    (let x := { gT with trap := gT.trap.map (fun r => { r with handler := .vacate }) }; ScalarReady (st x) x [] [] [] ∧ (x.trap.map (fun r => (r.handler, r.m0))) = some (.vacate, 0xFFFFFFFF#32)) ∧
    (let x := { gT with trap := gT.trap.map (fun r => { r with handler := .vacate }), front := frontOf [{ kind := .ordinary, mask := 1#32, addr := 4, hnd := true }] };
      ScalarReady (st x) x [] [] [] ∧ ∃ e ∈ x.front, e.kind ≠ .free ∧ e.hnd = true) := by
  unfold ScalarReady; decide +kernel

/-- The place of an address of the page at 0x10000. -/
def at0 (va : Nat) : Place := .phys (2 ^ 40 + 0x10000 + va) 0x10000 0 1

theorem witness_scalarAccesses_issue : 9 < 10 ∧ 1 < 2 ∧
    (let x := gA 0x10100; (st x).memQueued x = false ∧ ScalarReady (st x) x [5] [4] [] ∧ AccessFits (st x) x { va := 0x10100, place := at0 0x10100, size := 2 ^ 3 } .rd .load .l ∧
      ScalarReady (st x) x [6, 5] [] [] ∧ AccessFits (st x) x { va := 0x10100, place := at0 0x10100, size := 2 ^ 0, x := 9 } .wr .store .s ∧
      ScalarReady (st x) x [6, 7, 5] [6, 7] [] ∧ AccessFits (st x) x { va := 0x10100, place := at0 0x10100, size := 8, x := 0, c := 9 } .at_ (satomKind 9 1) .l ∧
      ScalarReady (st x) x [6, 5] [6] [] ∧ AccessFits (st x) x { va := 0x10100, place := at0 0x10100, size := 4, x := 9, c := 9 } .at_ (satomKind 0 0) .l) ∧
    (let x := gA (0x1FF * 2 ^ 48 + 2040); (st x).memQueued x = false ∧ ScalarReady (st x) x [5] [4] [] ∧ AccessFits (st x) x { va := 0x1FF * 2 ^ 48 + 2040, place := .scratch 0 (2 ^ 20 + 2040), size := 8 } .rd .load .l) := by
  unfold ScalarReady AccessFits; decide +kernel

/-- A part of n bytes at 0x10100, and a group with one access of it in flight. -/
def part0 (n : Nat) : Part := { va := 0x10100, place := at0 0x10100, size := n, x := 7, c := 0 }
/-- The access. -/
def pend0 (k : AccessKind) (d : Dest) (n : Nat) : Pend := { id := 1, cls := some .l, kind := k, dest := d, parts := [part0 n] }
/-- The group. -/
def gP (k : AccessKind) (d : Dest) (n : Nat) : Group := { g0 with pend := [pend0 k d n], ops := [⟨1, .l, false⟩], seq := 1 }

theorem witness_scalarAccesses_complete :
    InFlight (st (gP .load (.sreg 4 true) 1)) 1 (gP .load (.sreg 4 true) 1) (pend0 .load (.sreg 4 true) 1) (part0 1) ∧
    InFlight (st (gP .load (.sreg 0 false) 8)) 1 (gP .load (.sreg 0 false) 8) (pend0 .load (.sreg 0 false) 8) (part0 8) ∧
    InFlight (st (gP .store .none 4)) 1 (gP .store .none 4) (pend0 .store .none 4) (part0 4) ∧
    InFlight (st (gP (satomKind 9 1) (.sreg 4 false) 8)) 1 (gP (satomKind 9 1) (.sreg 4 false) 8) (pend0 (satomKind 9 1) (.sreg 4 false) 8) (part0 8) ∧
    (st g0).lineBad (homeOf 0 0x10000 1 (2 ^ 40 + 0x20100) (st g0).moves) = false ∧ (part0 8).x < 2 ^ (8 * (part0 8).size) ∧ (part0 8).c < 2 ^ (8 * (part0 8).size) := by
  unfold InFlight; decide +kernel

/-- A lane load, last of its block. -/
def iLd : Instr := .vld ⟨0, 6, 0, 4, 0, 0, .i32, 0, 0, 1, 0, 0, 0, 0, 0, false, true⟩

theorem witness_scalarAccessCauses : 9 < 10 ∧ 0 < 10 ∧ (∀ q ∈ scalarAccessForms 4 5 3 0 0 0 1 9, q.size = 8) ∧
    (∀ q ∈ scalarAccessForms 4 5 3 0 0 0 1 9, ScalarReady (st (gA (2 ^ 57))) (gA (2 ^ 57)) q.reads q.writes [] ∧ ScalarReady (st (gA 0x10004)) (gA 0x10004) q.reads q.writes [] ∧
      ScalarReady (st (gA (0x1FF * 2 ^ 48 + 2048))) (gA (0x1FF * 2 ^ 48 + 2048)) q.reads q.writes [] ∧ ScalarReady (st (gA (0x1FE * 2 ^ 48))) (gA (0x1FE * 2 ^ 48)) q.reads q.writes [] ∧
      ScalarReady (st (gA 0x20000)) (gA 0x20000) q.reads q.writes [] ∧ ScalarReady (st (gA 0x30000)) (gA 0x30000) q.reads q.writes [] ∧
      ScalarReady (st (gA 0x40000)) (gA 0x40000) q.reads q.writes []) ∧
    (let x := { gA 0x10100 with queue := [b0] }; let s := { st x with mem := setLE mem0 (2 ^ 40 + 0x28000) 12 (encode iLd) }; ScalarReady s x [5] [4] [] ∧ s.memQueued x = true ∧ (st x).memQueued x = false) ∧
    (st (gA 0x10100)).memQueued (gA 0x10100) = false ∧ ((st g0).kd g0).scr * 1024 = 2048 ∧ (st g0).xlate (.core 0) 0 0x20000 = .absent ∧ (st g0).xlate (.core 0) 0 0x30000 = .malformed ∧
    (st g0).xlate (.core 0) 0 0x40000 = .leaf ⟨BitVec.ofNat 64 (2 ^ 63 + 2 ^ 62 + 2 ^ 40 + 0x30000 + 1), 2 ^ 40 + 0x5020, false⟩ := by
  unfold ScalarReady; decide +kernel

/-- Contexts with a vacate bound of 700, and with the tier of die 0 charged up to the limit. -/
def cTight : Ctx := { c0 with vbcur := 700#64, vbreq := 700#64 }
/-- The charges. -/
def cFull : Ctx := { c0 with ledger := [{ key := 9, res := .tier 0 0, amt := 999300 }] }
/-- A group in strict mode. -/
def gStrict : Group := { gA 0x10100 with vmode := 1#32 }

theorem witness_scalarAccessCauses_check : (st g0).resolve 1 (gA 0x10100) true 0x10100 8 .rd = .ok (at0 0x10100) ∧ (st g0).placeBad g0 (at0 0x10100) 8 = false ∧
    ScalarReady (dev cTight l0 (gA 0x10100)) (gA 0x10100) [5] [4] [] ∧ ScalarReady (dev cFull l0 (gA 0x10100)) (gA 0x10100) [5] [4] [] ∧ ScalarReady (dev cFull l0 gStrict) gStrict [5] [4] [] ∧
    (let cs (s : State) := s.accessCosts 1 (gA 0x10100) .load [{ va := 0x10100, place := at0 0x10100, size := 8 }];
      (dev cTight l0 (gA 0x10100)).issueCheck 0 false false (cs (dev cTight l0 (gA 0x10100))) = .tooLarge ∧
      (dev cFull l0 gStrict).issueCheck 0 true false (cs (dev cFull l0 gStrict)) = .bound ∧ (dev cFull l0 (gA 0x10100)).issueCheck 0 false false (cs (dev cFull l0 (gA 0x10100))) = .stall) ∧
    (let x := { gA 0x10100 with ops := List.replicate 31 ⟨9, .l, false⟩ }; ScalarReady (st x) x [5] [4] [] ∧ 31 ≤ x.count .l) := by
  unfold ScalarReady; decide +kernel

theorem witness_vacateCheck : (st g0).issueCheck 0 false false [⟨.dome 0, 999300, 0⟩] = .ok ∧ (st g0).issueCheck 0 false false [⟨.dome 0, 999301, 0⟩] = .tooLarge ∧
    ([(⟨.dome 0, 999300, 0⟩ : Cost)].map (fun p => p.res)).Nodup ∧ (∀ r, ((st g0).ctx 0).chargeOn r ≤ 999300) := by
  refine ⟨by decide +kernel, by decide +kernel, by decide, fun r => ?_⟩
  exact Nat.zero_le _

/-- A group with operations of each class, and a deferred tile cause. -/
def gOps : Group := { g0 with ops := [⟨1, .l, false⟩, ⟨2, .s, false⟩], deferred := [⟨0x19, 0⟩], tileNo := 1 }
/-- A group with the handles of a copy, a collective and a launch. -/
def gH (st1 n : Nat) : Group := { g0 with hseq := 4, handles := [(1, { kind := 1, obj := 1, status := st1 }), (2, { kind := 2, obj := 1 }), (3, { kind := 3, obj := 2, status := st1 })]
                                          sreg := [(5, BitVec.ofNat 64 (n * 2 ^ 60 + 3 * 2 ^ 44 + n))] }
/-- Its device: the copy has moved nothing; the child waits. -/
def dH (st1 n : Nat) : State := { (st (gH st1 n)) with copies := [(1, { n := 64, opId := 7, charge := 7 })], launches := [(1, l0), (2, { parent := some (1, 3), phase := .unbound })] }

theorem witness_countersAndHandles_wcnt : ScalarReady (st g0) g0 [] [] [] ∧ g0.queue = [] ∧ g0.verr = [] ∧ ScalarReady (st gOps) gOps [] [] [] ∧
    ((gOps.ops.filter (fun e => e.cls == .l)).length ≤ 1 ∧ ¬ (gOps.ops.filter (fun e => e.cls == .l)).length ≤ 0) ∧ 0 < gOps.tileNo - 0 ∧
    (∀ f ∈ gOps.deferred, f ≠ ⟨0x19, 0⟩ → 0 < f.opNo) ∧
    (let x := { g0 with verr := [64, 65, 66], verrOf := [(64, 0), (65, 4)], loadNo := 5 }; ScalarReady (st x) x [] [] [] ∧ x.queue = [] ∧ x.deferred = [] ∧
      Map.find x.verrOf 64 = some 0 ∧ 0 + 1 < x.loadNo ∧ Map.find x.verrOf 65 = some 4 ∧ ¬ 4 + 1 < x.loadNo ∧ Map.find x.verrOf 66 = none) ∧ (let x := { g0 with queue := [b0] }; ScalarReady (st x) x [] [] [] ∧ x.queue ≠ [] ∧ ¬(31 ≤ 30 ∧ 31 ≤ 31 ∧ 31 ≤ 31)) := by
  unfold ScalarReady; decide +kernel

theorem witness_countersAndHandles_handles :
    (∀ n h, ¬ g0.names (st g0) (g0.sr 5) n h) ∧ ScalarReady (st g0) g0 [5] [4] [] ∧ ScalarReady (st g0) g0 [5] [] [] ∧
    ((gH 0 1).names (dH 0 1) ((gH 0 1).sr 5) 1 { kind := 1, obj := 1 } ∧ ScalarReady (dH 0 1) (gH 0 1) [5] [4] [] ∧ (Map.get {} (dH 0 1).copies 1).begun = false ∧ (Map.get {} (dH 0 1).copies 1).charge ≠ 0) ∧
    ((gH 1 1).names (dH 1 1) ((gH 1 1).sr 5) 1 { kind := 1, obj := 1, status := 1 } ∧ ScalarReady (dH 1 1) (gH 1 1) [5] [] []) ∧
    ((gH 0 2).names (dH 0 2) ((gH 0 2).sr 5) 2 { kind := 2, obj := 1 } ∧ ScalarReady (dH 0 2) (gH 0 2) [5] [4] []) ∧
    ((gH 0 3).names (dH 0 3) ((gH 0 3).sr 5) 3 { kind := 3, obj := 2 } ∧ ScalarReady (dH 0 3) (gH 0 3) [5] [4] [] ∧ ((dH 0 3).lau 2).phase ∈ [LPhase.unbound, .bound] ∧
      ((dH 0 3).lau 2).parent = some ((dH 0 3).cur, 3)) := by
  refine ⟨fun n h hn => ?_, ?_⟩
  · have := hn.1; revert this; decide +kernel
  · unfold ScalarReady Group.names; decide +kernel

/-- A launch of four units in one dimension with a budget, and that launch with a pushed unit, cancelled, and with all units handed out. -/
def lU : Launch := { l0 with lr := { d0 := 4, bitmap := 0x1E000 }, budget := 100 }
def lPushed : Launch := { lU with pushed := [1], units := [(1, { word := 9#64, level := 1, parent := some 0 })] }
def lCancelled : Launch := { lU with cancelled := true }
def lOut : Launch := { lU with gridNext := 4, units := [(1, { root := 3 })] }
/-- A group that holds unit 1, and one in interval mode with units on lanes 0 and 1. -/
def gUnit : Group := { g0 with unit := some ⟨1, 3#64, 0⟩ }
def gIv : Group := { g0 with interval := true, sreg := [(4, 0x2000000020#64)], lut := [(0, { unit := some ⟨1, 3#64, 0⟩ }), (1, { unit := some ⟨2, 0#64, 0⟩ })], blimit := 8 }

/-- No group has been served in this tick, or one that comes after `g0`. -/
theorem witness_dispenser_turns : (∀ l x, (dev c0 l x).InTurn x) ∧ ¬ { dev c0 lU g0 with marks := [.served 1 9] }.InTurn g0 ∧ ScalarReady { dev c0 lU g0 with marks := [.served 1 9] } g0 [6] [4] [] :=
  ⟨fun _ _ _ h => absurd h List.not_mem_nil, fun h => absurd (h 9 (List.mem_singleton.mpr rfl)) (by decide), by unfold ScalarReady; decide +kernel⟩

theorem witness_dfetchHandsOut : ScalarReady (dev c0 lU g0) g0 [] [4] [] ∧ g0.unit = none ∧ g0.lut = [] ∧ g0.interval = false ∧
    (dev c0 lCancelled g0).cancelled g0.launch = true ∧ ScalarReady (dev c0 lCancelled g0) g0 [] [4] [] ∧
    ((dev c0 lU g0).cancelled g0.launch = false ∧ lU.target = none ∧ lU.pushed = [] ∧ lU.kd.iv = false ∧ lU.skip = [] ∧ lU.gridNext < lU.lr.units) ∧
    (ScalarReady (dev c0 lPushed g0) g0 [] [4] [] ∧ (dev c0 lPushed g0).cancelled g0.launch = false ∧ lPushed.pushed = [1]) ∧
    (ScalarReady (dev c0 lOut g0) g0 [] [4] [] ∧ (dev c0 lOut g0).cancelled g0.launch = false ∧ lOut.lr.units ≤ lOut.gridNext ∧
      (∀ p ∈ (dev c0 lOut g0).groups, p.1 ≠ (dev c0 lOut g0).cur → p.2.launch = g0.launch → p.2.residence ≠ .ended → p.2.unit = none)) ∧
    (let s := { dev c0 lOut g0 with groups := [(1, g0), (2, gUnit)] }; ScalarReady s g0 [] [4] [] ∧ (2, gUnit) ∈ s.groups ∧ 2 ≠ s.cur ∧ gUnit.launch = g0.launch ∧ gUnit.residence ≠ .ended ∧ gUnit.unit ≠ none) := by
  unfold ScalarReady; decide +kernel

theorem witness_dfetchHandsOut_lanes : (let x := { g0 with interval := true }; ScalarReady (dev c0 lU x) x [] [4] [] ∧ x.unit = none ∧ x.lut = [] ∧ x.interval = true ∧
      (dev c0 lU x).cancelled x.launch = false ∧ lU.ivQueue = [] ∧ lU.skip = [] ∧ lU.kd.prio = false ∧ 0 < Nat.min 32 (lU.lr.units - lU.gridNext)) ∧
    (let x := { g0 with interval := true }; ScalarReady (dev c0 lOut x) x [] [4] [] ∧ Nat.min 32 (lOut.lr.units - lOut.gridNext) = 0 ∧
      ∀ p ∈ (dev c0 lOut x).groups, p.1 ≠ (dev c0 lOut x).cur → p.2.launch = x.launch → p.2.residence ≠ .ended → p.2.interval = true → p.2.unit = none ∧ p.2.lut = []) := by
  unfold ScalarReady; decide +kernel

theorem witness_dispenserPushes : (ScalarReady (dev c0 lU gUnit) gUnit [6] [4] [] ∧ gUnit.interval = false ∧ gUnit.unit = some ⟨1, 3#64, 0⟩ ∧ (dev c0 lU gUnit).cancelled gUnit.launch = false ∧
      lU.target = none ∧ lU.budget ≠ 0 ∧ (gUnit.sr 6).toNat % 65536 < lU.lr.d0 ∧ (gUnit.sr 6).toNat / 65536 % 65536 < lU.lr.d1 ∧ (gUnit.sr 6).toNat / 2 ^ 32 % 65536 < lU.lr.d2 ∧ (gUnit.sr 6).toNat / 2 ^ 48 < lU.lr.d3) ∧
    (ScalarReady (dev c0 lU g0) g0 [6] [4] [] ∧ g0.unit = none) ∧ (lU.lr.d0 ≤ (gUnit.sr 5).toNat % 65536) ∧
    (ScalarReady (dev c0 lCancelled gUnit) gUnit [6] [4] [] ∧ (dev c0 lCancelled gUnit).cancelled gUnit.launch = true) ∧
    (ScalarReady (dev c0 lU gIv) gIv [4] [4] [0] ∧ gIv.interval = true ∧ 4 ∉ gIv.serr ∧ (dev c0 lU gIv).cancelled gIv.launch = false ∧
      4 * ((List.range 32).filter (fun n => (gIv.m0 &&& gIv.mask 0).getLsbD n && (Map.get {} gIv.lut n).unit.isSome && !(Map.get {} gIv.lut n).done)).length ≤ lU.budget) ∧
    (ScalarReady (dev c0 lCancelled gIv) gIv [4] [4] [0] ∧ (dev c0 lCancelled gIv).cancelled gIv.launch = true) := by
  unfold ScalarReady; decide +kernel

theorem witness_dispenserPushes_ddone : (ScalarReady (dev c0 lU g0) g0 [] [] [] ∧ g0.queue = [] ∧ g0.pend = [] ∧ g0.lut = [] ∧ g0.unit = none) ∧
    (ScalarReady (dev c0 lOut gUnit) gUnit [] [] [] ∧ gUnit.unit = some ⟨1, 3#64, 0⟩ ∧
      (let node := { Map.get {} lOut.units 1 with finished := true }; (∀ kv ∈ (lOut.units.put 1 node).filter (fun kv => kv.2.root == node.root), kv.2.finished = true ∧ kv.2.spoiled = false) ∧
        ∃ kv ∈ (lOut.units.put 1 node).filter (fun kv => kv.2.root == node.root), kv.2.path = [] ∧ kv.2.complete = false)) ∧
    (let l := { lOut with units := [(1, { root := 3 }), (2, { root := 3, parent := some 1 })] };
      ScalarReady (dev c0 l gUnit) gUnit [] [] [] ∧ ¬ ∀ kv ∈ (l.units.put 1 { Map.get {} l.units 1 with finished := true }).filter (fun kv => kv.2.root == 3), kv.2.finished = true ∧ kv.2.spoiled = false) ∧
    (ScalarReady (st gLoad) gLoad [] [] [] ∧ gLoad.pend ≠ []) := by
  unfold ScalarReady; decide +kernel

/-- The sixteen words of a launch record at an address of the page at 0x10000. -/
def words16 (va : Nat) : List Part := (List.range 16).map (fun i => { va := va + 8 * i, size := 8, place := at0 (va + 8 * i) })

theorem witness_launchAndJoin_launch : (let x := gA 0x1E000; ScalarReady (st x) x [5] [4] [] ∧ x.queue = [] ∧ x.pend = [] ∧ 0x1E000 % 8 = 0 ∧ (words16 0x1E000).length = 16 ∧
      (∀ p ∈ words16 0x1E000, (st x).resolve 1 x true p.va 8 .rd = .ok p.place ∧ (st x).placeBad x p.place 8 = false ∧ (st x).served x.ctx p = true) ∧
      (st x).issueCheck x.ctx x.strict ((st x).inWindow x) (costsOf ((((words16 0x1E000).take 1).flatMap ((st x).partItems 1 x false false)).map (fun i => { i with bytes := 128 }))) = .ok ∧
      ¬(((st x).ctx x.ctx).poolmax.toNat ≤ (st x).pendingKids (some x.ctx) ∨ 1024 ≤ (st x).pendingKids none)) ∧
    (let s := dev { c0 with poolmax := 0#64 } l0 (gA 0x1E000); ScalarReady s (gA 0x1E000) [5] [4] [] ∧ (s.ctx 0).poolmax.toNat ≤ s.pendingKids (some 0)) ∧
    ScalarReady (st (gA (2 ^ 57))) (gA (2 ^ 57)) [5] [4] [] ∧ (ScalarReady (st (gA 0x1E004)) (gA 0x1E004) [5] [4] [] ∧ 0x1E004 % 8 ≠ 0) := by
  unfold ScalarReady; decide +kernel

/-- The i-th word, as the statement asks for it. -/
theorem witness_launchAndJoin_words : ∀ (i : Nat) (p : Part), (words16 0x1E000)[i]? = some p → p = { va := 0x1E000 + 8 * i, size := 8, place := p.place } := by
  intro i p h
  simp only [words16, List.getElem?_map, Option.map_eq_some_iff] at h
  obtain ⟨j, hj, rfl⟩ := h
  have := List.getElem?_eq_some_iff.mp hj
  obtain ⟨_, rfl⟩ := this
  simp

theorem witness_launchAndJoin_join :
    (ScalarReady (dH 0 3) (gH 0 3) [5] [] [] ∧ (gH 0 3).names (dH 0 3) ((gH 0 3).sr 5) 3 { kind := 3, obj := 2 }) ∧
    ((gH 1 3).names (dH 1 3) ((gH 1 3).sr 5) 3 { kind := 3, obj := 2, status := 1 } ∧ ScalarReady (dH 1 3) (gH 1 3) [5] [] []) ∧
    (ScalarReady (dH 0 1) (gH 0 1) [5] [] []) ∧
    (let x := { g0 with wait := .join 2 }; let s := { st x with launches := [(1, l0), (2, { phase := .finished })] }; Map.find s.groups 1 = some x ∧ (s.lau 2).phase = .finished ∧ (s.ctx x.ctx).st = .running ∧ x.residence = .resident) ∧
    (let x := { g0 with wait := .join 2, residence := .saved 2 }; let s := { dev { c0 with lkbase := 0x10000#64 } l0 x with launches := [(1, l0), (2, { phase := .finished })] }; Map.find s.groups 1 = some x ∧ (s.lau 2).phase = .finished ∧ (s.ctx x.ctx).st = .running ∧ s.fits x = true) ∧
    (let x := { g0 with wait := .join 1 }; (st x).groups = [(1, x)] ∧ ((st x).lau 1).phase ≠ .finished) ∧
    (let x := { g0 with wait := .dfetch }; let s := { st x with mem := setLE mem0 (2 ^ 40 + 0x20000) 4 (encode (.dfetch 4)) };
      s.issuing x = true ∧ x.interval = false ∧ s.fetchScalar x x.pc.toNat = .bytes (leBytes 4 (encode (.dfetch 4))) ∧ (decode (leBytes 4 (encode (.dfetch 4)))).toOption = some (.dfetch 4, [])) ∧ g0.wait = .none := by
  unfold ScalarReady Group.names; decide +kernel

/-- A group of the same block in block barrier 3, and one that has not arrived. -/
def gBar : Group := { g0 with wait := .bar 0 3 }

theorem witness_barriersAndWordWaits_bar : (ScalarReady (st g0) g0 [] [] [] ∧ g0.queue = [] ∧ g0.pend = []) ∧ (ScalarReady (st gLoad) gLoad [] [] [] ∧ gLoad.pend ≠ []) ∧
    (let s := { st gBar with groups := [(1, gBar), (2, gBar)] }; Map.find s.groups 1 = some gBar ∧ gBar.wait = .bar 0 3 ∧ 0 < 2 ∧ (s.groups.map (fun kv => kv.1)).Nodup ∧
      ∀ p ∈ s.groups, p.2.wait = .bar 0 3 ∧ p.2.residence = .resident) ∧
    (let s := { st gBar with groups := [(1, gBar), (2, { gBar with residence := .saved 4 }), (3, g0)] }; (s.groups.map (fun kv => kv.1)).Nodup ∧
      (∃ p ∈ s.groups, (p.2.launch = gBar.launch ∧ p.2.residence ≠ .ended ∧ p.2.block = gBar.block) ∧ ¬(p.2.wait = .bar 0 3 ∧ p.2.residence = .resident)) ∧
      (s.blk g0.block).core0 / 16 = (s.blk gBar.block).core0 / 16) := by
  unfold ScalarReady; decide +kernel

/-- A group that waits on the word at 0x1E000, which holds 9, as `wwait` or as `tkt`, its device, and the word's place. -/
def gW (w : Wait) (seen : Nat) : Group := { g0 with sreg := [(4, BitVec.ofNat 64 seen), (5, 0x1E000#64)], wait := w }
def dWx (i : Instr) (x : Group) : State := { st x with mem := setLE (setLE mem0 (2 ^ 40 + 0x20000) 4 (encode i)) (2 ^ 40 + 0x2E000) 8 9 }
def dW (i : Instr) (w : Wait) (seen : Nat) : State := dWx i (gW w seen)
def plW : Place := .phys (2 ^ 40 + 0x2E000) 0x10000 0 1

theorem readsWord_dWx (i : Instr) (x : Group) (hp : x.pend = [])
    (h : (dWx i x).memQueued x = false ∧ (dWx i x).resolve 1 x true 0x1E000 8 .rd = .ok plW ∧ (dWx i x).placeBad x plW 8 = false ∧ (dWx i x).served x.ctx { va := 0x1E000, place := plW, size := 8 } = true ∧
      (dWx i x).issueCheck x.ctx x.strict ((dWx i x).inWindow x) ((dWx i x).accessCosts 1 x .load [{ va := 0x1E000, place := plW, size := 8 }]) = .ok ∧
      ((dWx i x).performIn 1 x { id := 2, kind := .load, seq := x.seq, scope := 4, parts := [{ va := 0x1E000, place := plW, size := 8 }] } { va := 0x1E000, place := plW, size := 8 }).val = 9) :
    ReadsWord (dWx i x) 1 x 0x1E000 9 ((dWx i x).accessCosts 1 x .load [{ va := 0x1E000, place := plW, size := 8 }]) := by
  obtain ⟨h1, h2, h3, h4, h5, h6⟩ := h
  exact ⟨h1, _, h2, h3, h4, fun q hq => absurd (hp ▸ hq) List.not_mem_nil, rfl, h5, h6.symm⟩

/-- At their first read, woken in place, and woken from a frame. -/
theorem witness_barriersAndWordWaits_words : (∀ y ∈ [(Instr.wwait 4 5, gW .none 9), (.wwait 4 5, gW .none 10), (.wwait 4 5, gW (.wwait 0x1E000 9) 9), (.wwait 4 5, gW (.wwait 0x1E000 8) 8), (.tkt 4 5, gW (.tkt 0x1E000) 9), (.tkt 4 5, gW (.tkt 0x1E000) 10),
    (.wwait 4 5, { gW (.wwait 0x1E000 8) 8 with residence := .saved 3 }), (.tkt 4 5, { gW (.tkt 0x1E000) 9 with residence := .saved 5 })], ∃ cs, ReadsWord (dWx y.1 y.2) 1 y.2 0x1E000 9 cs) := by
  intro y hy
  have hp : ∀ y ∈ [(Instr.wwait 4 5, gW .none 9), (.wwait 4 5, gW .none 10), (.wwait 4 5, gW (.wwait 0x1E000 9) 9), (.wwait 4 5, gW (.wwait 0x1E000 8) 8), (.tkt 4 5, gW (.tkt 0x1E000) 9), (.tkt 4 5, gW (.tkt 0x1E000) 10),
    (.wwait 4 5, { gW (.wwait 0x1E000 8) 8 with residence := .saved 3 }), (.tkt 4 5, { gW (.tkt 0x1E000) 9 with residence := .saved 5 })], y.2.pend = [] ∧ (dWx y.1 y.2).memQueued y.2 = false ∧
      (dWx y.1 y.2).resolve 1 y.2 true 0x1E000 8 .rd = .ok plW ∧ (dWx y.1 y.2).placeBad y.2 plW 8 = false ∧ (dWx y.1 y.2).served y.2.ctx { va := 0x1E000, place := plW, size := 8 } = true ∧
      (dWx y.1 y.2).issueCheck y.2.ctx y.2.strict ((dWx y.1 y.2).inWindow y.2) ((dWx y.1 y.2).accessCosts 1 y.2 .load [{ va := 0x1E000, place := plW, size := 8 }]) = .ok ∧
      ((dWx y.1 y.2).performIn 1 y.2 { id := 2, kind := .load, seq := y.2.seq, scope := 4, parts := [{ va := 0x1E000, place := plW, size := 8 }] } { va := 0x1E000, place := plW, size := 8 }).val = 9 := by
    decide +kernel
  obtain ⟨h, k⟩ := hp y hy
  exact ⟨_, readsWord_dWx _ _ h k⟩

theorem witness_barriersAndWordWaits_wake :
    ScalarReady (dW (.wwait 4 5) .none 9) (gW .none 9) [4, 5] [4] [] ∧ (dW (.wwait 4 5) .none 9).cancelled 1 = false ∧ ScalarReady (dW (.tkt 4 5) .none 10) (gW .none 10) [4, 5] [4] [] ∧
    (dW (.wwait 4 5) (.wwait 0x1E000 9) 9).fetchScalar (gW (.wwait 0x1E000 9) 9) 0 = .bytes (leBytes 4 (encode (.wwait 4 5))) ∧
    (decode (leBytes 4 (encode (.wwait 4 5)))).toOption = some (.wwait 4 5, []) ∧ (decode (leBytes 4 (encode (.tkt 4 5)))).toOption = some (.tkt 4 5, []) ∧
    ((gW .none 9).sr 4).toNat ≤ 9 ∧ 9 < ((gW .none 10).sr 4).toNat ∧
    (let x := gW (.wwait 0x1E000 8) 8; x.residence = .resident ∧ (dWx (.wwait 4 5) x).issuing x = true) ∧
    (let x := { gW (.wwait 0x1E000 8) 8 with residence := .saved 3 }; (dWx (.wwait 4 5) x).fits x = true ∧ ((dWx (.wwait 4 5) x).ctx 0).st = .running) ∧
    (let x := { g0 with queue := [b0] }; let s := { st x with mem := setLE mem0 (2 ^ 40 + 0x28000) 12 (encode iLd) }; ScalarReady s x [4, 5] [4] [] ∧ s.memQueued x = true) := by
  unfold ScalarReady; decide +kernel

/-- A launch whose groups may grow, and a context with its lockets in the page at 0x10000. -/
def lV : Launch := { l0 with kd := { kd0 with vmax := 32, smax := 16 } }
def cL : Ctx := { c0 with lkbase := 0x10000#64, lkcount := 1#64 }
/-- A group that asks for two units of vector registers, older than another. -/
def gGrow : Group := { g0 with wait := .vgrow 2 10, age := some 3 }

theorem witness_registerRequestsAndSaves_requests :
    (let x := { g0 with queue := [b0] }; ScalarReady (dev c0 lV x) x [] [] [] ∧ x.queue ≠ []) ∧ ScalarReady (dev c0 lV g0) g0 [] [] [] ∧ g0.verr = [] ∧
    (((dev c0 lV g0).kd g0).vmax < g0.valloc + 32 ∧ g0.valloc + 31 ≤ ((dev c0 lV g0).kd g0).vmax ∧ g0.salloc + 2 * (g0.valloc + 31) ≤ 76) ∧
    (let x := { g0 with salloc := 16, valloc := 30 }; ScalarReady (dev c0 lV x) x [] [] [] ∧ 76 < x.salloc + 2 * (x.valloc + 1)) ∧
    (g0.pendV = [] ∧ (let x := { g0 with pend := [{ id := 1, lane := true, cls := some .l, dest := .vreg 7 4 }] }; ScalarReady (dev c0 lV x) x [] [] [] ∧ 7 ∈ x.pendV ∧ 8 * (x.valloc - 1) ≤ 7)) ∧
    (g0.valloc < ((dev c0 lV g0).kd g0).vmin + 1 ∧ (let x := { g0 with valloc := 2 }; ScalarReady (dev c0 lV x) x [] [] [] ∧ ((dev c0 lV x).kd x).vmin + 1 ≤ x.valloc)) ∧
    (let s := dev c0 lV gGrow; (1, gGrow) ∈ s.slotGroups (0 / 2) (0 % 2) ∧ gGrow.wait = .vgrow 2 10 ∧ s.older gGrow gGrow = false ∧ 8 * 2 ≤ s.freeV (0 / 2) (0 % 2) ∧
      (∀ p ∈ s.groups, p.2.residence ≠ .saved 4) ∧ ∀ p ∈ s.slotGroups (0 / 2) (0 % 2), p ≠ (1, gGrow) → s.older gGrow p.2 = true) ∧
    (let s := { dev c0 lV gGrow with groups := [(1, gGrow), (2, { g0 with residence := .saved 4, savedAt := 10 })] }; (1, gGrow) ∈ s.slotGroups 0 0 ∧ ∃ p ∈ s.groups, p.2.core = 0 ∧ p.2.slot = 0 ∧ p.2.residence = .saved 4 ∧ p.2.savedAt ≤ 10) ∧
    (let s := { dev c0 lV gGrow with groups := [(1, gGrow), (2, { g0 with valloc := 510 })] }; s.freeV 0 0 < 8 * 2 ∧ (1, gGrow) ∈ s.slotGroups 0 0) := by
  unfold ScalarReady; decide +kernel

theorem witness_registerRequestsAndSaves_saves :
    (let x := { gGrow with valloc := 511 }; let s := dev cL lV x; (∀ p ∈ s.slotGroups (0 / 2) (0 % 2), p.2.wait = .vgrow 2 10) ∧ s.grantable (0 / 2) (0 % 2) = none ∧ s.slotGroups (0 / 2) (0 % 2) ≠ [] ∧
      s.youngest ((s.slotGroups 0 0).filter (fun kv => decide ((s.kd kv.2).vmin < kv.2.valloc))) = some (1, x) ∧ (s.slotGroups 0 0).filter (fun kv => decide ((s.kd kv.2).vmin < kv.2.valloc)) ≠ [] ∧
      Map.find s.groups 1 = some x ∧ x.pend = [] ∧ s.FrameMapped x) ∧
    (let x := { g0 with wait := .join 2 }; let s := { dev cL l0 x with launches := [(1, l0), (2, { l0 with phase := .bound, parent := some (1, 1), places := [(5, 0)] })] };
      (s.ctx 0).st = .running ∧ (∃ kv ∈ s.kids 0, kv.2.phase = .bound) ∧ (s.placeKid 0).isNone = true ∧ Map.find s.groups 1 = some x ∧ s.FrameMapped x ∧
      s.youngest (s.groups.filter (fun kv => kv.2.ctx == 0 && kv.2.residence == .resident && kv.2.queue.isEmpty && kv.2.pend.isEmpty &&
        (match kv.2.wait with | .join _ => true | _ => false))) = some (1, x)) ∧
    (let x := { g0 with residence := .saved 1 }; let s := dev cL l0 x; Map.find s.groups 1 = some x ∧ x.residence = .saved 1 ∧ x.pfWait = [] ∧ x.declined = false ∧ s.fits x = true ∧
      (s.ctx x.ctx).st = .running ∧ (s.ctx x.ctx).lkFault = none) := by
  unfold State.FrameMapped; decide +kernel

/-- A device with a scalar word at offset 4. -/
def dI (x : Group) (i : Instr) : State := { st x with mem := setLE mem0 (2 ^ 40 + 0x20004) 4 (encode i) }
/-- A dirty line of the group's stack cache. -/
def line0 : StackLine := { core := 0, ctx := 0, group := 1, off := 0, backing := 0x1F800, data := List.replicate 32 1#32, dirty := 0x3#32 }

theorem witness_regionsBlocksAndPrices :
    (ScalarReady (st g0) g0 [] [] [] ∧ g0.rstack = [] ∧ g0.rstack.length < ((st g0).kd g0).rgn) ∧
    (let x := { g0 with rstack := List.replicate 16 2 }; ScalarReady (st x) x [] [] [] ∧ ((st x).kd x).rgn ≤ x.rstack.length ∧ x.rstack = List.replicate 15 2 ++ [2]) ∧
    (((st g0).kd g0).lsize < 12 * 0x955 + 12 ∧ 12 * 0x954 + 12 ≤ ((st g0).kd g0).lsize) ∧
    ((st g0).fetchAt g0 (((st g0).kd g0).lbase + 12 * 0) 12 = .bytes (leBytes 12 1) ∧ leNat (leBytes 12 1) / 2 ^ 85 % 8 ≠ 6 ∧ g0.queue.length < 8) ∧
    (let x := { g0 with queue := List.replicate 8 b0 }; ScalarReady (st x) x [] [] [] ∧ 8 ≤ x.queue.length) ∧
    ((st g0).stack = []) ∧
    (let s := { st g0 with stack := [line0] }; ScalarReady s g0 [] [] [] ∧
      s.stack.filter (fun n => (n.core == g0.core && n.ctx == g0.ctx && n.group == s.cur) && n.dirty != 0#32) = [line0] ∧
      s.resolveGlobal (.core 0) 0 line0.backing .wr = .ok (at0 0x1F800) ∧ s.backServed 0 line0.backing = true ∧ g0.queue = [] ∧ g0.pend = [] ∧ g0.pendS = [] ∧ g0.pendV = [] ∧
      s.issueCheck 0 g0.strict (s.inWindow g0) (costsOf [s.physItem 0 0 (2 ^ 40 + 0x2F800) line0.backing false 128]) = .ok) := by
  unfold ScalarReady; decide +kernel

theorem witness_regionsBlocksAndPrices_vcost :
    (ScalarReady (st g0) g0 [] [4] [] ∧ 65535 < 2 ^ 16 ∧ (g0.pc.toNat : Int) + 4 * (BitVec.ofNat 16 65535).toInt < 0) ∧
    (((g0.pc.toNat : Int) + 4 * (BitVec.ofNat 16 0x2000).toInt).toNat = ((st g0).kd g0).ssize) ∧
    (ScalarReady (dI g0 (.add 3 1 2)) g0 [] [4] [] ∧ (g0.pc.toNat : Int) + 4 * (BitVec.ofNat 16 1).toInt = 4 ∧ (dI g0 (.add 3 1 2)).fetchScalar g0 4 = .bytes (leBytes 4 (encode (.add 3 1 2))) ∧
      (decode (leBytes 4 (encode (.add 3 1 2)))).toOption = some (.add 3 1 2, []) ∧ Instr.add 3 1 2 ∈ (registerForms 3 1 2 0).map (fun q => q.1)) ∧
    (let x := gA 0x10100; ScalarReady (dI x (.lds 4 5 3 0 0 0)) x [] [4] [] ∧ (dI x (.lds 4 5 3 0 0 0)).fetchScalar x 4 = .bytes (leBytes 4 (encode (.lds 4 5 3 0 0 0))) ∧
      (decode (leBytes 4 (encode (.lds 4 5 3 0 0 0)))).toOption = some (.lds 4 5 3 0 0 0, []) ∧ (dI x (.lds 4 5 3 0 0 0)).resolve 1 x true 0x10100 8 .rd = .ok (at0 0x10100)) := by
  unfold ScalarReady; decide +kernel

/-- Window 1 over the page at 0x10000, window 2 over the dome of die 0; all lanes hold the address 0x10100 in v4 and v5 and 0x100 in v6. -/
def wins0 : Map Window :=
  [(1, { vbase := 0x10000, frame := 2 ^ 40 + 0x20000, lim := 0x10000, tag := 1, prd := true, pwr := true, pat := true, v := true }),
   (2, { vbase := 0x50000, frame := 3 * 2 ^ 40, lim := 0x10000, tag := 1, typ := 5, prd := true, pwr := true, pat := true, v := true })]
def gM : Group := { g0 with wins := wins0, queue := [b0], vreg := (List.range 32).map (fun l => (32 * 4 + l, 0x10100#32)) ++ (List.range 32).map (fun l => (32 * 6 + l, 0x100#32)) }
/-- Fields of a memory instruction: register 0, an address register, a window, an address mode. -/
def mA (va win am : Nat) (ty : Ty) (sz : Nat) : MArgs := ⟨0, va, 2, sz, 3, 0, ty, 0, 0, win, am, 0, 0, 0, 0, false, true⟩
/-- The places of the accesses. -/
def plOf (q : LaneAccessForm) (l : Nat) : Place :=
  match q.form, q.dome with
  | .scratch, _ => .scratch 0 (2 ^ 20 + 0x100)
  | .window, true => .phys (3 * 2 ^ 40 + 0x100) 0x50000 5 1
  | .window, false => if l < 32 then at0 0x10100 else at0 0x10100
  | .pair, _ => at0 0x10100

theorem witness_laneAccessesIssue : (∀ q ∈ loadStoreForms (mA 6 1 0 .i32 4), q.form = .window → q.dome = false → (st gM).refill gM 1 = gM ∧ LaneReady (st gM) gM 0 q.reads q.writes [] [] ∧
      LaneFits (st gM) gM (mA 6 1 0 .i32 4) q (fun l => gM.laneOffset q.form 6 0 l) q.size (plOf q)) ∧
    (∀ q ∈ loadStoreForms (mA 6 2 0 .i32 4), q.dome = true ∨ q.form = .scratch → LaneReady (st gM) gM 0 q.reads q.writes [] [] ∧
      LaneFits (st gM) gM (mA 6 2 0 .i32 4) q (fun l => gM.laneOffset q.form 6 0 l) q.size (plOf q)) ∧
    (∀ q ∈ loadStoreForms (mA 4 1 1 .i32 5), q.form = .pair → LaneReady (st gM) gM 0 q.reads q.writes [] [] ∧
      LaneFits (st gM) gM (mA 4 1 1 .i32 5) q (fun l => gM.laneOffset q.form 4 0 l) q.size (plOf q)) := by
  unfold LaneReady LaneFits; decide +kernel

theorem witness_laneAccessesIssue_atomics :
    (∀ q ∈ laneAtomicForms (mA 6 2 0 .f32 0), LaneReady (st gM) gM 0 q.reads q.writes [] [] ∧
      LaneFits (st gM) gM (mA 6 2 0 .f32 0) q (fun l => gM.laneOffset q.form 6 0 l) q.size (fun _ => .phys (3 * 2 ^ 40 + 0x100) 0x50000 5 1)) ∧
    (LaneReady (st gM) gM 0 [6] [] [] [] ∧ LaneReady (st gM) gM 0 [] [] [] []) ∧
    (let x := { gM with interval := true, vreg := [] }; LaneReady (st x) x 0 [2, 3] [0, 1] [] [] ∧ (∀ l, l < 32 → (x.vr 2 l == x.vr 3 l) = true) ∧
      ∀ q ∈ loadStoreForms (mA 2 1 0 .i32 4), q.instr ∈ [Instr.vld (mA 2 1 0 .i32 4), .vlds (mA 2 1 0 .i32 4)] →
        LaneFits (st x) x (mA 2 1 0 .i32 4) q (fun l => ((x.vr 2 l).toNat : Int) + sext 16 0) 4 (fun _ => if q.form = .scratch then .scratch 0 (2 ^ 20) else at0 0x10000)) ∧
    (let x := { gM with queue := [{ b0 with mask := 0#32 }] }; LaneReady (st x) x 0 [6] [0] [] [] ∧ x.active 0 = 0#32) := by
  unfold LaneReady LaneFits; decide +kernel

theorem witness_laneAccessesIssue_ordered : (let a := mA 6 2 0 .f32 0; let x := gM.fixOrd.1; let s0 := (st gM).setGrp 1 x;
    LaneReady (st gM) gM 0 (formRegs (formOf a.am) a.va ++ regsOf a.ty a.vb) [] [] [] ∧ ¬(a.rm = 6 ∧ fmtRM gM.head.fmt = 5) ∧ gM.head.ordq = none ∧ x.active a.msk ≠ 0#32 ∧
    LaneFits s0 x a ⟨.vatomOrd a, formOf a.am, true, .at_, tyWidth a.ty / 8, [], [], .ordered a.md a.ty a.rm gM.ordq, .s, .none, false, decide (2 ≤ a.ord), fun y l => y.elem a.ty a.vb l, fun _ _ => 0, fun _ => false⟩
      (fun l => x.laneOffset (formOf a.am) a.va a.im l) 4 (fun _ => .phys (3 * 2 ^ 40 + 0x100) 0x50000 5 1) ∧ (s0.ordKey x).2.length ≤ 8 ∧ (st gM).refill gM 2 = gM ∧ s0.launches.length = 1 ∧ l0.ords = []) := by
  unfold LaneReady LaneFits; decide +kernel

/-- Two lanes' access of a kind in flight at 0x10100 and 0x10104, and its group. -/
def pendV0 (k : AccessKind) (d : Dest) : Pend :=
  { id := 1, lane := true, cls := some .l, kind := k, dest := d, parts := [{ lane := 0, va := 0x10100, place := at0 0x10100, size := 4, x := 7 }, { lane := 31, va := 0x10104, place := at0 0x10104, size := 4, x := 8 }] }
def gPV (k : AccessKind) (d : Dest) : Group := { g0 with pend := [pendV0 k d], ops := [⟨1, .l, false⟩], seq := 1 }
/-- The home of a part, with nothing in motion. -/
def homeV (a : Part) : Nat := if a.lane = 0 then 2 ^ 40 + 0x20100 else 2 ^ 40 + 0x20104

theorem laneInFlight_gPV (k : AccessKind) (d : Dest) (hw : ∀ q ∈ (gPV k d).pend, (∀ a ∈ (pendV0 k d).parts, mustWait [] 0 (gPV k d).pend (pendV0 k d) q (some a) = false) ∧ mustWait [] 0 (gPV k d).pend (pendV0 k d) q none = false)
    (hs : ∀ a ∈ (pendV0 k d).parts, a.done = false ∧ (st (gPV k d)).served 0 a = true) : LaneInFlight (st (gPV k d)) 1 (gPV k d) (pendV0 k d) homeV := by
  refine ⟨rfl, List.mem_singleton.mpr rfl, Nat.one_ne_zero, fun q hq _ => List.mem_singleton.mp hq, rfl, fun a ha => ⟨(hs a ha).1, (hs a ha).2, fun q hq => (hw q hq).1 a ha, ?_⟩, fun q hq => (hw q hq).2⟩
  simp only [pendV0, List.mem_cons, List.not_mem_nil, or_false] at ha
  obtain rfl | rfl := ha
  · exact ⟨_, _, _, _, rfl, rfl⟩
  · exact ⟨_, _, _, _, rfl, rfl⟩

theorem witness_laneAccessesComplete : LaneInFlight (st (gPV .load (.vreg 8 4))) 1 (gPV .load (.vreg 8 4)) (pendV0 .load (.vreg 8 4)) homeV ∧
    LaneInFlight (st (gPV .store .none)) 1 (gPV .store .none) (pendV0 .store .none) homeV ∧
    LaneInFlight (st (gPV (.atomic 0 .f32 0) (.vold 8 false))) 1 (gPV (.atomic 0 .f32 0) (.vold 8 false)) (pendV0 (.atomic 0 .f32 0) (.vold 8 false)) homeV ∧
    LaneInFlight (st (gPV (.bank 0 .f32 0) .none)) 1 (gPV (.bank 0 .f32 0) .none) (pendV0 (.bank 0 .f32 0) .none) homeV ∧
    LaneInFlight (st (gPV (.ordered 0 .f32 0 0) .none)) 1 (gPV (.ordered 0 .f32 0 0) .none) (pendV0 (.ordered 0 .f32 0 0) .none) homeV ∧
    (∀ a ∈ (pendV0 .load (.vreg 8 4)).parts, (st g0).lineBad (homeV a) = false ∧ a.size = szBytes 4 ∧ a.lane < 32) ∧ ((pendV0 .load (.vreg 8 4)).parts.map (fun a => a.lane)).Nodup :=
  ⟨laneInFlight_gPV _ _ (by decide +kernel) (by decide +kernel), laneInFlight_gPV _ _ (by decide +kernel) (by decide +kernel), laneInFlight_gPV _ _ (by decide +kernel) (by decide +kernel),
    laneInFlight_gPV _ _ (by decide +kernel) (by decide +kernel), laneInFlight_gPV _ _ (by decide +kernel) (by decide +kernel), by decide +kernel, by decide⟩

theorem witness_laneAccessesComplete_fence : (let p : Pend := { id := 1, lane := true, kind := .fence true }; let x := { g0 with pend := [p] };
    LaneInFlight (st x) 1 x p homeV ∧ p.parts = []) :=
  ⟨⟨rfl, List.mem_singleton.mpr rfl, by decide, fun q hq _ => List.mem_singleton.mp hq, rfl, fun a ha => (by cases ha), by decide +kernel⟩, rfl⟩

/-- A group with room for 32 vector registers, a lane block of the whole mask, in element or in interval mode. -/
def gL (iv : Bool) : Group := { g0 with valloc := 4, salloc := 4, queue := [b0], interval := iv, masks := [(1, 0xFF#32)] }
/-- Fields of a class-1 instruction: registers 0, 4, 8 and 12, the code of a mode, an immediate, and a scalar operand or none. -/
def lA (ty : Ty) (md im : Nat) (sb : Bool) : LArgs := ⟨0, 4, 8, 12, 0, ty, 0, md, 5, im, sb, true⟩

theorem laneReady_gL (iv : Bool) (rs ws ss ds : List Nat) (h : ∀ r ∈ rs ++ ws, r < 32) (k : ∀ r ∈ ss ++ ds, r < 256) : LaneReady (st (gL iv)) (gL iv) 0 rs ws ss ds :=
  ⟨rfl, fun r hr => ⟨h r hr, List.not_mem_nil⟩, fun r hr => ⟨k r hr, fun _ => List.not_mem_nil⟩, fun _ _ _ _ _ => List.not_mem_nil, fun _ _ => List.not_mem_nil, rfl⟩

theorem witness_integerLaneInstructions (ty : Ty) (sb : Bool) : let a := lA ty 0 (16 * 64 + 8) sb; let g := gL false;
    g.interval = false ∧ LaneReady (st g) g 0 (regsOf ty 4 ++ bSources a) (regsOf ty 0) (sSources a) [] ∧ LaneReady (st g) g 0 (regsOf ty 4 ++ bSources a ++ regsOf ty 12) (regsOf ty 0) (sSources a) [] ∧
    LaneReady (st g) g 0 (regsOf ty 4) (regsOf ty 0) [] [] ∧ LaneReady (st g) g 0 (regsOf ty 4 ++ regsOf ty 0) (regsOf ty 0) [] [] ∧ LaneReady (st g) g 0 (bSources a) (regsOf ty 0) (sSources a) [] ∧
    LaneReady (st g) g 0 (regsOf ty 4 ++ bSources a) [] (sSources a) [] ∧ LaneReady (st g) g 0 (regsOf ty 4) [0] [] [] := by
  refine ⟨rfl, laneReady_gL _ _ _ _ _ ?_ ?_, laneReady_gL _ _ _ _ _ ?_ ?_, laneReady_gL _ _ _ _ _ ?_ ?_, laneReady_gL _ _ _ _ _ ?_ ?_, laneReady_gL _ _ _ _ _ ?_ ?_, laneReady_gL _ _ _ _ _ ?_ ?_,
    laneReady_gL _ _ _ _ _ ?_ ?_⟩ <;> cases ty <;> cases sb <;> decide

/-- The bit field of those operands: 16 bits from bit 8, within the width of every integer type of 32 bits or more. -/
theorem witness_integerLaneInstructions_fields : (16 * 64 + 8) % 64 = 8 ∧ (16 * 64 + 8) / 64 % 128 = 16 ∧ 0 < 16 ∧ (∀ ty ∈ [Ty.i32, .n32, .i64, .n64], 8 + 16 ≤ tyWidth ty ∧ ty ∈ intTypes) ∧
    (8 * 64 + 8) / 64 % 128 = 8 ∧ 8 + 8 ≤ tyWidth .i16 ∧ Ty.i16 ∈ intTypes ∧ Ty.f32 ∈ fltTypes ∧ 5 % 8 < 6 ∧ 6 % 8 < 7 := by decide

theorem witness_floatLaneResults (ty : Ty) (sb : Bool) : let a := lA ty 0 0 sb; let g := gL false;
    LaneReady (st g) g 0 (regsOf ty 4 ++ bSources a) (regsOf ty 0) (sSources a) [] ∧ LaneReady (st g) g 0 (regsOf ty 4 ++ bSources a ++ regsOf ty 12) (regsOf ty 0) (sSources a) [] ∧
    LaneReady (st g) g 0 (regsOf ty 4) (regsOf ty 0) [] [] ∧ LaneReady (st g) g 0 [4, 5, 8, 9, 12, 13] [0, 1, 2, 3] [] [] ∧
    LaneReady (st g) g 0 (regsOf ty 4 ++ [0]) (regsOf ty 0) [] [] ∧ LaneReady (st g) g 0 (4 :: (if sb then [] else [8])) [0, 1] (sSources a) [] ∧
    LaneReady (st g) g 0 ([4, 5] ++ (if sb then [] else [8, 9])) [0, 1] (sSources a) [] ∧ LaneReady (st g) g 0 ([4, 12] ++ (if sb then [] else [8])) [0] (sSources a) [] := by
  refine ⟨laneReady_gL _ _ _ _ _ ?_ ?_, laneReady_gL _ _ _ _ _ ?_ ?_, laneReady_gL _ _ _ _ _ ?_ ?_, laneReady_gL _ _ _ _ _ ?_ ?_, laneReady_gL _ _ _ _ _ ?_ ?_, laneReady_gL _ _ _ _ _ ?_ ?_,
    laneReady_gL _ _ _ _ _ ?_ ?_, laneReady_gL _ _ _ _ _ ?_ ?_⟩ <;> cases ty <;> cases sb <;> decide

/-- Terms of a butterfly that do not cancel: 1 * 1 and -(1 * 0) sum to 1. -/
theorem witness_floatLaneResults_butterfly : (match Val.sum .rne [(decodeVal .f32 0 0x3F800000).mul (decodeVal .f32 0 0x3F800000), ((decodeVal .f32 0 0x3F800000).mul (decodeVal .f32 0 0)).negate] with
    | .fin z => z.isZero == false | _ => false) = true := by decide +kernel

theorem witness_crossLaneResults (ty : Ty) (md : Nat) (sb : Bool) (h : md < 16) : let a := lA ty md 31 sb; let g := gL false;
    LaneReady (st g) g 0 (regsOf ty 4 ++ (if md = 0 ∧ sb = false then [8] else [])) (regsOf ty 0) (sSources a) [] ∧ LaneReady (st g) g 0 (if sb then [] else regsOf ty 4) (regsOf ty 0) (sSources a) [] ∧
    LaneReady (st g) g 0 [] (regsOf ty 0) (sSources a) [] ∧ LaneReady (st g) g 0 (if md = 5 then regsOf ty 4 else []) (if md = 7 then [0] else []) (sSources a) [] ∧
    LaneReady (st g) g 0 (regsOf ty 4) [] [] [5] ∧ LaneReady (st g) g 0 (regsOf ty 4) (regsOf ty 0) [] [] := by
  have h' : ∀ md < 16, ∀ r ∈ (regsOf ty 4 ++ (if md = 0 ∧ sb = false then [8] else [])) ++ regsOf ty 0 ++ (if md = 5 then regsOf ty 4 else []) ++ (if md = 7 then [0] else []), r < 32 := by
    cases ty <;> cases sb <;> decide
  have k := h' md h
  simp only [List.mem_append] at k
  refine ⟨laneReady_gL _ _ _ _ _ (fun r hr => k r ?_) ?_, laneReady_gL _ _ _ _ _ ?_ ?_, laneReady_gL _ _ _ _ _ ?_ ?_, laneReady_gL _ _ _ _ _ (fun r hr => k r ?_) ?_, laneReady_gL _ _ _ _ _ ?_ ?_,
    laneReady_gL _ _ _ _ _ ?_ ?_⟩
  · simp only [List.mem_append] at hr; exact .inl (.inl hr)
  · cases sb <;> simp [sSources, lA]
  · cases ty <;> cases sb <;> decide
  · cases sb <;> simp [sSources, lA]
  · cases ty <;> decide
  · cases sb <;> simp [sSources, lA]
  · simp only [List.mem_append] at hr; exact hr.elim (fun q => .inl (.inr q)) .inr
  · cases sb <;> simp [sSources, lA]
  · cases ty <;> decide
  · decide
  · cases ty <;> decide
  · decide

theorem witness_crossLaneResults_masks : (gL false).active 0 ≠ 0#32 ∧ (let x := { gL false with queue := [{ b0 with mask := 0#32 }] }; x.active 0 = 0#32 ∧ LaneReady (st x) x 0 [4] [] [] [5]) :=
  ⟨by decide, by decide, rfl, by decide, by decide, by decide, by decide, rfl⟩

theorem witness_intervals (ty : Ty) (sb : Bool) : let a := lA ty 0 0 sb; let g := gL true; let bs := if a.sb ∨ a.imm then [] else [a.vb, a.vb + 1];
    g.interval = true ∧ g.fz < 3 ∧ a.vd % 2 = 0 ∧ a.va % 2 = 0 ∧ a.vc % 2 = 0 ∧ (a.sb = true ∨ a.imm = true ∨ a.vb % 2 = 0) ∧
    LaneReady (st g) g 0 ([4, 5] ++ bs) [0, 1] (sSources a) [] ∧ LaneReady (st g) g 0 bs [0, 1] (sSources a) [] ∧ LaneReady (st g) g 0 ([4, 5] ++ bs ++ [12, 13]) [0, 1] (sSources a) [] ∧
    LaneReady (st g) g 0 [4, 5] [0, 1] [] [] ∧ LaneReady (st g) g 0 [4, 5, 0, 1] [0, 1] [] [] := by
  refine ⟨rfl, by decide, by show 0 % 2 = 0; decide, by show 4 % 2 = 0; decide, by show 12 % 2 = 0; decide, Or.inr (Or.inr (by show 8 % 2 = 0; decide)), laneReady_gL _ _ _ _ _ ?_ ?_, laneReady_gL _ _ _ _ _ ?_ ?_, laneReady_gL _ _ _ _ _ ?_ ?_, laneReady_gL _ _ _ _ _ ?_ ?_,
    laneReady_gL _ _ _ _ _ ?_ ?_⟩ <;> cases ty <;> cases sb <;> decide

/-- Elements that lie in an interval: 3 in [1, 5] of each integer type, 1.5 in [1, 2]; the signs of the bounds agree; no NaN interval. -/
theorem witness_intervals_members : Ivl.holds .i32 3 ⟨1, 5⟩ ∧ Ivl.holds .n32 3 ⟨1, 5⟩ ∧ Ivl.holds .f32 0x3FC00000 ⟨0x3F800000, 0x40000000⟩ ∧ finite32 0x3FC00000 ∧
    (⟨1, 5⟩ : Ivl).isNan .i32 = false ∧ (⟨1, 5⟩ : Ivl).isNan .n32 = false ∧ (⟨0x3F800000, 0x40000000⟩ : Ivl).isNan .f32 = false ∧ (Ivl.nan .i32).isNan .i32 = true ∧ (1 < 2 ^ 31 ↔ 5 < 2 ^ 31) ∧
    (⟨1, 5⟩ : Ivl).lo ≠ (⟨1, 5⟩ : Ivl).hi := by
  unfold Ivl.holds finite32; decide +kernel

/-- The group of an interval kernel with units on its lanes; m1 and m2 to write. -/
theorem witness_intervalInstructions : (let a : LArgs := ⟨0x21, 4, 8, 12, 0, .i32, 0, 5, 5, 0, false, true⟩; let g := gL true;
      a.md < 6 ∧ LaneReady (st g) g 0 ([4, 5] ++ [8, 9]) [] [] [] ∧ a.vd % 16 ≠ 0 ∧ a.vd / 16 % 16 ≠ 0 ∧ a.vd % 16 ≠ a.vd / 16 % 16 ∧ a.vd < 256) ∧
    (Map.find (st (gL false)).groups (st (gL false)).cur = some (gL false) ∧ (gL false).interval = false) ∧
    LaneReady (st (gL true)) (gL true) 0 ([4, 5] ++ [8, 9]) [0, 1] [] [] ∧ LaneReady (st (gL true)) (gL true) 0 [] [0, 1] [5] [] ∧ LaneReady (st (gL true)) (gL true) 0 [4, 5] [0, 1] [] [] ∧
    LaneReady (st (gL true)) (gL true) 0 [] [0, 1] [] [] ∧ LaneReady (st (gL true)) (gL true) 0 [4, 5] [] [] [5] ∧
    (let x := { gIv with sreg := [(5, 0x400000004#64)], valloc := 4, salloc := 4, queue := [b0] }; LaneReady (st x) x 0 [] [0, 1] [5] [] ∧ (Map.get {} x.lut 0).unit = some ⟨1, 3#64, 0⟩ ∧ (Map.get {} x.lut 2).unit = none ∧
      (∃ i < 16, (x.sr 5).toNat % 2 ^ 32 = 2 ^ i) ∧ 0 < (x.sr 5).toNat / 2 ^ 32 / 2 ^ 0) := by
  refine ⟨⟨by decide, laneReady_gL _ _ _ _ _ (by decide) (by decide), by decide, by decide, by decide, by decide⟩, ⟨rfl, rfl⟩, laneReady_gL _ _ _ _ _ (by decide) (by decide),
    laneReady_gL _ _ _ _ _ (by decide) (by decide), laneReady_gL _ _ _ _ _ (by decide) (by decide), laneReady_gL _ _ _ _ _ (by decide) (by decide), laneReady_gL _ _ _ _ _ (by decide) (by decide), ?_⟩
  unfold LaneReady; decide +kernel

theorem witness_laneInstructionOrder : Map.find (st (gL false)).groups (st (gL false)).cur = some (gL false) ∧
    (let x := gL true; Map.find (st x).groups 1 = some x ∧ x.interval = true ∧ Ty.i64 ∉ [Ty.i32, .n32, .f32]) ∧ (let x := { gL false with valloc := 1 }; Map.find (st x).groups 1 = some x ∧ ¬ 8 < 8 * x.valloc) ∧
    (let x := { gL false with pend := [pendV0 .load (.vreg 4 4)] }; Map.find (st x).groups 1 = some x ∧ 4 ∈ x.pendV) ∧
    (let x := { gL false with verr := [32 * 4 + 31] }; Map.find (st x).groups 1 = some x ∧ (x.active 0).getLsbD 31 = true ∧ 32 * 4 + 31 ∈ x.verr ∧ (x.active 0).getLsbD 0 = true ∧ 32 * 4 + 0 ∉ x.verr) ∧
    (let x := { gL false with verr := [32 * 4 + 31], queue := [{ b0 with mask := 0x80000000#32 }] }; Map.find (st x).groups 1 = some x ∧ ∀ l, l < 32 → (x.active 0).getLsbD l = true → 32 * 4 + l ∈ x.verr) ∧
    (let x := { gL false with serr := [5] }; Map.find (st x).groups 1 = some x ∧ x.interval = false ∧ x.pendV = [] ∧ x.pendS = [] ∧ 5 < 64 * x.salloc ∧ sSources (lA .i32 0 0 true) = [5] ∧ 5 ∈ x.serr ∧ 4 < 8 * x.valloc) := by
  decide +kernel

theorem witness_roundingCorrect : tyIsFloat .f32 = true ∧ (let v : Exact := { neg := false, m := 1, e := -1, more := false }; v.more = false ∧ v.m ≠ 0 ∧ ((decodeVal .f32 0 (maxEnc .f32)).exact.lt { v with neg := false }) = false) ∧
    (let v := (decodeVal .f32 0 (maxEnc .f32)).exact; v.more = false ∧ v.m ≠ 0 ∧ (v.lt { v with neg := false }) = false) := by
  decide +kernel

theorem witness_specialResults : tyIsFloat .e4m3 = true ∧ (let v : Exact := { neg := false, m := 1, e := -150, more := false }; v.m ≠ 0 ∧ v.e + (Nat.log2 v.m : Int) < 1 - ((tyFmt .f32).bias : Int)) ∧
    (let v : Exact := { neg := false, m := 1, e := 9, more := false }; v.m ≠ 0 ∧ v.e + (Nat.log2 v.m : Int) = 9) ∧ (let v : Exact := { m := 1, e := 129, neg := true, more := false }; v.m ≠ 0 ∧ v.e + (Nat.log2 v.m : Int) = ((2 ^ (tyFmt .f32).ebits : Nat) : Int) - ((tyFmt .f32).bias : Int)) ∧
    (∃ v ∈ [Val.nan true, .inf false], v.isNan = true) ∧ ((∀ v ∈ [Val.inf false, .inf true], v.isNan = false) ∧ Val.inf false ∈ [Val.inf false, .inf true] ∧ Val.inf true ∈ [Val.inf false, .inf true]) ∧
    ({ neg := false, m := 0, e := 0, more := false } : Exact).isZero = true ∧ ({ m := 1, e := 0, neg := true, more := false } : Exact).isZero = false := by
  decide +kernel

/-- Fields of a class-5 instruction: tiles zd, 1 and 2, the shape 32 by 32, a type, a mode, the scalar s5, a window. -/
def tA (zd : Nat) (ty bt : Ty) (md win : Nat) : TArgs := ⟨zd, 1, 2, 4, 0, 0, ty, 0, md, 5, 0, win, bt, true⟩
/-- A group with windows and a scratch offset in s5. -/
def gTile : Group := { gL false with wins := wins0, sreg := [(5, 128#64)] }
/-- The rows of a form, at their places. -/
def rowParts (rs : List LaneAcc) : List Part := rs.map (fun c => { lane := c.lane, va := c.va, size := c.size, place := match c.res with | .ok p => p | _ => .scratch 0 0 })

theorem witness_tileInstructionsEnter_ready : gTile.interval = false ∧ gTile.verr = [] ∧ (st gTile).refill gTile 1 = gTile ∧ (st gTile).refill gTile 2 = gTile ∧ ∀ q ∈ tileForms (tA 0 .n32 .n32 0 1), LaneReady (st gTile) gTile 0 q.vregs [] q.sregs [] := by
  unfold LaneReady; decide +kernel

theorem witness_tileInstructionsEnter :
    (∀ q ∈ tileForms (tA 0 .n32 .n32 0 1), q.kind ≠ .tmerge → let o := (st gTile).tileOpOf gTile q.kind (tA 0 .n32 .n32 0 1) (q.vec gTile);
      (∀ z ∈ o.namedZ, z < 16) ∧ o.wide = false ∧ (q.conv = true → gTile.head.mask = 0xFFFFFFFF#32) ∧ q.pre (st gTile) o = none ∧
      (let ps := rowParts (q.rows (st gTile) gTile); (q.rows (st gTile) gTile).map (fun c => c.res) = ps.map (fun p => .ok p.place) ∧
        (q.rows (st gTile) gTile).map (fun c => (c.lane, c.va, c.size)) = ps.map (fun p => (p.lane, p.va, p.size)) ∧ ps.map (fun p => ({ lane := p.lane, va := p.va, place := p.place, size := p.size } : Part)) = ps ∧
        (st gTile).issueCheck 0 gTile.strict ((st gTile).inWindow gTile) ((st gTile).tileCosts { o with rows := ps }) = .ok ∧
        (∀ h ∈ o.halvesUsed, ((st gTile).halfQueue o.core h).length < 16) ∧ gTile.count .t < 31)) ∧
    (∀ q ∈ tileForms (tA 0 .n32 .n32 0 2), q.kind = .tmerge → let o := (st gTile).tileOpOf gTile q.kind (tA 0 .n32 .n32 0 2) (q.vec gTile);
      (let ps := rowParts (q.rows (st gTile) gTile); (q.rows (st gTile) gTile).map (fun c => c.res) = ps.map (fun p => .ok p.place) ∧
        (st gTile).issueCheck 0 gTile.strict ((st gTile).inWindow gTile) ((st gTile).tileCosts { o with rows := ps }) = .ok)) := by
  decide +kernel

theorem witness_tileInstructionsEnter_causes :
    (∀ q ∈ tileForms (tA 16 .n32 .n32 0 1), q.kind = .tzero → ∃ z ∈ ((st gTile).tileOpOf gTile q.kind (tA 16 .n32 .n32 0 1) []).namedZ, 16 ≤ z) ∧
    (let x := { gTile with queue := [{ b0 with mask := 1#32 }] }; x.head.mask ≠ 0xFFFFFFFF#32 ∧ ∃ q ∈ tileForms (tA 0 .n32 .n32 0 1), q.conv = true) ∧
    (let x := { gTile with sreg := [(5, 129#64)] }; ∃ q ∈ tileForms (tA 0 .f16 .f16 0 1), q.pre (st x) ((st x).tileOpOf x q.kind (tA 0 .f16 .f16 0 1) (q.vec x)) = some 0x12) ∧
    (let s := { st gTile with halves := [(0, List.replicate 16 9)] }; ¬ ∀ h ∈ (s.tileOpOf gTile .tzero (tA 0 .n32 .n32 0 1) []).halvesUsed, (s.halfQueue 0 h).length < 16) := by
  decide +kernel

/-- A tile operation, the only one, at the head of half 0 of core 0, and its device. -/
def opT (k : TileKind) (ty bt : Ty) (md : Nat) (ph : TilePhase) : TileOp :=
  { kind := k, args := tA 0 ty bt md 2, group := 1, launch := 1, opId := 1, charge := 1, phase := ph, fmt := 0x08840000#32, sval := 128#64, vec := List.replicate 32 0#32
    scrBase := 2 ^ 20, scrSize := 2048, rows := rowParts ((st gTile).rowAccesses gTile (tA 0 ty bt 0 1) .rd) }
/-- The device. -/
def dT (o : TileOp) : State := { st gTile with tileOps := [(1, o)], halves := [(0, [1])] }

theorem cleanOp_of (s : State) (o : TileOp) (h : s.tileErr = [] ∧ s.scrErr = [] ∧ (s.grp o.group).ctx = o.ctx)
    (k : ∀ p ∈ o.rows, s.served o.ctx p = true ∧ (match p.place with | .phys pa page _ gen => s.lineBad (homeOf o.ctx page gen pa s.moves) == false | _ => false) = true) : CleanOp s o := by
  refine ⟨h.1, h.2.1, h.2.2, fun p hp => (k p hp).1, fun p hp => ?_⟩
  have := (k p hp).2
  split at this
  · next pa page typ gen e => exact ⟨pa, page, typ, gen, e, by simpa using this⟩
  · cases this

theorem witness_tileOperationsComplete : (∀ o ∈ [opT .tld .n32 .n32 0 .running, opT .tst .n32 .n32 0 .running, opT .tzero .n32 .n32 0 .running, opT .tcvt .f32 .f16 0 .running, opT .tadd .f32 .f32 0 .running,
      opT .tmma .f16 .f16 1 .running, opT .tmmq .q8 .q8 6 .running, opT .tmerge .f32 .f32 0 .running, opT .sigz .f32 .f32 0 .running, opT .sigx .f32 .f32 0 .running],
      Map.find (dT o).tileOps 1 = some o ∧ o.phase = .running ∧ o.spanF = false ∧ o.charge ≠ 0 ∧ o.mism = [] ∧ (dT o).gatherClear o = true ∧ o.args.shp / 8 < 3 ∧ o.halvesUsed.Nodup ∧ 1 ≤ o.sigdim ∧ modeOf o.args.rm o.fmt ≠ .rst) ∧
    (opT .tld .n32 .n32 0 .running).rows.length = 8 * (opT .tld .n32 .n32 0 .running).rowsM ∧ tyWidth .f16 ≤ 32 ∧ (dT (opT .tmmq .q8 .q8 6 .running)).paramBad (opT .tmmq .q8 .q8 6 .running) (opT .tmmq .q8 .q8 6 .running) = false ∧
    ((opT .tst .n32 .n32 0 .running).rows.zipIdx.all (fun p => p.1.lane == p.2 / 8 && p.1.size == 16)) = true := by
  decide +kernel

theorem witness_tileOperationsComplete_clean : CleanOp (dT (opT .tld .n32 .n32 0 .running)) (opT .tld .n32 .n32 0 .running) ∧ CleanOp (dT (opT .tst .n32 .n32 0 .running)) (opT .tst .n32 .n32 0 .running) :=
  ⟨cleanOp_of _ _ ⟨rfl, rfl, rfl⟩ (by decide +kernel), cleanOp_of _ _ ⟨rfl, rfl, rfl⟩ (by decide +kernel)⟩

/-- A parameter word that is malformed, and a merge: the object at the dome window's base, its TURN, 32 rows of 128 bytes. -/
def opMerge (n : Nat) : TileOp := { opT .tmerge .f32 .f32 0 .running with sval := BitVec.ofNat 64 n, rows := rowParts ((st gTile).mergeAccesses gTile (tA 0 .f32 .f32 0 2)) }
/-- The device, with TURN. -/
def dMerge (n turn : Nat) : State := { dT (opMerge n) with mem := setLE mem0 (3 * 2 ^ 40) 8 turn }

theorem witness_tileOperationsComplete_merge : (∃ ob rest, (opMerge 3).rows = ob :: rest ∧ getLE (dMerge 3 3).mem ((dMerge 3 3).homeAt 0 0 ob) 8 = (opMerge 3).sval.toNat ∧ (∀ p ∈ rest, p.size = 128) ∧
      (opMerge 3).sval.toNat < getLE (dMerge 3 4).mem ((dMerge 3 4).homeAt 0 0 ob) 8 ∧ (dMerge 3 4).lineBad ((dMerge 3 4).homeAt 0 8 ob) = false) ∧
    (let o := opT .tmmq .q8 .q8 0 .running; let s := { dT o with scratch := [(scrKey 0 (2 ^ 20 + 255), 0xFF#8)] }; s.paramBad o o = true ∨ s.paramBad o o = false) :=
  ⟨⟨_, _, rfl, by decide +kernel⟩, by decide +kernel⟩

theorem witness_tileOperationsScheduled : (let o := opT .tzero .n32 .n32 0 .queued; let s := dT o; Map.find s.tileOps 1 = some o ∧ o.charge ≠ 0 ∧ (∀ h ∈ o.halvesUsed, (s.halfQueue o.core h).head? = some 1) ∧ (s.ctx o.ctx).st = .running ∧
      s.tileSources o = true ∧ s.behindParked 1 o = false ∧ s.behindOwn o = false ∧ o.spanF = false ∧ o.kind ≠ .tmerge) ∧
    (let o := { opMerge 3 with phase := .queued }; let s := { dMerge 3 2 with tileOps := [(1, o)] }; s.tileSources o = true ∧ s.behindParked 1 o = false ∧ s.behindOwn o = false ∧ s.objectBad o = false ∧ o.kind = .tmerge ∧ s.turnOf o < o.sval.toNat) ∧
    (let o := { opMerge 3 with phase := .parked }; let s := { dMerge 3 3 with tileOps := [(1, o)], halves := [] }; o.kind = .tmerge ∧ o.phase = .parked ∧ o.sval.toNat = s.turnOf o ∧ (s.ctx o.ctx).st = .running ∧ s.halvesIdle o = true ∧
      s.issueCheck o.ctx false true (s.tileCosts o) = .ok) ∧
    (let o := opT .tzero .n32 .n32 0 .waiting; let s := { dT o with halves := [(0, [2])], tileOps := [(1, o), (2, opT .tzero .n32 .n32 0 .running)] }; o.phase = .waiting ∧ o.spanF = false ∧ ¬(s.halvesIdle o = true ∧ s.issueCheck o.ctx false true (s.tileCosts o) = .ok)) := by
  decide +kernel

theorem witness_tileOperationsScheduled_span : (let o := { opT .tmma .f16 .f16 8 .parked with span := some 0 }; let s := { dT o with halves := [] }; o.spanF = true ∧ s.gathered o = true ∧ s.instanceOf o = [(1, o)] ∧ s.tileSources o = true ∧ s.gatherClear o = true ∧ s.matRecs o o = [] ∧ (s.ctx o.ctx).st = .running ∧ Map.find s.tileOps 1 = some o ∧
      o.args.zd < 16 ∧ o.args.shp / 8 < 3 ∧ s.leads o = true ∧ (s.chargeAll [(1, o)]).isSome = true) ∧
    (let o := { opT .tmma .f16 .f16 8 .parked with span := some 0 }; let s := { dT o with tileOps := [(1, o), (2, opT .tzero .n32 .n32 0 .running)], halves := [(0, [2])] }; s.instanceOf o = [(1, o)] ∧ (s.chargeAll [(1, o)]).isSome = false) ∧
    (let o := { opT .tmma .f16 .f16 8 .running with span := some 0 }; o.phase = .running ∧ o.spanF = true ∧ o.halvesUsed.Nodup ∧ ∀ p ∈ o.rows, (dT o).served o.ctx p = true) ∧
    (let o := opMerge 3; let s := { dMerge 3 2 with tileOps := [(1, { o with phase := .parked })], launches := [(1, { l0 with cancelled := true })] }; s.cancelled o.launch = true) := by
  decide +kernel

/-- A group that copies 16 bytes from 0x1E000 to 0x1E800, and a copy of those bytes. -/
def gC (n : Nat) : Group := { g0 with sreg := [(5, 0x1E800#64), (6, 0x1E000#64), (7, BitVec.ofNat 64 n), (8, 1#64)] }
/-- The fields of the instruction. -/
def aC : AArgs := ⟨4, 5, 6, 7, .i32, 0, 0, 8, false, 0, true⟩
/-- The copy. -/
def copy0 (moved : Nat) : Copy := { launch := some 1, group := some 1, handle := 1, src := 0x1E000, dst := 0x1E800, n := 16, moved := moved, opId := 1, charge := 1, core := 0 }
/-- Its device. -/
def dC (c : Copy) : State := { st { g0 with handles := [(1, { kind := 1, obj := 1 })] } with copies := [(1, c)] }

theorem witness_copiesIssue : (st (gC 16)).memQueued (gC 16) = false ∧ ((st (gC 16)).lau 1).lid < 2 ^ 16 ∧ (gC 16).gid < 2 ^ 10 ∧ (gC 16).hseq < 2 ^ 34 ∧
    (ScalarReady (st (gC 16)) (gC 16) [5, 6, 7] [4] [] ∧ ScalarReady (st (gC 16)) (gC 16) [5, 6, 7, 8, 9, 10] [4] [] ∧ (st (gC 16)).copyCause ((st (gC 16)).copyOf 1 (gC 16) aC false) (2 ^ 36) 2048 = none ∧
      (st (gC 16)).copyCause ((st (gC 16)).copyOf 1 (gC 16) aC true) (2 ^ 24) 2048 = none ∧ ((st (gC 16)).outstanding 0).length < 256 ∧ (gC 16).count .c < 31 ∧
      (st (gC 16)).issueCheck 0 (gC 16).strict ((st (gC 16)).inWindow (gC 16)) ((st (gC 16)).copyCosts ((st (gC 16)).copyOf 1 (gC 16) aC false)) = .ok ∧
      (st (gC 16)).issueCheck 0 (gC 16).strict ((st (gC 16)).inWindow (gC 16)) ((st (gC 16)).copyCosts ((st (gC 16)).copyOf 1 (gC 16) aC true)) = .ok) ∧
    (ScalarReady (st (gC 0)) (gC 0) [5, 6, 7] [4] [] ∧ (st (gC 0)).copyCause ((st (gC 0)).copyOf 1 (gC 0) aC false) (2 ^ 36) 2048 = none) ∧
    (ScalarReady (st (gC (2 ^ 36 + 1))) (gC (2 ^ 36 + 1)) [5, 6, 7] [4] [] ∧ ¬ ((gC (2 ^ 36 + 1)).sr 7).toNat ≤ 2 ^ 36) ∧
    (ScalarReady (st (gC 0x801)) (gC 0x801) [5, 6, 7] [4] [] ∧ 0 < 0x801 ∧ 0x1E000 < 0x1E800 + 0x801 ∧ 0x1E800 < 0x1E000 + 0x801) := by
  unfold ScalarReady; decide +kernel

theorem witness_copiesIssue_full : (let s := { st (gC 16) with copies := (List.range 256).map (fun k => (k, copy0 0)) }; 256 ≤ (s.outstanding 0).length) := by
  decide +kernel

theorem witness_copyEngine : (let c := copy0 0; let s := dC c; Map.find s.copies 1 = some c ∧ c.charge ≠ 0 ∧ c.ahead = 0 ∧ c.status = 0 ∧ c.suspended = false ∧ (s.ctx c.ctx).st = .running ∧ s.copySources c = true ∧ c.moved < c.total ∧ 0 < c.n ∧
      s.copyPlace c 0x1E000 .rd = .ok (at0 0x1E000) ∧ s.copyPlace c 0x1E800 .wr = .ok (at0 0x1E800) ∧ s.served 0 { va := 0x1E000, place := at0 0x1E000, size := 8 } = true ∧ s.served 0 { va := 0x1E800, place := at0 0x1E800, size := 8 } = true ∧ s.lineBad (2 ^ 40 + 0x2E000) = false ∧
      rowAt c.src c.sstride 0 = 0x1E000 ∧ rowAt c.dst c.dstride 0 = 0x1E800 ∧ Map.find s.groups 1 = some { g0 with handles := [(1, { kind := 1, obj := 1 })] }) ∧
    (let c := { copy0 0 with src := 0x20000 }; let s := dC c; s.copySources c = true ∧ s.copyPlace c 0x20000 .rd = .missing 0x20000 ∧ (s.ctx 0).fq.size = 0#64 ∧
      ({ s with ctxs := [(0, { c0 with fq := { size := 64#64 } })] }.ctx 0).fq.size ≠ 0#64) ∧
    (let c := { copy0 0 with src := 0x40000 }; let s := dC c; s.copySources c = true ∧ s.copyPlace c 0x40000 .rd = .cause 0x15) ∧
    (let c := copy0 16; c.moved = c.total ∧ c.firstBad = none ∧ { c with firstBad := some 0x1E800 }.firstBad = some 0x1E800) ∧
    (let c := { copy0 8 with suspended := true }; let s := dC c; c.pfPage = none ∧ s.issueCheck 0 false true (s.copyCosts c) = .ok) ∧
    (let x := { g0 with stalled := true }; Map.find (st x).groups 1 = some x ∧ ((st x).outstanding x.ctx).length < 256) := by
  decide +kernel

/-- A device of three ranks in a chain, of which it is rank 1: the record of communicator 0 at 0x1D000, its peer table at 0x1D800, routes to devices 1 and 2 through port 0. -/
def memC : List Host.Cell :=
  let m1 := setLE mem0 (2 ^ 40 + 0x2D000) 10 (1 + 2 ^ 32 * 3 + 2 ^ 48 * 1)
  let m2 := setLE (setLE m1 (2 ^ 40 + 0x2D020) 8 0x10000) (2 ^ 40 + 0x2D028) 8 0x1D800
  let m3 := setLE (setLE m2 (2 ^ 40 + 0x2D102) 1 1) (2 ^ 40 + 0x2D800) 2 1
  let m4 := setLE m3 (2 ^ 40 + 0x2D820) 2 2
  setLE m4 (2 ^ 40 + 0x2F008) 16 ((2 ^ 64 + 1) * (2 ^ 63 + 2 ^ 32 + 0x0F0F0F10))
/-- The record as read. -/
def comm3 : Comm := { r := 3, rank := 1, root := 0, parents := [0, 0, 1], slotBase := 0x10000, peerTab := 0x1D800 }
/-- The fields of a `coll` of a kind, with a tile operand. -/
def aK (md : Nat) : AArgs := ⟨4, 5, 0, 7, .i32, 0, md, 6, true, 0, true⟩
/-- A join and an instance of it, started or not. -/
def join0 (md : Nat) : CollJoin := { group := 1, opId := 1, hseq := 1, args := aK md, rec_ := comm3, count := 4 }
/-- The instance. -/
def coll0 (md : Nat) (started : Bool) : Coll := { launch := 1, block := 1, joined := [join0 md], started := started, lead := join0 md }
/-- A chunk from rank 2, a part of 16 bytes. -/
def chunk0 (check : List Nat) : SlotChunk := { comm := 0, src := 2, msg := ⟨0, true, 0, 0, 0, check, List.replicate 16 1#8⟩ }
/-- The device with an instance. -/
def dK (i : Coll) (ws : List SlotChunk) : State :=
  { dev { c0 with commbase := 0x1D000#64, ffab := [(0, 64#64)], commSeq := [(0, 1)] } l0 { g0 with handles := [(1, { kind := 2, obj := 1 })], sreg := [(6, 0x1FF000000000000#64)] } with
    mem := memC, rtbase := BitVec.ofNat 64 (2 ^ 40 + 0x2F000), ports := [(0, { up := true, en := true })], colls := [(1, i)], slotChunks := ws }

/-- Bytes that are all zero are one read of zero. -/
theorem allZero (s : State) (c o n : Nat) : (List.range n).all (fun i => s.vRead c (o + i) 1 == 0) = (s.vRead c o n == 0) := by
  induction n generalizing o with
  | zero => rfl
  | succ n ih =>
    have h : (List.range n).all (fun i => s.vRead c (o + (i + 1)) 1 == 0) = (s.vRead c (o + 1) n == 0) := by
      rw [← ih (o + 1)]; congr 1; funext i; rw [Nat.add_right_comm, Nat.add_assoc]
    rw [List.range_succ_eq_map, List.all_cons, List.all_map]
    simp only [Function.comp_def, Nat.succ_eq_add_one, h]
    simp only [State.vRead, Nat.add_zero, Nat.mul_zero]
    rw [Bool.eq_iff_iff]
    simp only [Bool.and_eq_true, beq_iff_eq]
    omega

/-- A group with an object in s6 and a communicator in s9, and the device of the instance with it. -/
def gK (obj k : Nat) : Group := { g0 with sreg := [(6, BitVec.ofNat 64 obj), (9, BitVec.ofNat 64 k)] }
def dKx (x : Group) : State := { dK (coll0 8 true) [] with groups := [(1, x)] }

theorem witness_collIssue_ready : ∀ x ∈ [gK 0x1FF000000000000 0, gK 0x1FF000000000004 0, gK 0 1], (ScalarReady (dKx x) x [5, 0, 7, 6] [4] [] ∧ ScalarReady (dKx x) x [5, 9, 7, 6] [4] [] ∧ (dKx x).memQueued x = false ∧ x.count .k < 31) ∧
    ((aK 8).til = true ∧ (aK 8).md ≠ 9 ∧ 16 ≤ { aK 8 with zt := 16 }.zt) := by
  unfold ScalarReady; decide +kernel

/-- The record that the instruction names, and its reserved bytes. -/
theorem comm_gK (o : Nat) (h : o = 0x1FF000000000000 ∨ o = 0x1FF000000000004) : (dKx (gK o 0)).readComm (gK o 0).ctx ((gK o 0).sr (aK 8).sb).toNat = some comm3 ∧
    (dKx (gK o 0)).commClean (gK o 0).ctx ((gK o 0).sr (aK 8).sb).toNat comm3 = true := by
  simp only [State.commClean, allZero]
  simp only [State.readComm, vRead_fast]
  obtain rfl | rfl := h <;> decide +kernel

theorem witness_collIssue : (∃ j, (dKx (gK 0x1FF000000000000 0)).collCheck (gK 0x1FF000000000000 0) (aK 8) = .ok j ∧
      ((dKx (gK 0x1FF000000000000 0)).collPrice 0 0 j).top ≤ ((dKx (gK 0x1FF000000000000 0)).ctx 0).checkBound - 700) ∧
    ((dKx (gK 0 1)).readComm 0 1).isNone = true ∧ (dKx (gK 0x1FF000000000004 0)).collCheck (gK 0x1FF000000000004 0) (aK 8) = .error 0x12 := by
  have hv : comm3.valid = true := by decide +kernel
  refine ⟨⟨(dKx (gK 0x1FF000000000000 0)).collJoinOf (gK 0x1FF000000000000 0) (aK 8) comm3, ?_, by decide +kernel⟩, ?_, ?_⟩
  · have hb : ((dKx (gK 0x1FF000000000000 0)).collJoinOf (gK 0x1FF000000000000 0) (aK 8) comm3).broken ((dKx (gK 0x1FF000000000000 0)).blockOf (gK 0x1FF000000000000 0)).wide = false ∧
        objectCause ((gK 0x1FF000000000000 0).sr (aK 8).ss).toNat ((dKx (gK 0x1FF000000000000 0)).scrSize (gK 0x1FF000000000000 0)) = none ∧ (comm3.kdesc != ((dKx (gK 0x1FF000000000000 0)).lau (gK 0x1FF000000000000 0).launch).lr.kdesc) = false ∧
        (comm3.bid != ((dKx (gK 0x1FF000000000000 0)).blockOf (gK 0x1FF000000000000 0)).bid) = false := by decide +kernel
    simp only [State.collCheck, (comm_gK _ (.inl rfl)).1, (comm_gK _ (.inl rfl)).2, hb.1, hb.2.1, hb.2.2.1, hb.2.2.2, hv]
    rfl
  · simp only [State.readComm, vRead_fast]; decide +kernel
  · have hb : ((dKx (gK 0x1FF000000000004 0)).collJoinOf (gK 0x1FF000000000004 0) (aK 8) comm3).broken ((dKx (gK 0x1FF000000000004 0)).blockOf (gK 0x1FF000000000004 0)).wide = false ∧
        objectCause ((gK 0x1FF000000000004 0).sr (aK 8).ss).toNat ((dKx (gK 0x1FF000000000004 0)).scrSize (gK 0x1FF000000000004 0)) = some 0x12 ∧ (comm3.kdesc != ((dKx (gK 0x1FF000000000004 0)).lau (gK 0x1FF000000000004 0).launch).lr.kdesc) = false ∧
        (comm3.bid != ((dKx (gK 0x1FF000000000004 0)).blockOf (gK 0x1FF000000000004 0)).bid) = false := by decide +kernel
    simp only [State.collCheck, (comm_gK _ (.inr rfl)).1, (comm_gK _ (.inr rfl)).2, hb.1, hb.2.1, hb.2.2.1, hb.2.2.2, hv]
    rfl

theorem witness_collectives_start : (let i := coll0 0 false; let s := dK i []; Map.find s.colls 1 = some i ∧ (s.ctx i.ctx).st = .running ∧ i.started = false ∧ s.collReady i = true ∧ (∀ m ∈ i.joined, m = join0 0) ∧ s.tileErr = []) ∧
    (let i := { coll0 0 true with got := [(chunkName true 0 0 0, 1)], have_ := [(chunkName false 0 0 0, [])], sent := [⟨chunkName true 0 0 0, 0, 2, true⟩, ⟨chunkName false 0 0 0, 2, 3, true⟩] }; i.failed = none ∧ i.allDone = true) ∧
    ({ coll0 0 true with failed := some 1 }.failed = some 1) ∧ (let i := { coll0 0 true with failed := some 0x14 }; i.failed ≠ none ∧ ∀ e ∈ i.sent, e.arrived = true) ∧
    (((coll0 0 true).joined.map (fun n => n.group)).Nodup) := by
  decide +kernel

theorem witness_collectives_depart : (let i := { coll0 0 true with got := [(chunkName true 0 0 0, 1)], red := [(chunkName true 0 0 0, List.replicate 16 2#8)] }; let s := dK i []; let v : CStep := { up := true, tos := [0] };
      s.nextStep i = some v ∧ s.stepServed i v = true ∧ v.tos = [0] ∧ (match s.stepData i v with | some (.ok bs) => bs.length == 16 | _ => false) = true ∧ (∀ kv ∈ s.colls, kv.1 = 1 ∨ s.nextStep kv.2 = none) ∧
      s.peerOf 0 comm3 0 = .remote 1 0 1 0 ∧ s.issueCheck 0 false true (s.chunkCosts 0 0 0 comm3 0 16 (i.readFrom v)) = .ok ∧ ({ s with ports := [] }.peerOf 0 comm3 0 = .none)) := by
  decide +kernel

theorem witness_collectives_combine : (let i := { coll0 0 true with red := [(chunkName true 0 0 0, List.replicate 16 2#8)] }; let w := chunk0 (join0 0).check; let s := dK i [w];
      i.failed = none ∧ i.started = true ∧ s.ripe 1 i = some (2, w) ∧ w.msg.check = (join0 0).check ∧ w.msg.up = true ∧ w.msg.dst = 0 ∧ (join0 0).args.md = 0 ∧ (join0 0).args.til = true ∧ tyIsInt (join0 0).args.ty = true ∧
      (2, ({ up := true, part := w.msg.part, seg := w.msg.seg } : CStep)) ∈ (join0 0).receipts ∧ Map.get 0 i.got (chunkName true 0 0 0) ≤ comm3.kidIndex 2 ∧ w.msg.data.length = (join0 0).segLen w.msg.seg ∧
      Map.find i.red (chunkName true 0 0 0) = some (List.replicate 16 2#8) ∧ comm3.rank ≠ comm3.root) ∧
    (let i := coll0 0 true; let w := chunk0 []; let s := dK i [w]; s.ripe 1 i = some (2, w) ∧ w.msg.check ≠ (join0 0).check) := by
  decide +kernel

theorem witness_collectives_arrive : (let s := { dK (coll0 0 true) [] with ctxs := [(0, { c0 with commbase := 0x1D000#64 })], colls := [] };
    s.readComm 0 0 = some comm3 ∧ s.instOver 0 0 (s.oldestInst 0 0) = false ∧ (s.oldestSent 0 0 0).isNone = true ∧ s.peerOf 0 comm3 0 = .remote 1 0 1 0 ∧ s.peerOf 0 comm3 2 = .remote 2 0 1 0 ∧
    (Map.find (s.port 0).paused (8 + 0)).isNone = true ∧ (s.waiting 0 0 0).length < 8 ∧ (chunk0 []).msg.data.length ≤ 65536 ∧
    s.vMapped 0 (s.nextSlot 0 0 comm3 0) (chunk0 []).msg.data.length = true ∧ s.vMapped 0 (s.nextSlot 0 0 comm3 2) (chunk0 []).msg.data.length = false ∧ Map.get 0 (s.ctx 0).commSeq 0 = 0) := by
  decide +kernel

/-- No instance has ended here. -/
theorem witness_collectives_none (w : Nat) : (dev { c0 with commbase := 0x1D000#64 } l0 g0).instOver 0 0 w = false := by
  simp [State.instOver, dev, State.ctx, c0, Map.get]

/-- A launch not bound yet, its descriptor at 0x1D000: a header, and the code of `kd0`. -/
def lB : Launch := { lr := { kdesc := 0x1D000, privsz := 2048, privb := 0x1F800 } }
/-- The header: region depth, groups per block, scratch, the bounds of the vector and scalar allocations. -/
def hdr0 (g vmin : Nat) : Nat := 16 * 2 ^ 54 + g * 2 ^ 46 + 2 * 2 ^ 28 + 32 * 2 ^ 22 + vmin * 2 ^ 16 + 4 * 2 ^ 11 + 2 ^ 6
/-- The device. -/
def dB (g vmin : Nat) (l : Launch) : State :=
  { dev c0 l g0 with
    launches := [(2, l)], groups := [], blocks := []
    mem := setLE (setLE (setLE mem0 (2 ^ 40 + 0x2D000) 16 (hdr0 g vmin + 2 ^ 96 * 0x100)) (2 ^ 40 + 0x2D01C) 4 64) (2 ^ 40 + 0x2D028) 36
      (0x10000 + 2 ^ 64 * 0x18000 + 2 ^ 128 * 0x1F000 + 2 ^ 192 * 0x8000 + 2 ^ 224 * 0x7000 + 2 ^ 256 * 2) }
/-- The descriptor as read. -/
def kdB (g vmin : Nat) : KDesc := { kd0 with g := g, vmin := vmin, vmax := 32, smax := 4 }

theorem witness_launchBinds_desc : (dB 1 1 lB).readDesc 0 0x1D000 = kdB 1 1 ∧ (dB 96 32 lB).readDesc 0 0x1D000 = kdB 96 32 ∧ (dB 0 1 lB).readDesc 0 0x1D000 = kdB 0 1 ∧
    (kdB 1 1).bad = false ∧ (kdB 96 32).bad = false ∧ (kdB 0 1).bad = true := by
  simp only [State.readDesc, vRead_fast]; decide +kernel

theorem witness_launchBinds_limits : ¬ (kdB 1 1).outOfLimits ∧ ¬ (kdB 96 32).outOfLimits ∧ (kdB 0 1).outOfLimits ∧ ¬ (kdB 1 1).fitsNoSlot ∧ (kdB 96 32).fitsNoSlot := by
  simp [KDesc.outOfLimits, KDesc.fitsNoSlot, kdB, kd0]

theorem witness_launchBinds : (Map.find (dB 1 1 lB).launches 2 = some lB ∧ lB.phase = .unbound ∧ ((dB 1 1 lB).ctx 0).st = .running ∧ (kdB 1 1).prio = false ∧ (dB 1 1 lB).imageOf lB = none) ∧
    (let im : LinkedImage := { places := [{ delta := 0x100000 }] }; let s := { dB 1 1 lB with images := [(0x1D000, im)] }; s.imageOf lB = some im ∧ s.copyPlaceOf lB im = some { delta := 0x100000 } ∧ (s.copyPlaceOf lB { places := [] }).isNone = true) ∧
    (spansOf ((dB 1 1 lB).ctx 0).holds (kdB 1 1) = [(0, 0)] ∧ 1 * 1 * 2 ^ 0 * 64 * 32 ≤ lB.lr.privsz ∧ ¬ 1 * 1 * 2 ^ 0 * 64 * 32 ≤ 2047) ∧
    (let k := { kdB 1 1 with wide := true, g := 2 }; spansOf c0.holds k = [] ∧ spansOf (dB 1 1 lB).sound k ≠ []) ∧
    (let s := { dB 1 1 lB with retDies := List.range 9 }; spansOf s.sound { kdB 1 1 with wide := true, g := 2 } = []) ∧
    (let l := { lB with phase := .running }; Map.find (dB 1 1 l).launches 2 = some l ∧ l.phase ≠ .unbound) := by
  decide +kernel

/-- The launch bound, and a child that is older. -/
def lP : Launch := { lB with phase := .bound, kd := kdB 1 1, b := 1, places := [(0, 0)], order := 5 }
/-- A context with a locket frame. -/
def cP : Ctx := { c0 with lkcount := 4#64 }
/-- The device. -/
def dP (ls : List (Nat × Launch)) : State := { dB 1 1 lB with ctxs := [(0, cP)], launches := ls }

theorem witness_launchPlaces : (let s := dP [(2, lP)]; Map.find s.launches 2 = some lP ∧ lP.parent = none ∧ lP.phase = .bound ∧ (s.ctx 0).st = .running ∧ (∀ p ∈ lP.places, ∀ i, i < 2 ^ lP.kd.spanCode → (s.ctx 0).holds (p.1 + i) p.2 = true) ∧
      (s.addBlocks 2 lP.places.zipIdx).isSome = true ∧ s.kids 0 = []) ∧
    (let s := { dP [(2, lP)] with groups := (List.range 96).map (fun g => (g, { g0 with gid := g })) }; (s.addBlocks 2 lP.places.zipIdx).isSome = false) ∧
    (let kid := { lP with parent := some (1, 1), order := 1 }; let s := dP [(2, lP), (3, kid)]; s.kids 0 = [(3, kid)] ∧ kid.order < lP.order ∧ (s.placedNow 3).isSome = true ∧
      (s.kids 0).find? (fun kv => (s.placedNow kv.1).isSome) = some (3, kid) ∧ kid.ctx = 0) ∧
    ((dP [(2, lP)]).kids 0 = [] ∧ lB.phase ≠ .bound) := by
  decide +kernel

/-- A launch whose groups have all ended, and one with a buffered atomic. -/
def gEnd : Group := { g0 with residence := .ended }
/-- The launch. -/
def lOrd : Launch := { l0 with ords := [{ va := 0x1E000, pa := 2 ^ 40 + 0x2E000, x := 0x3F800000 }, { root := 1, va := 0x1E004, pa := 2 ^ 40 + 0x2E004, x := 0x3F800000 }] }
/-- A launch under replay whose log lists a unit that is not to be had. -/
def cReplay : Ctx := { c0 with targets := [(0, { tqctl := 0x400000000#64, ulbase := 0x1E000#64, ulsize := 1#64 })] }
def lReplay : Launch := { l0 with target := some 0, skip := [0] }

theorem witness_launchCompletes : (let s := dev c0 lOrd gEnd; Map.find s.launches 1 = some lOrd ∧ lOrd.phase = .running ∧ s.launchQuiet 1 = true ∧ lOrd.ordsApplied = false ∧ s.errLines = [] ∧ s.errFrames = [] ∧ s.contained = []) ∧
    (let e : OrdEntry := { va := 0x1E000, pa := 2 ^ 40 + 0x2E000 }; let l := { l0 with ords := [e] }; let s := { dev c0 l gEnd with errLines := [(2 ^ 40 + 0x2E000) / 128] }; s.launchQuiet 1 = true ∧ l.ordsApplied = false ∧ l.ords = [e] ∧ e.logAt = none ∧
      s.lineBad ((s.ctxPa 0 e.va).getD e.pa) = true) ∧
    ((dev c0 l0 g0).launchQuiet 1 = false) ∧
    (let s := dev c0 l0 gEnd; s.launchQuiet 1 = true ∧ l0.ords = [] ∧ s.missedComms l0 = []) ∧
    (let x := { g0 with wait := .dfetch }; let s := dev cReplay lReplay x; s.replaying lReplay = true ∧ lReplay.cancelled = false ∧ s.groups.filter (fun kv => kv.2.launch == 1 && kv.2.residence != .ended) = [(1, x)] ∧
      s.listed 1 = some (0#64, 0, false) ∧ (s.takeListed 1 (0#64, 0, false)).isNone = true) ∧
    (let s := dev cReplay lReplay g0; s.groups.filter (fun kv => kv.2.launch == 1 && kv.2.residence != .ended) = [(1, g0)] ∧ g0.wait ≠ .dfetch) := by
  decide +kernel

/-- The launch has ended with no instance joined of a communicator that is its own. -/
theorem witness_launchCompletes_missed : (let s := { dev { c0 with commbase := 0x1D000#64 } l0 gEnd with mem := memC }; s.launchQuiet 1 = true ∧ s.missedComms l0 = [(0, comm3)]) := by
  refine ⟨by decide +kernel, ?_⟩
  simp only [State.missedComms, State.commClean, allZero]
  simp only [State.readComm, vRead_fast]
  decide +kernel

theorem witness_backgroundWork : (let s := dev { c0 with st := .vacated } l0 { g0 with residence := .ended }; let s := { s with stack := [line0] }
      let dirty := s.stack.filter (fun n => n.core == 0 && n.dirty != 0#32 && !n.stuck &&
        s.backServed n.ctx n.backing && (decide (384 < (s.stack.filter (fun m => m.core == 0)).length) || ((s.ctx n.ctx).st != .running && (s.ctx n.ctx).st != .vacating)))
      line0 ∈ dirty ∧ (∀ n ∈ dirty, n ≠ line0 → line0.used < n.used) ∧
      s.resolveGlobal (.core 0) 0 line0.backing .wr = .ok (at0 0x1F800)) ∧
    (let ln := { line0 with stuck := true, again := true, backing := 0x20000 }; let s := { st g0 with stack := [ln] }; s.stack.filter (fun n => n.core == 0 && n.stuck && n.again && s.backServed n.ctx n.backing) = [ln] ∧ s.resolveGlobal (.core 0) 0 0x20000 .wr = .missing 0x20000) ∧
    ((st g0).resolveGlobal (.core 0) 0 0x40000 .wr = .cause 0x15) ∧ ((st g0).stack = []) ∧
    (let e : FEntry := { kind := .joinWait, mask := 0xFF00#32, addr := 20, sd := 4, lapsed := true }; let x := gF 8 (frontOf [e]); Map.find (st x).groups 1 = some x ∧ x.trap = none ∧ (st x).issuing x = true ∧ x.wait = .none ∧ x.front[0]? = some e ∧
      (List.range 16).all (fun j => match x.front[j]? with | some f => !(f.kind == .joinWait && f.lapsed) || j == 0 | none => true) = true) ∧
    (gT.trap ≠ none) ∧ (∀ f ∈ g0.front, (f.kind == .joinWait && f.lapsed) = false) := by
  decide +kernel

/-- A context in a vacate: the window open or closed. -/
def cVac (open_ : Bool) (d : Nat) : Ctx := { c0 with st := .vacating, vac := some { d := d, open_ := open_ } }
/-- A group in its vacate handler. -/
def gVac : Group := { gT with trap := gT.trap.map (fun r => { r with handler := .vacate }) }
/-- A launch with a vacate handler. -/
def lVac : Launch := { l0 with kd := { kd0 with vh := true } }

theorem witness_vacateSequence : (let s := dev c0 lVac g0; (s.ctx 0).st = .running ∧ s.shadows = [] ∧ (s.groups.map (fun kv => kv.1)).Nodup ∧ Map.find s.groups 1 = some g0 ∧ g0.ctx = 0 ∧ (s.ctx 0).novh = false ∧ g0.residence = .resident ∧ g0.trap = none ∧
      g0.pfWait = [] ∧ (s.kd g0).vh = true ∧ (s.lau g0.launch).phase = .running ∧ ¬(g0.atEdge = true ∧ g0.dbgStop ≠ none)) ∧
    ((dev (cVac true 0) lVac g0).ctx 0).st ≠ .running ∧
    (let s := { dev c0 lVac g0 with shadows := [(0, .loaded 0)] }; (s.ctx 0).part.getLsbD 0 = true ∧ Map.get .empty s.shadows 0 ≠ .empty) ∧
    (let s := dev (cVac true 0) lVac gVac; (s.ctx 0).vac = some { d := 0, open_ := true } ∧ 0 + 0 ≤ s.gtime) ∧
    (let s := dev (cVac true 5) lVac gVac; s.gtime < 0 + 5 ∧ (1, gVac) ∈ s.groups ∧ gVac.residence ≠ .ended ∧ (gVac.trap.map (fun r => r.handler)) = some .vacate) ∧
    (let s := dev (cVac false 0) lVac g0; (s.ctx 0).st = .vacating ∧ (s.ctx 0).ledger = [] ∧ s.retCores = [] ∧ s.retDies = [] ∧ (∀ p ∈ s.ctxs, p.2.slotWant = false ∧ p.2.pfHeld = []) ∧
      (∀ p ∈ s.groups, p.2.pend = [] ∧ p.2.pfWait = [])) ∧
    (let s := dev { c0 with st := .spilling, image := some { keep := true } } lVac g0; (s.ctx 0).st = .spilling ∧ (s.ctx 0).image = some { keep := true }) := by
  decide +kernel

theorem witness_vacateSequence_clear : ∀ i, i < 1440 → ((dev c0 lVac g0).ctx 0).part.getLsbD i = true → Map.get Shadow.empty (dev c0 lVac g0).shadows i = .empty :=
  fun _ _ _ => rfl

/-- A context that is vacated, its image of slot 0, and one that resumes. -/
def im0 : Image := { slots := [0], groups := [1], tiles := [(5, 1#32)] }
def cOut (st : CtxState) (im : Image) : Ctx := { c0 with st := st, image := some im, part := 0#1440 }
/-- Its device. -/
def dOut (st : CtxState) (im : Image) (sh : Map Shadow) : State := { dev (cOut st im) l0 { g0 with residence := .image } with shadows := sh }

theorem witness_resumesAndDisables : ((st g0).ctx 0).st ≠ .vacated ∧
    (let s := dOut .vacated im0 []; (s.ctx 0).st = .vacated ∧ (s.ctx 0).image = some im0 ∧ im0.dead = false ∧ (∀ i ∈ im0.slots, ¬(i / 2 ∈ s.retCores ∨ i / 2 / 80 ∈ s.retDies)) ∧ ∀ i ∈ im0.slots, Map.get .empty s.shadows i = .empty) ∧
    (let s := { dOut .vacated im0 [] with retDies := [0] }; ∃ i ∈ im0.slots, i / 2 ∈ s.retCores ∨ i / 2 / 80 ∈ s.retDies) ∧
    (let s := dOut .vacated im0 [(0, .loaded 3)]; ∃ i ∈ im0.slots, Map.get .empty s.shadows i ≠ .empty) ∧ (let s := dOut .vacated im0 [(0, .filling 0)]; ∀ i ∈ im0.slots, Map.get .empty s.shadows i = .filling 0) ∧
    (let s := dOut .resuming im0 [(0, .loaded 0)]; (s.ctx 0).st = .resuming ∧ (s.ctx 0).pfHeld = [] ∧ s.retCores = [] ∧ s.retDies = [] ∧ (∀ p ∈ s.ctxs, p.2.slotWant = false) ∧ (∀ i ∈ im0.slots, (s.ctx 0).part.getLsbD i = false → i < 1440 ∧ Map.get .empty s.shadows i = .loaded 0 ∧ ∀ p ∈ s.ctxs, p.2.part.getLsbD i = false)) ∧
    (let s := { dOut .resuming im0 [(0, .loaded 0)] with ctxs := [(0, cOut .resuming im0), (1, c0)] }; s.holder 0 = some 1 ∧ (s.ctx 0).part.getLsbD 0 = false) ∧
    (let s := dev { st := .ready, en := true } l0 g0; (s.ctx 0).st = .ready) ∧
    (let s := dev {} l0 g0; (s.ctx 0).en = false ∧ (s.ctx 0).st = .free ∧ (1#64).getLsbD 0 = true ∧ (∀ n, n < 57 → ¬ s.cap n < s.floorSum n 0 + (s.ctx 0).floorAt n) ∧ ¬ 100 * s.liveSlots < s.quotaSum 0 + (s.ctx 0).quota.toNat) ∧
    (let s := dev { quota := 144001#64 } l0 g0; 100 * s.liveSlots < s.quotaSum 0 + (s.ctx 0).quota.toNat) := by
  decide +kernel

theorem witness_registerWrites_plain : (∀ q ∈ plainRegs 15, q.ok 0 = true ∨ q.ok 1 = true) ∧ (∃ q ∈ plainRegs 15, q.off = true ∧ q.ok 1 = false) ∧ (∃ q ∈ plainRegs 15, q.off = false ∧ q.ok 3 = false) ∧
    ((st g0).ctx 15).st = .free ∧ ((st g0).ctx 0).st = .running ∧ (0x3FFFFF < 0x400000 ∧ 0x480000 ≤ 0x480000) ∧ (3984 < 4000 ∧ 4000 % 16 = 0 ∧ 1000000 % 16 = 0 ∧ 4008 % 16 ≠ 0) ∧
    ((st g0).ctx 0).vbcur.toNat ≤ 1000000 ∧ 4000 < ((st g0).ctx 0).vbcur.toNat ∧
    (let c := { c0 with bpend := true, vbreq := 4000#64 }; c.bpend = true ∧ c.ledger = []) ∧ (let c := { cFull with bpend := true, vbreq := 4000#64 }; 4000 - 700 < c.chargeOn (.tier 0 0)) := by
  decide +kernel

theorem witness_registerWrites_tables : reservedFloor 2 = true ∧ reservedFloor 0 = false ∧ reservedFloor 56 = false ∧
    (let s := dev { c0 with floors := [] } l0 g0; (s.ctx 0).en = true ∧ s.cap 0 < s.floorSum 0 0 + 65535 ∧ s.floorSum 0 0 + 1 ≤ s.cap 0 ∧ (s.ctx 0).floorAt 0 = 0) ∧ (1 < c0.floorAt 0) ∧
    (let c := { c0 with fpend := [(.tier 0 0, 0)] }; c.fpend ≠ [] ∧ c.ledger = []) ∧ (let c := { c0 with fpend := [(.tier 0 0, 0)], ledger := [{ res := .tier 0 0, amt := 1 }] }; ∀ e ∈ c.fpend, ∃ k ∈ c.ledger, k.under e = true) ∧
    (let s := st g0; (s.ctx 0).st = .running ∧ (∀ i, i < 64 → (3#64).getLsbD i = true → (s.ctx 0).part.getLsbD (64 * 0 + i) = false → (s.holder (64 * 0 + i)).isNone = true ∧ (64 * 0 + i) / 2 ∉ s.retCores ∧ (64 * 0 + i) / 2 / 80 ∉ s.retDies) ∧
      (∃ i, i < 64 ∧ (3#64).getLsbD i = true ∧ (s.ctx 0).part.getLsbD (64 * 0 + i) = false)) ∧
    (let s := dev { c0 with st := .ready } l0 g0; (s.ctx 0).st = .ready ∧ (s.ctx 0).pfHeld = []) ∧ (let s := { dev { c0 with st := .vacating } l0 g0 with marks := [.vacated 0] }; s.vacatedNow 0 = true) ∧ (st g0).vacatedNow 0 = false ∧
    (let s := { st g0 with retDies := [0] }; ∃ i, i < 64 ∧ (3#64).getLsbD i = true ∧ (s.ctx 0).part.getLsbD (64 * 0 + i) = false ∧ (64 * 0 + i) / 2 / 80 ∈ s.retDies) ∧
    (∃ i, i < 64 ∧ ((st g0).ctx 0).part.getLsbD (64 * 0 + i) = true ∧ (2#64).getLsbD i = false) ∧
    (let s := { st g0 with excursions := [(0, 1, 2)] }; (0, 1, 2) ∈ s.excursions ∧ (0, 1, 2) ∉ (st g0).excursions) ∧
    (144001 > 144000 ∧ (100 * (st g0).liveSlots < (st g0).quotaSum 0 + 144000 ∨ ¬ 100 * (st g0).liveSlots < (st g0).quotaSum 0 + 144000)) ∧
    ((256 ≤ 256 % 65536 ∧ 256 / 65536 % 16 ≤ 12) ∧ ¬(256 ≤ 255 % 65536) ∧ (2 ^ 32 % 2 ^ 33 ≤ 2 ^ 32 ∧ 1 ≤ 2 ^ 32 % 2 ^ 33) ∧ 2 ^ 33 % 2 ^ 33 = 0 ∧ 2 ^ 32 < (2 ^ 32 + 1) % 2 ^ 33) ∧
    (let s := dev c0 { l0 with target := some 3 } g0; ∃ kv ∈ s.launches, kv.2.ctx = 0 ∧ kv.2.phase = .running ∧ kv.2.target = some 3) ∧ (∀ kv ∈ (st g0).launches, kv.2.target ≠ some 3) := by
  decide +kernel

/-- A context with a balance and a quota. -/
def cBal (bal : Int) (st_ : CtxState) (p : BitVec 1440) : Ctx := { c0 with bal := bal, st := st_, part := p, quota := 100#64 }
/-- Its device, with a second context, at a time. -/
def dBal (x y : Ctx) (ns : Nat) : State := { dev x l0 g0 with ctxs := [(0, x), (1, y)], gunits := ns * 17000000000 }

theorem witness_tokensAndSlots : ((dBal (cBal 5 .running 1#1440) (cBal 500 .ready 0#1440) 999).ctxsApart ∧ (dBal (cBal 5 .running 1#1440) (cBal 500 .ready 0#1440) 999).gtime < 1 * 1000) ∧
    (let s := dBal (cBal 5 .running 1#1440) (cBal 500 .ready 0#1440) 1000; 1 * 1000 ≤ s.gtime ∧ ∀ kv ∈ s.ctxs, 0 < max (-(2 ^ 31)) (kv.2.bal - (kv.2.slots.length : Int))) ∧
    (let s := dBal (cBal 1 .running 1#1440) (cBal 500 .ready 0#1440) 1000; s.nextDebit * 1000 ≤ s.gtime ∧ max (-(2 ^ 31)) ((s.ctx 0).bal - ((s.ctx 0).slots.length : Int)) ≤ 0 ∧ (s.ctx 0).en = true ∧ s.idle 0 = false ∧ s.idle 1 = true ∧
      0 < max (-(2 ^ 31)) ((s.ctx 1).bal - ((s.ctx 1).slots.length : Int))) ∧
    (let s := dBal (cBal 1 .running 1#1440) (cBal 500 .ready 0#1440) 100000; s.nextRefill * 1000 ≤ s.gtime ∧ s.retCores = [] ∧ s.retDies = [] ∧ ∀ kv ∈ s.ctxs, kv.2.slotWant = false ∧ kv.1 < 16) := by
  unfold State.ctxsApart; decide +kernel

/-- A context that wants slots for its launch. -/
def dWant (w v : Ctx) : State := { dB 1 1 lB with ctxs := [(0, w), (1, v)], groups := [] }

theorem witness_tokensAndSlots_slots : (let s := dWant { c0 with slotWant := true, part := 0#1440 } { c0 with part := 0#1440 }; Map.find s.launches 2 = some lB ∧ lB.ctx = 0 ∧ lB.phase = .unbound ∧ s.ctxsApart ∧ s.retCores = [] ∧ (s.ctx 0).slotWant = true ∧
      (s.ctx 0).st = .running ∧ (∀ kv ∈ s.ctxs, kv.1 ≠ 0 → kv.2.slotWant = false) ∧ (∀ kv ∈ s.launches, kv.2 = lB) ∧ (spansOf (fun n sl => s.freeSlot n sl || (s.ctx 0).holds n sl) (s.readDesc 0 lB.lr.kdesc)).head? = some (0, 0) ∧
      (s.ctx 0).part.getLsbD 0 = false) ∧
    (let s := dWant { c0 with slotWant := true, part := 0#1440, prio := 1#64 } { c0 with part := BitVec.allOnes 1440 };
      spansOf (fun n sl => s.freeSlot n sl || (s.ctx 0).holds n sl) (s.readDesc 0 lB.lr.kdesc) = [] ∧ s.victim 0 (s.readDesc 0 lB.lr.kdesc) = some 1 ∧ s.shadows = []) ∧
    (let s := dWant { c0 with slotWant := true, part := 0#1440 } { c0 with part := BitVec.allOnes 1440 };
      spansOf (fun n sl => s.freeSlot n sl || (s.ctx 0).holds n sl) (s.readDesc 0 lB.lr.kdesc) = [] ∧ (s.victim 0 (s.readDesc 0 lB.lr.kdesc)).isNone = true) ∧
    (let s := { st g0 with retiring := [(0, 7)] }; (0, 7) ∈ s.retiring ∧ (s.holder (2 * 7)).isNone = true ∧ (s.holder (2 * 7 + 1)).isNone = true) ∧ (((st g0).holder (2 * 0)).isSome = true ∧ (0, 0) ∉ (st g0).retiring) ∧
    (let s := dOut .vacated { im0 with dead := true } []; (s.ctx 0).image = some { im0 with dead := true } ∧ (s.ctx 0).st = .vacated ∧ (s.launches.map (fun kv => kv.1)).Nodup ∧ s.colls = [] ∧ Map.find s.launches 1 = some l0 ∧ l0.phase = .running) := by
  unfold State.ctxsApart; decide +kernel

/-- A context with one host queue at 0x1C000, of 16 entries at 0x1D000, with one entry. -/
def cQ (x : Queue) : Ctx := { c0 with qtbase := 0x1C000#64, qcount := 1#64, queues := [(0, x)] }
/-- The queue. -/
def q0 : Queue := { head := 0, tail := 1 }
/-- Its device: the flags of the descriptor, and the entry as a number. -/
def dQ (x : Queue) (size flags e : Nat) : State :=
  { dev (cQ x) l0 g0 with mem := setLE (setLE (setLE mem0 (2 ^ 40 + 0x2C000) 16 (0x1D000 + 2 ^ 64 * size + 2 ^ 96 * flags)) (2 ^ 40 + 0x2C080) 8 1) (2 ^ 40 + 0x2D000) 64 e }

/-- The entry at a head by few walks. -/
def fastHead (s : State) (c q : Nat) : Packet :=
  let a := fastRead s c (s.qdesc c q) 8 + 128 * ((s.queue c q).head % fastRead s c (s.qdesc c q + 8) 4)
  if s.moves = [] ∧ a % 65536 + 128 ≤ 65536 then
    let bs := match s.walk c (a / 65536 * 65536 % 2 ^ 57) with
      | .leaf l => getBytes (if leafType l.bits = 4 then s.peerMem else s.mem) (leafPa l (a / 65536 * 65536 % 2 ^ 57) + a % 65536) 128
      | _ => List.replicate 128 0#8
    { index := (s.queue c q).head, kind := (bs.headD 0#8).toNat, data := bs }
  else s.headPacket c q

theorem byteList (m : List Host.Cell) (a n : Nat) : getBytes m a n = (List.range n).map (fun i => getByte m (a + i)) := by
  induction n generalizing a with
  | zero => rfl
  | succ n ih => rw [getBytes, ih, List.range_succ_eq_map, List.map_cons, List.map_map]; simp [Function.comp_def, Nat.add_assoc, Nat.add_comm 1]

theorem headPacket_fast (s : State) (c q : Nat) : s.headPacket c q = fastHead s c q := by
  unfold fastHead
  simp only [← vRead_fast]
  split
  · rename_i h
    obtain ⟨hm, ha⟩ := h
    simp only [State.headPacket]
    generalize ea : s.vRead c (s.qdesc c q) 8 + 128 * ((s.queue c q).head % s.vRead c (s.qdesc c q + 8) 4) = a at ha ⊢
    have e : (List.range 128).map (fun i => BitVec.ofNat 8 (s.vRead c (a + i) 1)) =
        match s.walk c (a / 65536 * 65536 % 2 ^ 57) with
        | .leaf l => getBytes (if leafType l.bits = 4 then s.peerMem else s.mem) (leafPa l (a / 65536 * 65536 % 2 ^ 57) + a % 65536) 128
        | _ => List.replicate 128 0#8 := by
      have e1 : (List.range 128).map (fun i => BitVec.ofNat 8 (s.vRead c (a + i) 1)) =
          (List.range 128).map (fun i => match s.walk c (a / 65536 * 65536 % 2 ^ 57) with
            | .leaf l => getByte (if leafType l.bits = 4 then s.peerMem else s.mem) (leafPa l (a / 65536 * 65536 % 2 ^ 57) + a % 65536 + i)
            | _ => 0#8) := by
        refine List.map_congr_left (fun i hi => ?_)
        have hi' := List.mem_range.1 hi
        rw [s.vRead_page c (a + i) 1 hm (by omega)]
        have hd : (a + i) / 65536 = a / 65536 := by omega
        have hr : (a + i) % 65536 = a % 65536 + i := by omega
        simp only [State.pageRead, hd, hr]
        cases s.walk c (a / 65536 * 65536 % 2 ^ 57) <;> simp [getLE, getBytes, leNat, Nat.add_assoc]
      rw [e1]
      cases s.walk c (a / 65536 * 65536 % 2 ^ 57) with
      | leaf l => simp only [byteList]
      | absent => rfl
      | malformed => rfl
    rw [e]
  · rfl

theorem entryAt_head (s : State) (c q : Nat) (x : Queue) (h : s.queue c q = x) : EntryAt s c q x (s.headPacket c q) := by
  subst h
  have one : ∀ a, (BitVec.ofNat 8 (s.vRead c a 1)).toNat = s.vRead c a 1 := by
    intro a
    have : s.vRead c a 1 < 256 := by
      exact (s.vByte c a).isLt
    rw [BitVec.toNat_ofNat]; exact Nat.mod_eq_of_lt this
  refine ⟨?_, by simp [State.headPacket], fun i hi => ?_⟩
  · have hd : (s.headPacket c q).kind = s.vRead c (s.vRead c (s.qdesc c q) 8 + 128 * ((s.queue c q).head % s.vRead c (s.qdesc c q + 8) 4) + 0) 1 := one _
    simp only [State.qdesc, Nat.add_zero] at hd
    rw [← hd]; rfl
  · simp only [State.headPacket, State.qdesc, List.getD_eq_getElem?_getD, List.getElem?_map, List.getElem?_range hi, Option.map_some, Option.getD_some]
    exact one _

theorem witness_hostQueues_snoop : (dQ q0 16 1 0).ctxsApart ∧ (∀ kv ∈ (dQ q0 16 1 0).ctxs, Map.sortedFrom 0 kv.2.queues = true) ∧
    (let s := dQ q0 16 1 0; (s.ctx 0).en = true ∧ 0 < (s.ctx 0).qcount.toNat ∧ s.vMapped 0 0x1C000 256 = true ∧ q0.inert = false ∧ s.vRead 0 (0x1C000 + 0xC) 4 % 2 = 1 ∧ s.vRead 0 0x1C000 8 % 4096 = 0 ∧ s.vRead 0 (0x1C000 + 8) 4 = 2 ^ 4 ∧
      s.vRead 0 (0x1C000 + 0xC) 4 < 8 ∧ s.vRead 0 (0x1C000 + 0x18) 104 = 0 ∧ s.vRead 0 (0x1C000 + 0x88) 120 = 0 ∧ (s.vRead 0 (0x1C000 + 0x80) 8 + 2 ^ 64 - q0.head) % 2 ^ 64 ≤ s.vRead 0 (0x1C000 + 8) 4) ∧
    (let s := dQ q0 15 1 0; s.vRead 0 (0x1C000 + 8) 4 = 15) ∧ (let s := dQ q0 16 0 0; s.vRead 0 (0x1C000 + 0xC) 4 % 2 = 0) := by
  unfold State.ctxsApart; simp only [vRead_fast, vMapped_fast]; decide +kernel

theorem witness_hostQueues_entry (e : Nat) : OneQueue (dQ q0 16 1 e) 0 0 q0 [] ∧ q0.head < q0.tail ∧ EntryAt (dQ q0 16 1 e) 0 0 q0 ((dQ q0 16 1 e).headPacket 0 0) :=
  ⟨⟨rfl, rfl, rfl, rfl, rfl, rfl⟩, by decide, entryAt_head _ _ _ _ rfl⟩

/-- A packet's field. -/
def fld (p : Packet) (o n : Nat) : Nat := leNat ((p.data.drop o).take n)

theorem witness_hostQueues_kinds : (((dQ q0 16 1 6).headPacket 0 0).kind = 6) ∧
    (let s := dQ q0 16 1 (1 + 2 ^ 64 * 0x1D000); let p := s.headPacket 0 0; p.kind = 1 ∧ s.recordBad 0 (recordOf p.data false) = true) ∧
    (let s := dQ q0 16 1 (2 + 2 ^ 64 * 0x1E000 + 2 ^ 128 * 5 + 2 ^ 192); let p := s.headPacket 0 0; p.kind = 2 ∧ fld p 8 8 = 0x1E000 ∧ fld p 0x18 8 = 1 ∧ (∀ b ∈ p.data.drop 0x20, b = 0#8) ∧ fld p 0 8 < 512 ∧
      (s.headWritten 0 0 q0).vMapped 0 0x1E000 8 = true) ∧
    (let s := dQ q0 16 1 (2 + 2 ^ 64 * 0x1E004); fld (s.headPacket 0 0) 8 8 % 8 ≠ 0) ∧
    (let s := dQ q0 16 1 (2 + 2 ^ 64 * 0x20000); let p := s.headPacket 0 0; fld p 8 8 = 0x20000 ∧ (s.headWritten 0 0 q0).vMapped 0 0x20000 8 = false ∧ (s.ctx 0).fq.size = 0#64 ∧ 0x20000 ∉ (s.ctx 0).pfRecs) ∧
    (let s := dQ q0 16 1 (3 + 2 ^ 64 * 0x1E000 + 2 ^ 192 * 2); let p := s.headPacket 0 0; p.kind = 3 ∧ fld p 0x18 8 = 2 ∧ (s.headWritten 0 0 q0).vRead 0 0x1E000 8 = 0 ∧ fld p 0x10 8 = 0) ∧
    (let s := dQ q0 16 1 (3 + 2 ^ 64 * 0x1E000); let p := s.headPacket 0 0; p.kind = 3 ∧ fld p 0x18 8 = 0 ∧ fld p 0x10 8 ≤ (s.headWritten 0 0 q0).vRead 0 0x1E000 8) := by
  simp only [vRead_fast, vMapped_fast, headPacket_fast]; decide +kernel

theorem witness_hostQueues_graphs : (let s := dQ q0 16 1 (4 + 2 ^ 128 * 7 + 2 ^ 192 * 2); let p := s.headPacket 0 0; p.kind = 4 ∧ fld p 8 8 = 0 ∧ fld p 0x10 8 = 7 ∧ fld p 0x18 8 = 2 ∧ (∀ b ∈ p.data.drop 0x20, b = 0#8) ∧ (s.ctx 0).graphs = []) ∧
    (let s := dQ q0 16 1 (4 + 2 ^ 128 * 7); fld (s.headPacket 0 0) 0x18 8 = 0) ∧
    (let s := dQ q0 16 1 (4 + 2 ^ 64 + 2 ^ 128 * (1 + 2 ^ 16 * 3)); let p := s.headPacket 0 0; fld p 8 8 = 1 ∧ fld p 0x10 8 / 8 % 2 ^ 13 = 0 ∧ fld p 0x10 8 < 2 ^ 32 ∧ fld p 0x10 8 % 8 = 1 ∧ (∀ b ∈ p.data.drop 0x18, b = 0#8) ∧
      Map.find s.launches 1 = some l0 ∧ l0.lid = fld p 0x10 8 / 65536 ∧ l0.phase = .running ∧ (s.launches.map (fun kv => kv.1)).Nodup ∧ ∀ kv ∈ s.launches, kv.2.parent = none) ∧
    (let s := dQ q0 16 1 (4 + 2 ^ 64); fld (s.headPacket 0 0) 0x10 8 % 8 = 0) := by
  simp only [headPacket_fast]; decide +kernel

theorem witness_hostQueues_copies : (let s := dQ q0 16 1 (5 + 2 ^ 64 * 0x1E800 + 2 ^ 128 * 0x1E000 + 2 ^ 192 * 16 + 2 ^ 384 * 0x1F700); let p := s.headPacket 0 0; let h := s.headWritten 0 0 q0; p.kind = 5 ∧ fld p 0x18 8 = 16 ∧ (∀ b ∈ p.data.drop 0x38, b = 0#8) ∧
      h.copyCause (h.packetCopy 0 0 p) (2 ^ 36) 0 = none ∧ (h.outstanding 0).length < 256 ∧ h.issueCheck 0 false false (h.copyCosts (h.packetCopy 0 0 p)) = .ok) ∧
    (let s := dQ q0 16 1 (5 + 2 ^ 384 * 0x1F700); let p := s.headPacket 0 0; let h := s.headWritten 0 0 q0; fld p 0x18 8 = 0 ∧ fld p 0x20 8 = 0 ∧ h.copyCause (h.packetCopy 0 0 p) (2 ^ 36) 0 = none) ∧
    (let s := dQ q0 16 1 (5 + 2 ^ 64 * 0x1E008 + 2 ^ 128 * 0x1E000 + 2 ^ 192 * 16); let h := s.headWritten 0 0 q0; (h.copyCause (h.packetCopy 0 0 (s.headPacket 0 0)) (2 ^ 36) 0).isSome = true) ∧
    (let s := dQ q0 16 1 (5 + 2 ^ 448); ¬ ∀ b ∈ (s.headPacket 0 0).data.drop 0x38, b = 0#8) := by
  simp only [headPacket_fast]; decide +kernel

theorem witness_hostQueues_waits : (let p : Packet := { kind := 3, started := true, data := leBytes 64 (3 + 2 ^ 64 * 0x1E000) }; let x := { q0 with taken := [p] }; (dQ x 16 1 0).allQueues = [(0, 0, x)] ∧ (dQ x 16 1 0).ctxsApart ∧ ((dQ x 16 1 0).ctx 0).en = true ∧
    x.inert = false ∧ x.pfPage = none ∧ p.done = false ∧ p.at_ 8 8 = 0x1E000 ∧ (dQ x 16 1 0).vMapped 0 0x1E000 8 = true) := by
  unfold State.ctxsApart; decide +kernel

/-- A queue whose next packet is one in hand, not started yet, and its device. -/
def dHeld (e : Nat) : State := dQ { q0 with head := 1, slot := true, taken := [{ index := 0, kind := e % 256, data := leBytes 128 e }] } 16 1 0
/-- What the turret serves next there. -/
def heldOf (e : Nat) : State × Packet := ((dHeld e).nextPacket 0 0).getD (dHeld e, {})

theorem witness_hostQueues_next : ∀ e ∈ [1, 2 + 2 ^ 64 * 0x1E000, 3 + 2 ^ 64 * 0x1E000, 3 + 2 ^ 64 * 0x1E000 + 2 ^ 192 * 2, 4 + 2 ^ 128 * 7 + 2 ^ 192 * 2, 4 + 2 ^ 64 + 2 ^ 128 * (1 + 2 ^ 16 * 3), 5 + 2 ^ 64 * 0x1E800 + 2 ^ 128 * 0x1E000 + 2 ^ 192 * 16 + 2 ^ 384 * 0x1F700],
    let s := dHeld e; let h := (heldOf e).1; let p := (heldOf e).2; s.nextPacket 0 0 = some (h, p) ∧ p.kind = e % 256 ∧ p.bar = false ∧ s.marks = [] ∧ s.duePacket 0 0 = none ∧
      (p.kind = 2 ∨ p.kind = 3 → p.at_ 8 8 = 0x1E000 ∧ p.reservedFrom 0x20 = false ∧ h.vMapped 0 0x1E000 8 = true ∧ p.at_ 0x18 8 ≤ 2) ∧
      (p.kind = 4 → p.at_ 8 8 = 0 → p.reservedFrom 0x20 = false ∧ p.at_ 0x10 8 < 2 ^ 26 ∧ 1 ≤ p.at_ 0x18 8 ∧ (s.ctx 0).graphs = []) ∧
      (p.kind = 4 → p.at_ 8 8 = 1 → p.reservedFrom 0x18 = false ∧ p.at_ 0x10 8 = 1 + 2 ^ 16 * 3 ∧ l0.lid = 3 ∧ (s.launches.map (fun kv => kv.1)).Nodup) ∧
      (p.kind = 5 → p.reservedFrom 0x38 = false ∧ 0 < p.at_ 0x18 8 ∧ (h.copyCause (h.packetCopy 0 0 p) (2 ^ 36) 0).isNone = true ∧ (h.outstanding 0).length < 256 ∧ h.issueCheck 0 false false (h.copyCosts (h.packetCopy 0 0 p)) = .ok) := by
  decide +kernel

/-- A launch record of one unit that names no graph. -/
def recWord : Nat := 1 + 2 ^ 64 * 0x1D000 + 2 ^ 128 * (1 + 2 ^ 16 + 2 ^ 32 + 2 ^ 48) + 2 ^ 352 * 0xFFFF

theorem witness_hostQueues_record : (let h := (heldOf recWord).1; let p := (heldOf recWord).2; (dHeld recWord).nextPacket 0 0 = some (h, p) ∧ p.bar = false ∧ p.kind = 1 ∧ h.recordBad 0 (recordOf p.data false) = false ∧ (recordOf p.data false).graph = 0xFFFF) ∧
    (let s := dQ q0 16 1 recWord; let p := s.headPacket 0 0; p.kind = 1 ∧ s.recordBad 0 (recordOf p.data false) = false ∧ (recordOf p.data false).graph = 0xFFFF) := by
  simp only [headPacket_fast]; decide +kernel

theorem witness_hostQueues_missing : let d := dQ q0 16 1 (2 + 2 ^ 64 * 0x20000); let s := d.setCtx 0 { d.ctx 0 with fq := { size := 16#64 } }; let p := s.headPacket 0 0
    p.kind = 2 ∧ fld p 8 8 = 0x20000 ∧ fld p 0x18 8 = 0 ∧ (∀ b ∈ p.data.drop 0x20, b = 0#8) ∧ fld p 0 8 < 512 ∧ (s.headWritten 0 0 q0).vMapped 0 0x20000 8 = false ∧ (s.ctx 0).fq.size ≠ 0#64 ∧
      0x20000 / 65536 * 65536 ∉ (s.ctx 0).pfRecs ∧ s.allQueues = [(0, 0, q0)] ∧ s.marks = [] := by
  simp only [headPacket_fast]; decide +kernel

theorem witness_hostQueues_marks : (let s := dQ q0 16 1 (2 + 2 ^ 64 * 0x1E000); Mark.waited ((s.ctxPa 0 0x1E000).getD 0) ∈ { s with marks := [.waited (2 ^ 40 + 0x2E000)] }.marks ∧ s.marks = []) ∧
    (let p : Packet := { kind := 3, started := true, data := leBytes 64 (3 + 2 ^ 64 * 0x1E000) }; let s := dQ { q0 with taken := [p] } 16 1 0; (s.queue 0 0).waitOpen = some p ∧ (s.queue 0 0).pfPage = none ∧ s.vMapped 0 (p.at_ 8 8) 8 = true ∧ p.holds (s.vRead 0 0x1E000 8) = true) := by
  decide +kernel

/-- A context with an unresolved record of a page, and a group that waits for it. -/
def cPf (st_ : CtxState) (page : Nat) : Ctx := { c0 with st := st_, pfRecs := [page], lkbase := 0x10000#64 }
def gPf (page : Nat) : Group := { g0 with pfWait := [(page, 0)] }

theorem witness_pagesAndShootdowns : ((dev (cPf .vacated 0x10000) l0 g0).ctx 0).st = .vacated ∧
    (let s := dev (cPf .running 0x20000) l0 g0; (s.ctx 0).st = .running ∧ s.ports = [] ∧ (s.ctx 0).lkFault = none ∧ 0x20000 ∈ (s.ctx 0).pfRecs ∧ 0x30000 ∉ (s.ctx 0).pfRecs ∧ s.walk 0 0x20000 = .absent ∧ (∀ kv ∈ s.groups, kv.2.pfWait = []) ∧ s.copies = []) ∧
    (let s := dev { cPf .running 0x20000 with lkFault := some 0x10000 } l0 g0; (s.ctx 0).lkFault = some 0x10000 ∧ 0x10000 ∉ (s.ctx 0).pfRecs) ∧
    (let s := dev (cPf .running 0x10000) l0 (gPf 0x10000); s.walk 0 0x10000 = .leaf leaf0 ∧ s.stack = [] ∧ s.groups.filter (fun kv => kv.2.ctx == 0 && kv.2.pfWait.any (fun e => e.1 == 0x10000)) = [(1, gPf 0x10000)] ∧ Map.find s.groups 1 = some (gPf 0x10000) ∧
      (s.ctx 0).queues = [] ∧ (gPf 0x10000).residence = .resident ∧ (gPf 0x10000).replay = none ∧ (gPf 0x10000).trap = none ∧ (s.kd (gPf 0x10000)).trapv ≠ 0xFFFFFFFF) ∧
    (let x := { gPf 0x10000 with residence := .saved 1 }; let s := dev (cPf .running 0x10000) l0 x; s.groups.filter (fun kv => kv.2.ctx == 0 && kv.2.pfWait.any (fun e => e.1 == 0x10000)) = [(1, x)] ∧ x.residence ≠ .resident) ∧
    (let ln := { line0 with stuck := true, backing := 0x20100 }; let s := { st g0 with stack := [ln] }; ln ∈ s.stack ∧ ln.ctx = 0 ∧ ln.backing / 65536 * 65536 = 0x20000 ∧ (s.ctx 0).lkFault = none ∧ 0x20000 ∉ (s.ctx 0).pfRecs ∧ s.ports = []) ∧
    (let s := dev (cPf .running 0x20000) l0 (gPf 0x20000); (gPf 0x20000).pfWait ≠ [] ∧ (s.ctx 0).lkFault = none ∧ (gPf 0x20000).pend = [] ∧ s.FrameMapped (gPf 0x20000)) ∧
    (let s := dev { cPf .running 0x20000 with lkbase := 0x50000#64 } l0 (gPf 0x20000); (s.ctxPa 0 (0x50000 + 40960 * (gPf 0x20000).locket)).isNone = true) ∧
    ({ c0 with sdbusy := true }.sdbusy = true ∧ c0.sdbusy = false) ∧
    (let h : Shoot := { va := 0x10000, pages := 1, waits := [(1, 9)] }; let s := dev { c0 with shoots := [h] } l0 g0; h.move = none ∧ ∀ e ∈ h.waits, s.stillWaits e = false) ∧
    (let h : Shoot := { va := 0x10000, pages := 1, waits := [(1, 1)] }; let s := dev { c0 with shoots := [h] } l0 gLoad; ∃ e ∈ h.waits, s.stillWaits e = true) ∧
    (let k : Corrections := { total := 1025, n := 1025 }; let s := { st g0 with corrected := [(8 * 2 + 3, k)] }; Map.find s.corrected (8 * 2 + 3) = some k ∧ 1024 < k.n ∧ k.posted = false) := by
  unfold State.FrameMapped; decide +kernel

/-- A device whose migration ring, at physical 2^40 + 0x2F000, holds one command; an LPDDR page stands at 0x50000. -/
def dM (op arg : Nat) : State :=
  { dev c0 l0 g0 with
    mqbase := 0x1000002F000#64, mqsize := 16#64, mqtail := 1#64, gunits := 0
    mem := setLE (setLE mem0 (2 ^ 40 + 0x5028) 8 (2 ^ 63 + 2 ^ 62 + 2 ^ 59 + 7 * 2 ^ 56 + 2 ^ 42 + 0x30000 + 5)) (2 ^ 40 + 0x2F000) 64 (op + 2 ^ 64 * 0x10000 + 2 ^ 128 * arg) }
/-- The command at its head, and a leaf. -/
def kOf (s : State) : MCmd := s.command.getD { index := 0, at_ := 0, op := 0, ctx := 0, stack := 0, va := 0, arg := 0, narg := 0, bad := true }
def leafAt0 (s : State) (va : Nat) : Leaf := match s.walk 0 va with | .leaf l => l | _ => { bits := 0#64, at_ := 0, large := false }
/-- A swap of the LPDDR page with the HBM page at 0x10000: a command with other addresses. -/
def dSw (va arg : Nat) : State := { dM 2 0 with mem := setLE (dM 2 0).mem (2 ^ 40 + 0x2F000) 64 (2 + 2 ^ 64 * va + 2 ^ 128 * arg) }
/-- A record of the page at 0x10000, and devices with one. -/
def mp0 : MovePage := { va := 0x10000, src := 2 ^ 40 + 0x20000, dst := 2 ^ 40 + 0x90000, leaf := (leafAt0 (st g0) 0x10000).bits, leafAt := (leafAt0 (st g0) 0x10000).at_, newLeaf := (leafAt0 (st g0) 0x10000).bits + 0x70001#64 }
def mv0 : Move := { pgs := [mp0], cmd := some 0 }
def dR (m : Move) : State := { st g0 with moves := [(7, m)], mqbase := 0x1000002F000#64, mqsize := 16#64 }
/-- A record is pending on context 0 of the ring's device. -/
def withMove (s : State) (m : Move) : State := { s with moves := [(7, m)] }

theorem witness_moveCommands_heads : (let s := dM 1 (2 ^ 40 + 0x90000); CommandAt s (kOf s) ∧ (kOf s).bad = false ∧ (kOf s).op = 1) ∧ (let s := dM 0 0; CommandAt s (kOf s) ∧ (kOf s).bad = true ∧ (kOf s).op = 0) ∧
    (let s := dM (2 + 2 ^ 16) 0; (kOf s).bad = true ∧ (kOf s).op = 2) ∧ (let s := dM (3 + 2 ^ 16) 0; (kOf s).bad = true ∧ (kOf s).op = 3 ∧ s.evacs = []) ∧ (let s := dM (4 + 2 ^ 16) 0; (kOf s).bad = true ∧ (kOf s).op = 4) := by
  unfold CommandAt; decide +kernel

theorem witness_moveCommands_move : (let s := dM 1 (2 ^ 40 + 0x90001); (kOf s).arg % 65536 ≠ 0) ∧ (let s := { dM 1 (2 ^ 40 + 0x90000) with ctxs := [] }; (kOf s).arg % 65536 = 0 ∧ s.walk 0 (kOf s).va = .absent) ∧
    (let s := dM 1 (2 ^ 40 + 0x90000); let l := leafAt0 s 0x10000; s.walk (kOf s).ctx ((kOf s).va % 2 ^ 57) = .leaf l ∧ (kOf s).arg % 2 ^ 16 = 0 ∧ ¬ s.staysPut 0 0x10000 l ∧ s.typOf (kOf s).arg ≤ 2 ∧ (kOf s).arg ≠ l.bits.toNat / 65536 % 2 ^ 36 * 65536 ∧
      s.mayStart 0 0x10000 ∧ s.engineFree (l.bits.toNat / 65536 % 2 ^ 36 * 65536) = true) ∧
    (let s := dM 1 (2 ^ 45); 2 < s.typOf (kOf s).arg) ∧ (let s := withMove (dM 1 (2 ^ 40 + 0x90000)) mv0; s.staysPut 0 0x10000 (leafAt0 s 0x10000)) ∧
    (let s := { dM 1 (2 ^ 40 + 0x90000) with ctxs := [(0, { c0 with pages := [{ va := 0x10000, pinEnd := 5 }] })] }; s.gtime < ((s.ctx 0).hist 0x10000).pinEnd) ∧
    (let s := { dM 1 (2 ^ 40 + 0x90000) with ctxs := [(0, { c0 with pages := [{ va := 0x10000, starts := [0, 0] }] })] }; ((s.ctx 0).hist 0x10000).pinEnd ≤ s.gtime ∧ 2 ≤ (s.startsOf 0 0x10000).length) ∧
    (let s := { dM 1 (2 ^ 40 + 0x90000) with moves := (List.range 16).map (fun i => (i, { mv0 with ctx := 3 })) }; s.mayStart 0 0x10000 ∧ s.engineFree (2 ^ 40 + 0x20000) = false ∧ ¬ s.staysPut 0 0x10000 (leafAt0 s 0x10000)) := by
  unfold State.staysPut State.mayStart; decide +kernel

theorem witness_moveCommands_swap : (let s := dSw 0x50000 0x10000; let f := leafAt0 s 0x50000; let n := leafAt0 s 0x10000; (kOf s).bad = false ∧ (kOf s).op = 2 ∧ s.walk (kOf s).ctx ((kOf s).va % 2 ^ 57) = .leaf f ∧
      s.walk (kOf s).ctx ((kOf s).arg % 2 ^ 57) = .leaf n ∧ ¬ s.staysPut 0 0x50000 f ∧ ¬ s.staysPut 0 0x10000 n ∧ f.bits.toNat / 2 ^ 59 % 8 = 1 ∧ n.bits.toNat / 2 ^ 59 % 8 = 0 ∧ f.large = n.large ∧
      s.engineFree (2 ^ 42 + 0x30000) = true ∧ s.mayStart 0 0x50000 ∧ s.mayStart 0 0x10000 ∧ s.typOf (2 ^ 42 + 0x30000) < 8 ∧ s.typOf (2 ^ 40 + 0x20000) < 8 ∧ 0x50000 ≠ 0x10000) ∧
    (let s := dSw 0x70000 0x10000; s.walk 0 0x70000 = .absent) ∧ (let s := dSw 0x10000 0x50000; (leafAt0 s 0x10000).bits.toNat / 2 ^ 59 % 8 ≠ 1 ∧ (leafAt0 s 0x10000).bits.toNat / 2 ^ 59 % 8 ≠ 2) ∧
    (let s := { dSw 0x50000 0x10000 with ctxs := [(0, { c0 with pages := [{ va := 0x10000, starts := [0, 0] }] })] }; ¬(s.mayStart 0 0x50000 ∧ s.mayStart 0 0x10000)) ∧
    (let s := { dSw 0x50000 0x10000 with moves := (List.range 16).map (fun i => (i, { mv0 with ctx := 3 })) }; s.engineFree (2 ^ 42 + 0x30000) = false) := by
  unfold State.staysPut State.mayStart; decide +kernel

/-- Devices for evacuations: one page on the stack, or none. -/
def dE (narg : Nat) : State := { dev c0 l0 g0 with mqbase := 0x1000002F000#64, mqsize := 16#64, mqtail := 1#64, mem := setLE (fetchTables []) (2 ^ 40 + 0x2F000) 64 (3 + 2 ^ 128 * (2 ^ 40 + 0x2E000) + 2 ^ 192 * narg) }
def ev0 : Evac := { cmd := 0, stack := 0, frames := [2 ^ 40 + 0x90000] }

theorem witness_moveCommands_evacuate : (let s := dE 1; (kOf s).bad = false ∧ (kOf s).op = 3 ∧ s.evacs = [] ∧ s.moves = [] ∧ ((s.pagesOnStack 0).map (fun p => if p.2.2.large then 32 else 1)).sum = 1 ∧ (kOf s).narg = 1) ∧ (kOf (dE 0)).narg = 0 ∧
    (let s := withMove (dE 1) mv0; ∃ kv ∈ s.moves, ∃ p ∈ kv.2.pgs, s.stackOf p.src = some 0) ∧
    (let s := { dE 1 with evacs := [ev0] }; s.pagesOnStack 0 = [(0, 0x10000, leafAt0 s 0x10000)] ∧ s.moves = [] ∧ s.typOf (2 ^ 40 + 0x90000) < 8 ∧ (leafAt0 s 0x10000).large = false ∧ s.engineFree (2 ^ 40 + 0x20000) = true) ∧
    (let s := { dE 1 with evacs := [{ ev0 with stack := 3 }] }; s.pagesOnStack 3 = [] ∧ s.moves = []) := by
  simp only [State.pagesOnStack, State.leaves, leavesFrom_fast]; decide +kernel

theorem witness_moveCommands_abort : (let s := dM 4 0; (kOf s).bad = false ∧ (kOf s).op = 4 ∧ s.moves = []) ∧
    (let s := withMove (dM 4 0) mv0; (7, mv0) ∈ s.moves ∧ mv0.ctx = (kOf s).ctx ∧ mv0.phase ≠ .forwarding ∧ (∃ p ∈ mv0.pgs, p.va ≤ (kOf s).va ∧ (kOf s).va < p.va + 128 * mv0.lines) ∧ mv0.evac = false) ∧
    (let m := { mv0 with evac := true }; let s := withMove (dM 4 0) m; (7, m) ∈ s.moves ∧ m.evac = true) := by
  decide +kernel

/-- An exchange of pages. -/
def mvS : Move := { pgs := [{ mp0 with dst := 2 ^ 42 + 0x30000 }, { va := 0x50000, src := 2 ^ 42 + 0x30000, dst := 2 ^ 40 + 0x20000 }], cmd := some 0 }

theorem witness_movesRun_copies : (let s := dR mv0; Map.find s.moves 7 = some mv0 ∧ s.refresh = [] ∧ mv0.phase = .copying ∧ mv0.locked = false ∧ mv0.done < mv0.lines ∧ mv0.abort = none) ∧
    (let m := { mv0 with done := 512 }; let s := dR m; Map.find s.moves 7 = some m ∧ m.lines ≤ m.done ∧ m.abort = none ∧ m.done = m.lines ∧ m.locked = false) ∧
    (let m := { mv0 with locked := true }; let s := dR m; Map.find s.moves 7 = some m ∧ s.lineBad mp0.src = false ∧ m.evac = false ∧ (s.typOf mp0.dst, s.dieOf (s.typOf mp0.dst) mp0.dst) ∉ s.contained) ∧
    (let s := { dR { mv0 with locked := true } with errLines := [mp0.src / 128] }; s.lineBad mp0.src = true) ∧
    (let q := { mp0 with dst := 2 ^ 42 + 0x90000 }; let s := { dR { mv0 with locked := true, pgs := [q] } with contained := [(1, 0)] }; s.lineBad mp0.src = false ∧ (s.typOf q.dst, s.dieOf (s.typOf q.dst) q.dst) ∈ s.contained) ∧
    (let s := { dR mv0 with refresh := [(0, 0)] }; ∃ p ∈ mv0.pgs, s.stackOf p.src = some 0 ∧ Map.find s.refresh 0 ≠ none) ∧
    (let m := { mvS with locked := true }; let s := dR m; Map.find s.moves 7 = some m ∧ (∃ p q, m.pgs = [p, q] ∧ q.src = p.dst ∧ p.src + 128 * m.lines ≤ p.dst ∧ s.lineBad p.src = false ∧ s.lineBad q.src = false) ∧ m.done < m.lines ∧ s.contained = []) ∧
    (let m := { mv0 with locked := true, evac := true }; Map.find (dR m).moves 7 = some m ∧ m.evac = true) := by
  refine ⟨by decide +kernel, by decide +kernel, by decide +kernel, by decide +kernel, by decide +kernel, ⟨mp0, List.mem_cons_self .., by decide +kernel, by decide⟩, ⟨by decide +kernel, ⟨_, _, rfl, by decide +kernel, by decide +kernel, by decide +kernel, by decide +kernel⟩, by decide, by decide +kernel⟩, by decide +kernel⟩

theorem witness_movesRun_back : (let m := { mv0 with abort := some 1 }; Map.find (dR m).moves 7 = some m ∧ m.abort = some 1 ∧ m.locked = false ∧ m.phase = .copying) ∧
    (let m := { mv0 with phase := .copyBack 1 }; Map.find (dR m).moves 7 = some m ∧ m.done = 0 ∧ m.locked = false ∧ m.cmd = some 0) ∧ (let m := { mv0 with phase := .copyBack 1, done := 2, locked := true }; Map.find (dR m).moves 7 = some m ∧ 0 < m.done) ∧
    (let m := { mv0 with done := 512 }; let s := dR m; ∀ p ∈ m.pgs, s.readLE p.leafAt 8 = p.leaf.toNat) ∧ mp0.leaf.toNat % 65536 ≤ mp0.newLeaf.toNat % 65536 ∧
    (let m := { mv0 with done := 512, pgs := [{ mp0 with leaf := 1#64 }] }; let s := dR m; ¬ ∀ p ∈ m.pgs, s.readLE p.leafAt 8 = p.leaf.toNat) ∧
    (let m := { mv0 with done := 512, evac := true, pgs := [{ mp0 with leaf := 1#64 }] }; let s := dR m; let l := leafAt0 s 0x10000; mp0.va < 2 ^ 57 ∧ s.walk 0 0x10000 = .leaf l ∧ mp0.va % 65536 = 0 ∧ s.refresh = [] ∧ l.large = decide (m.lines = 16384) ∧ s.stackOf (l.bits.toNat / 65536 % 2 ^ 36 * 65536) = s.stackOf mp0.src ∧ s.typOf mp0.dst < 8) ∧
    (let m := { mv0 with phase := .forwarding, shootsLeft := 0 }; let s := dR m; Map.find s.moves 7 = some m ∧ (∀ kv ∈ s.groups, kv.2.pend = []) ∧ s.tileOps = []) ∧
    (let m := { mvS with phase := .forwarding, shootsLeft := 0 }; let s := dR m; Map.find s.moves 7 = some m ∧ (∀ kv ∈ s.groups, kv.2.pend = []) ∧ s.tileOps = []) := by
  decide +kernel

/-- A device whose tables hold one page, or a pair of tiers, and whose context asks for reports. -/
def dHot (x : Ctx) (m : List Host.Cell) : State := { dev x l0 g0 with mem := m }
def memT : List Host.Cell := setLE (fetchTables []) (2 ^ 40 + 0x5000) 8 (2 ^ 63 + 2 ^ 62 + 2 ^ 59 + 7 * 2 ^ 56 + 2 ^ 42 + 0x30000 + 5)
def cH : Ctx := { c0 with htbase := 0x1D000#64, htsize := 4#64, htmin := 0#64 }
def cA : Ctx := { c0 with migpol := 0x1FF00#64 }

theorem witness_movesRun_reports : (let s := { dev { c0 with pages := [{ va := 0x10000, pinEnd := 5 }] } l0 g0 with gunits := 10 * 17000000000 }; ((s.ctx 0).hist 0x10000).pinEnd ≠ 0 ∧ ((s.ctx 0).hist 0x10000).pinEnd ≤ s.gtime) ∧
    (let s := dev { c0 with pages := [{ va := 0x10000, pinEnd := 5 }] } l0 g0; s.gtime < ((s.ctx 0).hist 0x10000).pinEnd) ∧ ((st g0).ctx 0).hist 0x10000 = { va := 0x10000 } ∧
    (let s := { st g0 with nextHot := 5 }; s.gtime < s.nextHot * 1000) := by
  decide +kernel

theorem witness_movesRun_hot : let s := { dHot cH (fetchTables []) with nextHot := 0 }; let l := leafAt0 s 0x10000
    s.nextHot * 1000 ≤ s.gtime ∧ s.ctxNums = [0] ∧ (s.ctx 0).htsize ≠ 0#64 ∧ s.leaves 0 = [(0x10000, l)] ∧ l.large = false ∧ l.bits.toNat / 2 ^ 59 % 8 < 3 ∧ (s.ctx 0).htmin.toNat ≤ Map.get 0 s.hot 0x1000002 ∧
      (s.ctx 0).migpol.getLsbD 16 = false ∧ Map.sortedFrom 0 s.hot = true ∧ (s.vWriteBytes 0 (0x1D000) (leBytes 24 0xFF)).leaves 0 = [(0x10000, l)] := by
  simp only [State.leaves, leavesFrom_fast]; decide +kernel

theorem witness_movesRun_pairs : let s := { dHot cA memT with nextHot := 0 }; let f := leafAt0 s 0x0; let n := leafAt0 s 0x10000
    s.nextHot * 1000 ≤ s.gtime ∧ s.ctxNums = [0] ∧ (s.ctx 0).htsize = 0#64 ∧ (s.ctx 0).migpol.getLsbD 16 = true ∧ s.leaves 0 = [(0x0, f), (0x10000, n)] ∧ f.large = false ∧ n.large = false ∧ f.bits.toNat / 2 ^ 59 % 8 = 1 ∧ n.bits.toNat / 2 ^ 59 % 8 = 0 ∧
      s.dieOf 1 (2 ^ 42 + 0x30000) = s.dieOf 0 (2 ^ 40 + 0x20000) ∧ s.dieOf 1 (2 ^ 42 + 0x30000) < 9 ∧ ¬ s.staysPut 0 0x0 f ∧ ¬ s.staysPut 0 0x10000 n ∧ s.mayStart 0 0x0 ∧ s.mayStart 0 0x10000 ∧
      (s.ctx 0).migpol.toNat % 256 ≤ Map.get 0 s.hot 0x4000003 ∧ Map.get 0 s.hot 0x1000002 ≤ 255 ∧ s.engineFree (2 ^ 42 + 0x30000) = true ∧ s.typOf (2 ^ 42 + 0x30000) < 8 ∧ s.typOf (2 ^ 40 + 0x20000) < 8 := by
  unfold State.staysPut State.mayStart; simp only [State.leaves, leavesFrom_fast]; decide +kernel

/-- A port that is up, a flit for it, and its device; a request of the far end for the page at 0x10000 by export entry 0. -/
def pUp : Port := { up := true }
def dPort (p : Port) : State := { st g0 with ports := [(0, p)] }
def fq (op arg : Nat) (data : List Byte) : FReq := { op := op, src := 5, e2e := 1, addr := 0, arg := arg, data := data }
def fl (lane seq : Nat) (r : List Byte) : List Byte := flitOf ⟨lane, 2, false, false, 0, seq⟩ r
/-- An export table at physical 2^40 + 0x2E000 that exports the page. -/
def dX (p : Port) (w : Nat) : State := { dPort p with expbase := 0x1000002E000#64, expsize := 4#64, mem := setLE mem0 (2 ^ 40 + 0x2E000) 8 w }
def expW (page : Nat) : Nat := 2 ^ 63 + 7 * 2 ^ 60 + page

theorem witness_fabricPorts_flits : (let f := fl 0 0 ((fq 0 7 []).bytes ++ List.replicate 228 0#8); ((fq 0 7 []).bytes ++ List.replicate 228 0#8).length = 240 ∧ Map.get [] ((dPort pUp).port 0).partial_ (16 * 0 + 2) = [] ∧ ((dPort pUp).port 0).up = true ∧ ((dPort pUp).port 0).retraining = false) ∧ ((dPort {}).port 0).up = false ∧ leNat ([1#8].drop 248) ≠ crc64 ([1#8].take 248) ∧
    (pUp.rxSeq < 4096 ∧ 4095 ≠ pUp.rxSeq ∧ 1 ≠ pUp.rxSeq ∧ (1 + 4096 - 0) % 4096 < 2048 ∧ ¬ (4095 + 4096 - 0) % 4096 < 2048) ∧
    (let p : Port := { pUp with replay := [[], []], txSeq := 2 }; p.replay.length ≤ 1024 ∧ p.txSeq < 4096 ∧ 1 = (p.txSeq + 4096 - p.replay.length + 2 - 1) % 4096) ∧
    (let r := fq 1 3 [1#8, 2#8, 3#8, 4#8]; r.op < 4 ∧ r.reserved = false ∧ r.data.length = r.dataLen 0 ∧ (∃ b ∈ r.bytes, b ≠ 0#8) ∧ (r.bytes ++ List.replicate (240 - r.bytes.length) 0#8).length = 240 ∧ r.e2e = (Map.get 0 (dPort pUp).e2eSeen (16 * 5 + 2) + 1) % 65536) := by
  decide +kernel

theorem witness_fabricPorts_links : (let p := { pUp with resend := true }; p.up = true ∧ p.resend = true ∧ p.retraining = false) ∧ (let p := { pUp with retraining := true }; p.retraining = true ∧ p.txPaused = [] ∧ (dPort p).sent = []) ∧
    (let p := { pUp with retraining := true }; let e : Sent := { dst := 5, vc := 2, req := fq 1 3 [1#8, 2#8, 3#8, 4#8] }
      let s := { dPort p with ports := [(0, p), (1, pUp)], sent := [e], rtbase := 0x1000002D000#64, mem := setLE mem0 (2 ^ 40 + 0x2D028) 8 (2 ^ 63 + 0xFFFFFF01 + 15 * 2 ^ 32) }
      (s.port 0).retraining = true ∧ (s.port 0).txPaused = [] ∧ e.port = 0 ∧ e.req.op < 3 ∧ e.req.data.length ≤ 228 ∧ { s with ports := s.ports.put 0 { p with up := false } }.routeOf e.dst = some (1, 15)) ∧
    ((0 < 12 ∧ (∀ m, m < 12 → m ≠ 0 → (1#64).getLsbD m = ((dPort pUp).port m).en) ∧ (1#64).getLsbD 0 = true ∧ pUp.en = false ∧ (0#64).getLsbD 0 = pUp.en) ∧
      (let p := { pUp with en := true }; (∀ m, m < 12 → m ≠ 0 → (0#64).getLsbD m = ((dPort p).port m).en) ∧ (0#64).getLsbD 0 = false ∧ p.en = true ∧ p.txPaused = [] ∧ (dPort p).sent = [])) := by
  decide +kernel

theorem witness_fabricPorts_requests : (let r := fq 0 7 []; let s := dX { pUp with rx := [(2, [r])] } (expW 1); let p := s.port 0; Map.get [] p.rx 2 = [r] ∧ Map.find p.paused 2 = none ∧ r.op < 4 ∧
      (let w := s.readLE s.expbase.toNat 8; 0 < s.expsize.toNat ∧ w = expW 1 ∧ w.testBit 63 = true ∧ w / 2 ^ 41 % 2 ^ 15 = 0 ∧ w / 2 ^ 56 % 16 = 0 ∧ w.testBit 62 = true ∧ w.testBit 61 = true ∧ w % 2 ^ 41 * 65536 = 0x10000) ∧
      (let l := leafAt0 s 0x10000; s.walk 0 0x10000 = .leaf l ∧ l.bits.getLsbD 58 = true ∧ l.bits.getLsbD 57 = true ∧ leafPlace l 0x10000 = .phys (2 ^ 40 + 0x20000) 0x10000 0 1) ∧
      s.served 0 { va := 0x10000, place := .phys (2 ^ 40 + 0x20000) 0x10000 0 1, size := 8 } = true ∧ s.lineBad (2 ^ 40 + 0x20000) = false ∧ s.routeOf 5 = none) ∧
    (let r := fq 1 3 [1#8, 2#8, 3#8, 4#8]; let s := dX { pUp with rx := [(2, [r])] } (expW 1); Map.get [] (s.port 0).rx 2 = [r] ∧ r.op = 1 ∧ r.data.length = r.arg % 128 + 1) ∧
    ((dX pUp 0).readLE (dX pUp 0).expbase.toNat 8 = 0 ∧ (0).testBit 63 = false) ∧ ((dX pUp (expW 2)).walk 0 0x20000 = .absent ∧ (dX pUp (expW 3)).walk 0 0x30000 = .malformed) ∧ (leafAt0 (st g0) 0x40000).bits.getLsbD 58 = false := by
  decide +kernel

theorem witness_fabricPorts_pauses : (((dPort pUp).port 0).up = true ∧ Map.find ((dPort pUp).port 0).txPaused 2 = none) ∧
    (let s := { dPort { pUp with txPaused := [(2, 5)] } with touched := [(.fabric 0 2, 0, 0)] }; Map.find (s.port 0).txPaused 2 = some 5 ∧ s.touched = [(.fabric 0 2, 0, 0)]) := by
  decide +kernel

/-- The word of a debug command that names launch 3 and every group, or group 0. -/
def dcAll : W64 := 0x40000030000#64
/-- A group saved by the debug unit, whose frame stands at 0x10000, and its device. -/
def gDbg : Group := { g0 with residence := .saved 0 }
def dDbg (x : Group) (a v : Nat) : State := { dev { c0 with lkbase := 0x10000#64 } l0 x with mem := setLE mem0 (2 ^ 40 + 0x20004) 2 (a + 256 * v) }

theorem witness_debugAndSamples_commands : (let s := st g0; (∃ kv ∈ s.groups, kv.2.ctx = 0 ∧ kv.2.residence ≠ .ended ∧ (s.lau kv.2.launch).lid = dcAll.toNat / 65536 % 65536 ∧ (s.lau kv.2.launch).phase = .running ∧ dcAll.getLsbD 42 = true) ∧
      (s.groups.map (fun kv => kv.1)).Nodup ∧ ¬(g0.residence = .saved 0 ∧ g0.dbgGo = false)) ∧ ((st g0).lau g0.launch).lid ≠ (0#64).toNat / 65536 % 65536 ∧
    (let s := dDbg gDbg gDbg.salloc gDbg.valloc; Map.find s.groups 1 = some gDbg ∧ gDbg.residence = .saved 0 ∧ gDbg.dbgGo = false ∧ gDbg.ctx = 0 ∧ (s.lau gDbg.launch).lid = 3 ∧ (s.ctx 0).st = .running ∧ (s.ctx 0).lkFault = none ∧
      8 * gDbg.valloc ≤ s.freeV gDbg.core gDbg.slot ∧ 64 * gDbg.salloc ≤ s.freeS gDbg.core gDbg.slot ∧ (s.slotGroups gDbg.core gDbg.slot).length < 96 ∧ s.frameOk gDbg = true) ∧
    (dDbg gDbg 9 9).frameOk gDbg = false ∧ (let s := dev { c0 with lkFault := some 0x10000 } l0 gDbg; (s.ctx 0).lkFault ≠ none) := by
  simp only [State.frameOk, vRead_fast]; decide +kernel

theorem witness_debugAndSamples_saves : (let x := { g0 with atEdge := true, dbgStop := some 1 }; let s := dDbg x 1 1; Map.find s.groups 1 = some x ∧ x.residence = .resident ∧ x.queue = [] ∧ x.pend = [] ∧ x.pfWait = [] ∧ s.FrameMapped x ∧ (s.lau x.launch).target = none) ∧
    (Map.find (st g0).groups 1 = some g0 ∧ g0.dbgStop = none) ∧ (let s := dev { c0 with hits := [{ stops := some 1 }] } l0 g0; (s.ctx 0).hits = [{ stops := some 1 }] ∧ Map.find s.groups 1 = some g0 ∧ ((st g0).ctx 0).hits = []) ∧
    (let h : Hit := {}; let s := dev { c0 with hits := [h] } l0 g0; (s.ctx 0).hits = [h] ∧ h.launch = none ∧ h.stops = none) := by
  unfold State.FrameMapped; decide +kernel

/-- A sampler with a tag of the group, or none. -/
def sTag : SampleTag := { group := 1, lid := 3 }
def dSm (x : Sampler) (y : Group) : State := { dev c0 l0 y with samplers := [(4 * 0 + 1, x)] }

theorem witness_debugAndSamples_samples : (let x : Sampler := {}; Map.find (dSm x g0).samplers (4 * 0 + 1) = some x ∧ x.tag = none ∧ x.armed = false ∧ x.due ≤ (dSm x g0).atick) ∧
    (let x : Sampler := { tag := some sTag, ctx := some 0 }; let s := dSm x g0; Map.find s.samplers (4 * 0 + 1) = some x ∧ x.ctx = some sTag.ctx ∧ Map.find s.groups sTag.group = some g0 ∧ g0.pend = [] ∧ g0.ops = []) ∧
    (let k := { sTag with hi := 1 }; let x : Sampler := { tag := some k, ctx := some 0 }; let s := dSm x gLoad; Map.find s.groups k.group = some gLoad ∧ k.trapped = false ∧ (∃ p ∈ gLoad.pend, k.lo < p.id ∧ p.id ≤ k.hi) ∧ (s.ctx k.ctx).st = .running) := by
  decide +kernel

theorem witness_powerAndSideband : (∀ b ∈ [0, 1, 2, 3, 4, 5, 6], ({ st g0 with boot := b }).boot = b) ∧
    (let k : DieClock := { want := some 1300 }; let s := { st g0 with clocks := [(0, k)] }; (s.clk 0).want = some 1300 ∧ (s.clk 0).relock = none ∧ (s.clk 0).stopped = false ∧ (s.clk 0).lastEnd = none ∧ (∀ kv ∈ s.ctxs, kv.2.estimate + 1500 ≤ kv.2.vbcur.toNat)) ∧
    (let k : DieClock := { want := some 1300, lastEnd := some 1 }; let s := { st g0 with clocks := [(0, k)] }; ¬ ∀ e, (s.clk 0).lastEnd = some e → e + 10000 ≤ s.gtime) ∧
    (let k : DieClock := { relock := some (0, 1300) }; let s := { st g0 with clocks := [(0, k)], gunits := 1500 * 17000000000 }; (s.clk 0).relock = some (0, 1300) ∧ 0 + 1500 ≤ s.gtime ∧ ({ s with gunits := 0 }).gtime < 0 + 1500) ∧
    ((State.reset.clk 0).cfreq = 1200 + 100 * 0 ∧ (State.reset.clk 0).stopped = false ∧ State.reset.sent = [] ∧ State.reset.ctxs = [] ∧ (∀ p, p < 12 → (State.reset.port p).txPaused = [])) ∧
    (let s := { st g0 with refresh := [(0, 5)], touched := [(.tier 0 0, 0, 0)] }; Map.find s.refresh 0 = some 5 ∧ s.touched = [(.tier 0 0, 0, 0)] ∧ Map.find (st g0).refresh 0 = none) ∧
    (let s := { State.reset with boot := 6 }; s.boot ≠ 0 ∧ s.retiring = [] ∧ 5 ∉ s.retCores ∧ 5 / 80 ∉ s.retDies ∧ s.pagesOnDie 4 = false) ∧ (let s := { State.reset with boot := 6, retiring := [(0, 1)] }; s.retiring ≠ []) ∧
    (let s := { st g0 with bervosLog := [[1#8]] }; s.bervosLog[0]? = some [1#8] ∧ s.bervosLog[1]? = none) := by
  refine ⟨by decide +kernel, ⟨by decide, by decide, by decide, by decide, by decide +kernel⟩, ?_, by decide +kernel, by decide +kernel, by decide +kernel, by decide +kernel, by decide +kernel, by decide +kernel⟩
  intro k s h
  have := h 1 (by decide)
  revert this
  decide +kernel

/-- A group whose scalar thread is next, with a word at its `pc`. -/
def dS (x : Group) (w : Nat) : State := { dev c0 l0 x with agenda := [.scalar 1], mem := setLE mem0 (2 ^ 40 + 0x20000) 4 w }

theorem witness_stepRunsDecoded : (let s := dS g0 0x10040506; s.agenda = [.scalar 1] ∧ s.boot = 6 ∧ Map.find s.groups 1 = some g0 ∧ s.canScalar g0 = true ∧ (∀ e ∈ g0.front, ¬(e.kind = .joinWait ∧ e.lapsed = true)) ∧ s.samplers = [] ∧ ({ s with agenda := [] } : State).yields 1 g0 = false ∧ s.WordAtPc g0 0x10040506 ∧
      decode (leBytes 4 0x10040506) = .ok (.add 4 5 6, []) ∧ (Instr.add 4 5 6).kind = .scalar ∧ (∃ t, exec (.add 4 5 6) s = .next t)) ∧
    (decode (leBytes 4 0xF0000000)).isOk = false ∧ (let x := { g0 with pc := 2#64 }; (dS x 0).canScalar x = true ∧ x.pc.toNat % 4 ≠ 0) ∧ (let x := { g0 with pc := 0x8000#64 }; ((dS x 0).kd x).ssize ≤ x.pc.toNat) ∧
    (Instr.powerGood).kind = .step := by
  refine ⟨⟨by decide, by decide, by decide +kernel, by decide +kernel, by decide, by decide, by decide +kernel, ⟨by decide, by decide, by decide +kernel⟩, rfl, by decide, ⟨_, rfl⟩⟩, by decide +kernel, by decide +kernel, by decide, by decide⟩

/-- A group of quadrant 0 with a lane block at its head, and a second one. -/
def gQ (n : Nat) : Group := { gL false with sidx := 4 * n, lastIssue := n }

theorem witness_laneIssue_picks : (let x := gQ 0; let y := gQ 1; let s := { dev c0 l0 x with groups := [(1, x), (2, y)] }; (s.groups.map (fun kv => kv.1)).Nodup ∧ Map.find s.groups 1 = some x ∧ x.core = 0 ∧ x.sidx % 4 = 0 ∧ x.queue ≠ [] ∧
      s.issuing x = true ∧ s.goesBefore x y ∧ s.samplers = [] ∧ ∃ b, x.queue = [b] ∧ b.redo ≠ some 0#32 ∧ s.LaneWordAt x (b.start + b.pos) 1 ∧ b.pos ≠ 255) ∧
    (∃ i, decodeLaneBytes (leBytes 12 1) = .ok (i, []) ∧ ∀ a, i ≠ .cpy a ∧ i ≠ .cpy2d a ∧ i ≠ .coll a) ∧ (st g0).groups.all (fun kv => kv.2.queue.isEmpty) = true ∧ (decodeLaneBytes (leBytes 12 5)).isOk = false := by
  refine ⟨⟨by decide, by decide, by decide, by decide, by decide, by decide +kernel, by unfold State.goesBefore; decide +kernel, by decide, ⟨_, rfl, by decide, ⟨by decide, by decide +kernel⟩, by decide⟩⟩, ⟨_, rfl, fun a => ⟨Instr.noConfusion, Instr.noConfusion, Instr.noConfusion⟩⟩, by decide +kernel, by decide +kernel⟩

/-- The lane word `vadd.i32 v0, v0, v0` of that block issues: nothing of it is held back or raised. -/
theorem witness_laneIssue_ready : let x := gQ 0; let s := dev c0 l0 x; let u : State := { s with cur := 1 }
    ∃ a, decodeLaneBytes (leBytes 12 1) = .ok (.vadd a, []) ∧ a.ty ∈ intTypes ∧ x.interval = false ∧ LaneReady u x a.msk (regsOf a.ty a.va ++ bSources a) (regsOf a.ty a.vd) (sSources a) [] ∧ Map.get 0 s.quadFree (4 * 0 + 0) ≤ s.atick := by
  refine ⟨_, rfl, by decide, by decide, ?_, by decide⟩
  unfold LaneReady; decide +kernel

/-- A lane word `vand.n32 v1, v2, v3` with E stands at the lane base. -/
def wAnd : Nat := encode (.vand { vd := 1, va := 2, vb := 3, vc := 0, msk := 0, ty := .n32, rm := 0, md := 0, ss := 0, im := 0, sb := false, e := true })
def dU (x : Group) (w : Nat) : State := { dev c0 l0 x with mem := setLE (setLE mem0 (2 ^ 40 + 0x20000) 4 w) (2 ^ 40 + 0x28000) 12 wAnd }

theorem witness_laneIssue_raises : (let x := { g0 with verr := [64] }; let s := dU x 0x00400000; Map.find s.groups 1 = some x ∧ x.verr ≠ [] ∧ x.queue = [] ∧ s.canScalar x = true ∧ x.pend = [] ∧ x.trap = none ∧ (s.kd x).trapv ≠ 0xFFFFFFFF ∧
      s.WordAtPc x 0x00400000 ∧ decode (leBytes 4 0x00400000) = .ok (.endPath, [])) ∧ ((st g0).issuing g0 = true ∧ g0.verr = []) ∧
    (let x := { gL false with verr := [64] }; let s := dU x 0; (∃ b, x.queue = [b] ∧ b.redo ≠ some 0#32 ∧ s.LaneWordAt x (b.start + b.pos) wAnd ∧ b.pos ≠ 255) ∧ s.issuing x = true ∧ x.trap = none ∧ x.interval = false ∧ x.pendV = [] ∧ x.pendS = [] ∧
      (∃ a, decodeLaneBytes (leBytes 12 wAnd) = .ok (.vand a, []) ∧ a.ty = .n32 ∧ a.sb = false ∧ a.imm = false ∧ a.vd < 8 * x.valloc ∧ a.va < 8 * x.valloc ∧ a.vb < 8 * x.valloc ∧ a.ss < 64 * x.salloc ∧ x.lfsr.length = 32 ∧
        (1#32 ≠ 0#32 ∧ ∀ l, l < 32 → ((1#32).getLsbD l = true ↔ (x.active a.msk).getLsbD l = true ∧ (32 * a.va + l ∈ x.verr ∨ 32 * a.vb + l ∈ x.verr))))) := by
  refine ⟨⟨by decide, by decide, by decide, by decide +kernel, by decide, by decide, by decide, ⟨by decide, by decide, by decide +kernel⟩, rfl⟩, ⟨by decide +kernel, by decide⟩,
    ⟨_, rfl, by decide, ⟨by decide, by decide +kernel⟩, by decide⟩, by decide +kernel, by decide, by decide, by decide, by decide, ⟨_, rfl, by decide, by decide, by decide, by decide, by decide, by decide, by decide, by decide, by decide +kernel, by decide +kernel⟩⟩

theorem reset_tables_wf : State.reset.TablesWf := by unfold State.TablesWf State.MemWf; decide +kernel

theorem reset_slots_apart : State.reset.SlotsApart := by
  refine ⟨by decide, fun c d i _ h => ?_⟩
  have e : State.reset.ctx c = {} := rfl
  rw [e] at h
  simp at h

theorem witness_invariants : (State.reset.TablesWf ∧ ∃ t, step State.reset = .next t) ∧ (State.reset.SlotsApart ∧ ∃ t, step State.reset = .next t) := ⟨⟨reset_tables_wf, _, rfl⟩, reset_slots_apart, _, rfl⟩

theorem witness_decodeEncodeAgree : ((Instr.add 4 5 6).wf = true ∧ (Instr.add 4 5 6).kind = .scalar) ∧ (∃ i, decodeLane 1 = .ok i ∧ i.wf = true ∧ i.kind = .lane) ∧ (0x10040506 < 2 ^ 32 ∧ decodeScalar 0x10040506 = .ok (.add 4 5 6)) :=
  ⟨by decide, ⟨_, rfl, by decide, by decide⟩, by decide, rfl⟩

/-! ## Words of the encoding tables (09 R142 to R158)

Each word is written out from the tables of the encodings chapter: the fields of its class, bit by bit. -/

theorem test_word_add : decode [0x02#8, 0x01#8, 0x03#8, 0x10#8] = .ok (.add 3 1 2, []) := by rfl

/-- Scalar words of every major class (R142 to R148) and what they stand for. -/
def scalarWords : List (Nat × Instr) :=
  [(0x00000000, .nop), (0x00400000, .endPath), (0x00800007, .trap 7), (0x00C40000, .tret 1), (0x01000009, .brk 9), (0x10040506, .add 4 5 6), (0x15040506, .div 4 5 6),
   (0x2404B12D, .add2A 300 301), (0x28000C07, .mov 3 7), (0x2E010203, .cmpLt 1 2 3), (0x32010203, .sel 1 2 3), (0x36010203, .lea 2 1 2 3), (0x38000C28, .wset 3 40), (0x4007FFFE, .li 7 0xFFFE),
   (0x5805003F, .shli 5 63), (0x68050010, .sget 5 16), (0x6C050010, .sset 16 5), (0x701426AC, .lds 5 9 2 1 1 3), (0x78505437, .satom 20 21 0 3 3 1), (0x83FFFFFF, .jmp 0x3FFFFFF),
   (0x98030004, .brLt 3 4), (0xB4C05008, .fjoin 3 5 8), (0xC0000005, .vrun 5), (0xC9FF83FF, .wcnt 31 31 0 31 31), (0xD8300000, .barBlk 3), (0xE0000002, .vgrow 2), (0xE4000007, .rgnEnter 7),
   (0xE6000000, .rgnLeave), (0xE8030004, .vcost 3 4), (0xEC000000, .vdone)]

/-- The decoder reads a word as one instruction, with nothing left. -/
def readsAs (w : Nat) (i : Instr) : Bool := match decode (leBytes 4 w) with | .ok (j, []) => decide (j = i) | _ => false

theorem test_words_scalar : ∀ e ∈ scalarWords, readsAs e.1 e.2 = true ∧ encode e.2 = e.1 := by decide +kernel

/-- A lane word from its three parcels (R149): parcel 0 lowest. -/
def parcels (a b c : Nat) : Nat := a + 2 ^ 32 * b + 2 ^ 64 * c

/-- `vadd.i32 v4, v5, v6` under `m3`, E (class 0: op 0). -/
theorem test_word_vadd : decodeLaneBytes (leBytes 12 (parcels 0x00000001 0xC0060000 0x000080A0)) =
    .ok (.vadd { vd := 4, va := 5, vb := 6, vc := 0, msk := 3, ty := .i32, rm := 0, md := 0, ss := 0, im := 0, sb := false, e := true }, []) := by rfl

/-- `fence.dev` with acquire and release, E (class 4). -/
theorem test_word_fence : decodeLaneBytes (leBytes 12 0x038000000000004000000601) =
    .ok (.fence { vd := 0, va := 0, vb := 0, sz := 0, vc := 0, msk := 0, ty := .i32, rm := 0, md := 1, win := 0, am := 0, im := 0, scope := 3, ord := 0, pfl := 0, noret := false, e := true }, []) := by rfl

theorem test_words_reserved : ∀ w ∈ [0x04000000, 0x3C000000, 0xF0000000, 0x00000001, 0xB8C00000, 0x70142602], (decode (leBytes 4 w)).isOk = false := by decide +kernel
theorem test_bytes_short : (decode [0x02#8, 0x01#8, 0x03#8]).isOk = false ∧ (decodeLaneBytes (leBytes 11 1)).isOk = false := by decide +kernel

/-! ## Ill-formed terms

For each check of Sys2Proof/WellFormed.lean a term that it refuses, beside a term that it accepts. -/

def lArgs (t : Ty) : LArgs := { vd := 4, va := 6, vb := 8, vc := 0, msk := 0, ty := t, rm := 0, md := 0, ss := 0, im := 0, sb := false, e := true }
def mArgs : MArgs := { vd := 4, va := 6, vb := 0, sz := 2, vc := 0, msk := 0, ty := .i32, rm := 0, md := 0, win := 0, am := 0, im := 0, scope := 0, ord := 0, pfl := 0, noret := false, e := true }
def aArgs : MArgs := { mArgs with sz := 0 }
def tArgs (t : Ty) : TArgs := { zd := 1, za := 0, zb := 0, vx := 0, shp := 0, msk := 0, ty := t, rm := 0, md := 0, ss := 0, im := 0, win := 0, bt := .i32, e := true }
def kArgs : AArgs := { sd := 4, sa := 5, sb := 6, sc := 7, ty := .i32, rm := 0, md := 0, ss := 0, til := false, zt := 0, e := true }

theorem smoke_wf_scalar : ∀ i ∈ [Instr.add 256 0 0, .add2A 1024 0, .mov 0 1024, .sel 0 0 256, .lea 4 0 0 0, .wset 16 0, .winv 16, .wlim 0 16, .li 0 65536, .shli 0 64, .sget 0 6, .sset 0x60 0, .lds 0 0 3 1 0 0, .lds 0 0 0 0 2 0, .lds 0 0 0 0 0 5,
    .sts 0 0 0 1 0, .satom 1 0 9 0 0 0, .satom 0 0 10 0 0 0, .jmp 67108864, .jr 1024, .brEq 0 65536, .fsplit 16 0, .fjoin 0 1 0, .fjoin 0 0 4096, .fany 0 16, .vrun 67108864, .wcnt 32 0 0 0 0, .hwait 1024, .fmtset 0 0, .fmtset 64 0, .dpushQ 0 16,
    .barBlk 16, .barClu 8, .vgrow 0, .vshrink 33, .rgnEnter 65536, .vcost 0 65536, .trap 65536, .tret 16, .brk 65536], i.wf = false := by decide +kernel
theorem smoke_wf_step : ∀ i ∈ [Instr.laneIssue 720 0, .laneIssue 0 4, .chunkArrive 16 0 0 ⟨0, false, 0, 0, 0, [], []⟩, .slotReleaseNotice 0 8 0, .failNotice 0 0 256, .vgrowGrant 1440, .partWrite 0 23 0#64, .floorWrite 0 57 0#64, .tailSnoop 0 64,
    .correctedThreshold 9 0, .retirementDone 3 0, .flitReceive 0 [], .fabricRequest 0 16, .watchpointWrite 0 16 0#64, .targetWrite 0 4 0 0#64, .clockRestart 9, .selfRefreshExit 12, .vacate 16, .portDown 12], i.wf = false := by decide +kernel

theorem smoke_wf_int : (Instr.vadd (lArgs .i32)).wf = true ∧ (∀ i ∈ [Instr.vadd { lArgs .i32 with vd := 256 }, .vadd { lArgs .i32 with msk := 16 }, .vadd { lArgs .i32 with rm := 7 }, .vadd (lArgs .f32), .vadd { lArgs .i32 with rm := 1 }, .vadd { lArgs .i32 with md := 1 },
    .vadd { lArgs .i32 with vc := 1 }, .vadd { lArgs .i64 with vd := 5 }, .vadd { lArgs .i64 with vb := 7 }, .vadd { lArgs .i32 with sb := true }, .vadd { lArgs .i64 with md := 8, vb := 0 }, .vadd { lArgs .i32 with im := 1 }, .vmad { lArgs .i64 with vc := 1 },
    .vmov (lArgs .i32), .vclz (lArgs .i32), .vbfe { lArgs .i32 with vb := 0, im := 0 }, .vbfi { lArgs .i32 with vb := 0, im := 2 ^ 6 * 32 + 1 }, .vcmp { lArgs .i32 with vd := 0 }, .vcmp { lArgs .i32 with md := 6 }, .vsel { lArgs .i32 with vc := 16 }], i.wf = false) := by decide +kernel
theorem smoke_wf_flt : (Instr.vfadd (lArgs .f32)).wf = true ∧ (∀ i ∈ [Instr.vfadd (lArgs .i32), .vfma { lArgs .f64 with vc := 1 }, .vfmin { lArgs .f32 with rm := 1 }, .vfsqrt (lArgs .f32), .vfcmp { lArgs .f32 with md := 7 }, .vfcls (lArgs .f32), .vcvt { lArgs .f32 with vb := 0, im := 512 },
    .vcvt { lArgs .f32 with vb := 0, im := 1 }, .vcvt { lArgs .q8 with vb := 0 }, .vexp2 { lArgs .f64 with vb := 0 }, .vbfly { lArgs .f32 with vd := 6 }, .vtwid { lArgs .f32 with vd := 5 }, .vcmul { lArgs .f32 with md := 2 }, .vdot { lArgs .i16 with rm := 1 }, .vdot (lArgs .f32)], i.wf = false) := by decide +kernel
theorem smoke_wf_cross : (Instr.vshfl (lArgs .i32)).wf = true ∧ (∀ i ∈ [Instr.vshfl { lArgs .i32 with md := 5 }, .vshfl { lArgs .i32 with md := 1 }, .vred (lArgs .i32), .vscan { lArgs .f32 with vb := 0, md := 3 }, .vbcast { lArgs .i32 with vb := 0, im := 32 }, .vtos (lArgs .i32), .vmsk { lArgs .n32 with va := 16 },
    .vmsk { lArgs .n32 with md := 8, vb := 0 }, .vlid (lArgs .n32), .ivcmp { lArgs .i32 with vd := 0x11 }, .ivcmp { lArgs .i32 with vd := 0x10 }, .ivhull { lArgs .i32 with vd := 5 }, .ivwid { lArgs .n32 with va := 0, vb := 0 }, .ivsum { lArgs .n32 with va := 0, vb := 0 }], i.wf = false) := by decide +kernel
theorem smoke_wf_mem : (Instr.vld mArgs).wf = true ∧ (Instr.vatom aArgs).wf = true ∧ (∀ i ∈ [Instr.vld { mArgs with sz := 7 }, .vld { mArgs with scope := 5 }, .vld { mArgs with vb := 1 }, .vld { mArgs with sz := 5, vd := 5 }, .vld { mArgs with sz := 6, vd := 6 }, .vld { mArgs with ord := 2 },
    .vst { mArgs with ord := 1 }, .vldg { mArgs with va := 7 }, .vldg { mArgs with win := 1 }, .vlds { mArgs with pfl := 1 }, .vprf mArgs, .vatom mArgs, .vatom { aArgs with vc := 1 }, .vatom { aArgs with md := 1, ty := .f32 }, .vatom { aArgs with noret := true }, .vatom { aArgs with am := 1, va := 7 },
    .vatomOrd aArgs, .vbank { aArgs with noret := true }, .fence mArgs, .fence { aArgs with vd := 0, va := 0, md := 2 }], i.wf = false) := by decide +kernel
theorem smoke_wf_tile : (Instr.tld (tArgs .n32)).wf = true ∧ (∀ i ∈ [Instr.tld { tArgs .n32 with zd := 32 }, .tld { tArgs .n32 with msk := 1 }, .tld (tArgs .i32), .tld { tArgs .n32 with shp := 1 }, .tld { tArgs .n32 with shp := 24 }, .tst (tArgs .n32), .tzero { tArgs .i32 with ss := 1 }, .tcvt { tArgs .i32 with rm := 1 },
    .tadd (tArgs .f16), .tmma { tArgs .f32 with bt := .f16 }, .tmma { tArgs .f32 with bt := .f32, md := 4 }, .tmma { tArgs .f32 with bt := .f32, shp := 5 }, .tmmq { tArgs .q8 with bt := .f32 }, .tmerge (tArgs .f32), .sigz { tArgs .f32 with rm := 1 }, .sigx (tArgs .i32), .siglog { tArgs .f32 with vx := 1 }], i.wf = false) := by decide +kernel
theorem smoke_wf_async : (Instr.cpy kArgs).wf = true ∧ (∀ i ∈ [Instr.cpy { kArgs with e := false }, .cpy { kArgs with ss := 1 }, .cpy2d { kArgs with ss := 1022 }, .coll { kArgs with md := 10 }, .coll { kArgs with ty := .e4m3 }, .coll { kArgs with rm := 5 }, .coll { kArgs with zt := 1 }, .coll { kArgs with til := true },
    .coll { kArgs with rm := 1 }, .coll { kArgs with md := 8 }, .coll { kArgs with md := 9 }], i.wf = false) := by decide +kernel

/-! ## Single steps -/

/-- The registers that an instruction leaves in a group. -/
def after (i : Instr) (x : Group) (r : Nat) : Option W64 := match exec i (st x) with | .next t => some ((t.grp 1).sr r) | _ => none

/-- `add` wraps modulo 2^64 (R179). -/
theorem test_add_wraps : after (.add 9 5 6) { g0 with sreg := [(5, 0xFFFFFFFFFFFFFFFF#64), (6, 3#64)] } 9 = some 2#64 := by decide +kernel
/-- A register number 0 reads as zero and discards writes (R2). -/
theorem test_zero_register : after (.add 0 5 6) g0 0 = some 0#64 ∧ after (.add 9 5 0) g0 9 = some 7#64 := by decide +kernel
/-- `div` truncates to zero; `rem` has the sign of the dividend (R180): −7 by 3. -/
theorem test_div_signs : after (.div 9 5 6) { g0 with sreg := [(5, 0xFFFFFFFFFFFFFFF9#64), (6, 3#64)] } 9 = some 0xFFFFFFFFFFFFFFFE#64 ∧
    after (.rem 9 5 6) { g0 with sreg := [(5, 0xFFFFFFFFFFFFFFF9#64), (6, 3#64)] } 9 = some 0xFFFFFFFFFFFFFFFF#64 := by decide +kernel
/-- `mulhn` gives the high half of the unsigned product, `mulh` of the signed (R179). -/
theorem test_mulh : after (.mulhn 9 5 6) { g0 with sreg := [(5, 0xFFFFFFFFFFFFFFFF#64), (6, 3#64)] } 9 = some 2#64 ∧
    after (.mulh 9 5 6) { g0 with sreg := [(5, 0xFFFFFFFFFFFFFFFF#64), (6, 3#64)] } 9 = some 0xFFFFFFFFFFFFFFFF#64 := by decide +kernel
/-- Reset: the state that the spec gives. -/
theorem witness_powerAndSideband_failed : { State.reset with bootFail := some 1 }.bootFail ≠ none ∧ State.reset.bootFail = none := by decide

theorem test_reset_boot : State.reset.boot = 0 ∧ State.reset.mem = [] := by decide

end Sys2Proof.Tests
end

section
/-!
The background work of a core (R77, R55): the writes of a line's write-back touch memory and its error tables only, the
least recently used line is picked, and the join wait that has lapsed resolves as the frontier table gives it.
-/
namespace Sys2Proof.Machine

/-! ## What a write to a context's memory touches -/

/-- t is s but for the tables of uncorrectable lines and frames. -/
def State.SameButRecords (s t : State) : Prop := ∃ ls fs, t = { s with errLines := ls, errFrames := fs }

/-- t is s but for memory, the device's and the peers', and the tables of uncorrectable lines and frames. -/
def State.SameButMemory (s t : State) : Prop := ∃ m p ls fs, t = { s with mem := m, peerMem := p, errLines := ls, errFrames := fs }

theorem State.SameButRecords.refl (s : State) : s.SameButRecords s := ⟨_, _, rfl⟩

theorem State.SameButRecords.trans {s t u : State} (h : s.SameButRecords t) (k : t.SameButRecords u) : s.SameButRecords u := by
  obtain ⟨_, _, rfl⟩ := h
  obtain ⟨ls, fs, rfl⟩ := k
  exact ⟨ls, fs, rfl⟩

theorem State.SameButRecords.mem_eq {s t : State} (h : s.SameButRecords t) : t.mem = s.mem ∧ t.peerMem = s.peerMem := by
  obtain ⟨_, _, rfl⟩ := h
  exact ⟨rfl, rfl⟩

theorem State.SameButRecords.sameButMemory {s t : State} (h : s.SameButRecords t) : s.SameButMemory t := by
  obtain ⟨ls, fs, rfl⟩ := h
  exact ⟨s.mem, s.peerMem, ls, fs, rfl⟩

theorem State.SameButMemory.refl (s : State) : s.SameButMemory s := ⟨_, _, _, _, rfl⟩

theorem State.SameButMemory.trans {s t u : State} (h : s.SameButMemory t) (k : t.SameButMemory u) : s.SameButMemory u := by
  obtain ⟨_, _, _, _, rfl⟩ := h
  obtain ⟨m, p, ls, fs, rfl⟩ := k
  exact ⟨m, p, ls, fs, rfl⟩

theorem State.SameButMemory.stack_eq {s t : State} (h : s.SameButMemory t) : t.stack = s.stack := by
  obtain ⟨_, _, _, _, rfl⟩ := h
  rfl

theorem State.SameButMemory.ctx_eq {s t : State} (h : s.SameButMemory t) (c : Nat) : t.ctx c = s.ctx c := by
  obtain ⟨_, _, _, _, rfl⟩ := h
  rfl

/-- The records of the i-th unit of z bytes in a write of n bytes are cleared, where the write covers it whole (R406). -/
def State.clearUnit (c va n z : Nat) (t : State) (i : Nat) : State :=
  let a := (va + z - 1) / z * z + z * i
  if a + z ≤ va + n then
    match t.ctxPa c a with
    | some pa => t.clearLines pa z
    | none => t
  else t

theorem State.clearCovered_eq (s : State) (c va n : Nat) :
    s.clearCovered c va n = if s.errLines.isEmpty && s.errFrames.isEmpty then s else
      (List.range (n / 65536)).foldl (State.clearUnit c va n 65536) ((List.range (n / 128)).foldl (State.clearUnit c va n 128) s) := rfl

theorem State.clearUnit_records (c va n z : Nat) (t : State) (i : Nat) : t.SameButRecords (State.clearUnit c va n z t i) := by
  dsimp only [State.clearUnit]
  split
  · split
    · exact ⟨_, _, rfl⟩
    · exact .refl t
  · exact .refl t

/-- Clearing the records of the lines that a write covers writes no memory (R406). -/
theorem State.clearCovered_records (s : State) (c va n : Nat) : s.SameButRecords (s.clearCovered c va n) := by
  have pass (z : Nat) (is : List Nat) (t : State) : t.SameButRecords (is.foldl (State.clearUnit c va n z) t) :=
    List.foldlRecOn is _ (motive := t.SameButRecords) (.refl t) (fun u hu i _ => hu.trans (State.clearUnit_records c va n z u i))
  rw [State.clearCovered_eq]
  split
  · exact .refl s
  · exact (pass 128 _ s).trans (pass 65536 _ _)

theorem State.vPut_memory (s : State) (c va : Nat) (b : Byte) : s.SameButMemory (s.vPut c va b) := by
  unfold State.vPut
  split
  · split
    · exact ⟨_, _, _, _, rfl⟩
    · exact ⟨_, _, _, _, rfl⟩
  · exact .refl s

theorem State.vPutBytes_memory (s : State) (c va : Nat) (bs : List Byte) : s.SameButMemory (s.vPutBytes c va bs) := by
  induction bs generalizing s va with
  | nil => exact .refl s
  | cons b t ih => exact (s.vPut_memory c va b).trans (ih _ _)

theorem State.vWriteBytes_memory (s : State) (c va : Nat) (bs : List Byte) : s.SameButMemory (s.vWriteBytes c va bs) :=
  (s.vPutBytes_memory c va bs).trans (State.clearCovered_records _ c va bs.length).sameButMemory

/-! ## A record to system software -/

/-- A record leaves the size of its ring. -/
@[simp] theorem Ring.after_size (r : Ring) : r.after.size = r.size := by
  unfold Ring.after
  split <;> rfl

/-- A record of the fault queue writes memory and its context's ring, of which the size stays, and reports no page of itself. -/
theorem State.postRing_fault (s : State) (c : Nat) (bs : List Byte) :
    ∃ t x, s.SameButMemory t ∧ s.postRing c .fault bs = t.setCtx c x ∧ x.fq.size = (s.ctx c).fq.size ∧ x.pfRecs = (s.ctx c).pfRecs := by
  have written : s.SameButMemory (if (s.ctx c).fq.size = 0#64 then s else s.vWriteBytes c ((s.ctx c).fq.slot bs.length) bs) := by
    split
    · exact .refl s
    · exact s.vWriteBytes_memory c _ bs
  refine ⟨_, _, written, rfl, ?_⟩
  have hrecs := congrArg Ctx.pfRecs (written.ctx_eq c)
  split
  · exact ⟨Ring.after_size _, hrecs⟩
  · exact ⟨Ring.after_size _, hrecs⟩

/-- The log that Bervos keeps is all that a record in it changes (R452). -/
theorem State.logRecord_shape (s : State) (bs : List Byte) : ∃ log, s.logRecord bs = { s with bervosLog := log } := ⟨_, rfl⟩

theorem State.logRecord_stack (s : State) (bs : List Byte) : (s.logRecord bs).stack = s.stack := by
  obtain ⟨log, e⟩ := s.logRecord_shape bs
  rw [e]

theorem State.logRecord_ctx (s : State) (bs : List Byte) (c : Nat) : (s.logRecord bs).ctx c = s.ctx c := by
  obtain ⟨log, e⟩ := s.logRecord_shape bs
  rw [e]
  rfl

/-- A record of the fault queue leaves the stack cache, and of its context the size of the queue and the pages reported. -/
theorem State.post_fault_keeps (s : State) (c kind code lid gid a0 a1 : Nat) :
    let t := s.post c .fault kind code lid gid a0 a1
    t.stack = s.stack ∧ (t.ctx c).fq.size = (s.ctx c).fq.size ∧ (t.ctx c).pfRecs = (s.ctx c).pfRecs := by
  obtain ⟨t, x, ht, e, hsize, hrecs⟩ := s.postRing_fault c (record32 kind code c lid gid s.gtime a0 a1)
  have hctx : ((s.post c .fault kind code lid gid a0 a1).ctx c) = x := by
    rw [State.post, State.logRecord_ctx, e, State.setCtx_ctx, if_pos rfl]
  have hstack : (s.post c .fault kind code lid gid a0 a1).stack = t.stack := by
    rw [State.post, State.logRecord_stack, e, State.setCtx_stack]
  exact ⟨hstack.trans ht.stack_eq, by rw [hctx, hsize], by rw [hctx, hrecs]⟩

/-! ## The write-back of a line -/

/-- The lines of the stack cache with one of them changed. -/
def changeLine (ls : List StackLine) (ln : StackLine) (f : StackLine → StackLine) : List StackLine :=
  ls.map (fun n => if n.core = ln.core ∧ n.ctx = ln.ctx ∧ n.group = ln.group ∧ n.off = ln.off then f n else n)

theorem StackLine.same_iff (a b : StackLine) : a.same b = true ↔ a.core = b.core ∧ a.ctx = b.ctx ∧ a.group = b.group ∧ a.off = b.off := by
  simp [StackLine.same, and_assoc]

theorem State.cleanLine_eq {s t : State} {ln : StackLine} {ok : Bool} (h : s.writeBack ln = (t, ok)) :
    s.cleanLine ln = { t with stack := changeLine t.stack ln (fun n => if ok then { n with dirty := 0#32, stuck := false } else { n with stuck := true, again := false }) } := by
  simp only [State.cleanLine, h, changeLine, StackLine.same_iff]

/-- The state after the dirty words of a line are stored in its backing, and no word of another lane (R77, log 167). -/
def State.storeDirty (s : State) (ln : StackLine) : State :=
  (lanesOf ln.dirty).foldl (fun u i => u.vWrite ln.ctx (ln.backing + 4 * i) 4 (ln.data.getD i 0#32).toNat) s

theorem State.storeDirty_memory (s : State) (ln : StackLine) : s.SameButMemory (s.storeDirty ln) :=
  List.foldlRecOn _ _ (motive := s.SameButMemory) (.refl s) (fun _ hu _ _ => hu.trans (State.vWriteBytes_memory _ _ _ _))

/-- Where the page of a line can be written, its write-back stores the dirty words, and no more of memory changes. -/
theorem State.writeBack_ok {s : State} {ln : StackLine} {pl : Place} (h : s.resolveGlobal (.core ln.core) ln.ctx ln.backing .wr = .ok pl) :
    ∃ t, s.writeBack ln = (t, true) ∧ (s.storeDirty ln).SameButRecords t := by
  refine ⟨_, by simp only [State.writeBack, State.backOk, h]; rfl, ?_⟩
  split
  · exact State.clearCovered_records _ _ _ _
  · exact .refl _

theorem State.cleanLine_ok {s : State} {ln : StackLine} {pl : Place} (h : s.resolveGlobal (.core ln.core) ln.ctx ln.backing .wr = .ok pl) :
    let t := s.cleanLine ln
    t = { s with
      stack := changeLine s.stack ln (fun n => { n with dirty := 0#32, stuck := false })
      mem := t.mem, peerMem := t.peerMem, errLines := t.errLines, errFrames := t.errFrames } ∧
    t.mem = (s.storeDirty ln).mem ∧ t.peerMem = (s.storeDirty ln).peerMem := by
  obtain ⟨t, e, hr⟩ := State.writeBack_ok h
  rw [State.cleanLine_eq e]
  refine ⟨?_, hr.mem_eq⟩
  obtain ⟨_, _, _, _, rfl⟩ := (s.storeDirty_memory ln).trans hr.sameButMemory
  rfl

theorem State.cleanLine_cause {s : State} {ln : StackLine} {c : Nat} (h : s.resolveGlobal (.core ln.core) ln.ctx ln.backing .wr = .cause c) :
    s.cleanLine ln = { s with stack := changeLine s.stack ln (fun n => { n with stuck := true, again := false }) } :=
  State.cleanLine_eq (ok := false) (by simp only [State.writeBack, State.backOk, h])

/-- The state after the missing page of a write-back is reported, once for each page, with access 1 (R402). -/
def State.reportPage (s : State) (c pg : Nat) : State :=
  let u := s.post c .fault 1 0 0xFFFF 0xFFFF pg 1
  if pg ∈ (s.ctx c).pfRecs then s else if (s.ctx c).fq.size = 0#64 then u
  else u.setCtx c { u.ctx c with pfRecs := pg :: (s.ctx c).pfRecs }

theorem State.writeBack_missing {s : State} {ln : StackLine} {pg : Nat} (h : s.resolveGlobal (.core ln.core) ln.ctx ln.backing .wr = .missing pg) :
    s.writeBack ln = (s.reportPage ln.ctx pg, false) := by
  obtain ⟨-, hsize, hrecs⟩ := s.post_fault_keeps ln.ctx 1 0 0xFFFF 0xFFFF pg 1
  simp only [State.writeBack, State.backOk, h, State.reportPage, hsize, hrecs, List.contains_iff_mem]
  split <;> rfl

theorem State.reportPage_stack (s : State) (c pg : Nat) : (s.reportPage c pg).stack = s.stack := by
  obtain ⟨hstack, -, -⟩ := s.post_fault_keeps c 1 0 0xFFFF 0xFFFF pg 1
  unfold State.reportPage
  split
  · rfl
  · split
    · exact hstack
    · exact hstack

theorem State.cleanLine_missing {s : State} {ln : StackLine} {pg : Nat} (h : s.resolveGlobal (.core ln.core) ln.ctx ln.backing .wr = .missing pg) :
    s.cleanLine ln = { s.reportPage ln.ctx pg with stack := changeLine s.stack ln (fun n => { n with stuck := true, again := false }) } := by
  rw [State.cleanLine_eq (State.writeBack_missing h), State.reportPage_stack]
  rfl

/-! ## The least recently used line -/

/-- The less recently used of the line picked so far and the next one. -/
def lessUsed (b : Option StackLine) (n : StackLine) : Option StackLine :=
  match b with
  | some m => if n.used < m.used then some n else b
  | none => some n

theorem leastUsed_eq (ls : List StackLine) : leastUsed ls = ls.foldl lessUsed none := rfl

theorem lessUsed_mem {b : Option StackLine} {n m : StackLine} (h : m ∈ lessUsed b n) : m = n ∨ m ∈ b := by
  unfold lessUsed at h
  split at h
  · split at h
    · exact .inl (Option.some.inj h).symm
    · exact .inr h
  · exact .inl (Option.some.inj h).symm

/-- A line that is used less recently than what it is compared with is the one picked. -/
theorem lessUsed_keeps {ln n : StackLine} {b : Option StackLine} (hn : n ≠ ln → ln.used < n.used)
    (hb : ∀ m ∈ b, m ≠ ln → ln.used < m.used) (h : ln ∈ b ∨ ln = n) : ln ∈ lessUsed b n := by
  rcases h with h | rfl
  · have hle : ¬ n.used < ln.used := by
      by_cases e : n = ln
      · simp [e]
      · have := hn e; omega
    rw [Option.mem_def] at h
    simp [lessUsed, h, hle]
  · cases b with
    | none => rfl
    | some m =>
      by_cases e : m = ln
      · simp [lessUsed, e]
      · simp [lessUsed, hb m rfl e]

/-- The pick ends at the line that is used less recently than every other, once it is seen. -/
theorem foldl_lessUsed {ln : StackLine} {ls : List StackLine} {b : Option StackLine} (hls : ∀ n ∈ ls, n ≠ ln → ln.used < n.used)
    (hb : ∀ m ∈ b, m ≠ ln → ln.used < m.used) (h : ln ∈ b ∨ ln ∈ ls) : ls.foldl lessUsed b = some ln := by
  induction ls generalizing b with
  | nil => simpa using h
  | cons n t ih =>
    have hn : n ≠ ln → ln.used < n.used := hls n (by simp)
    refine ih (fun m hm => hls m (by simp [hm])) ?_ ?_
    · intro m hm
      rcases lessUsed_mem hm with rfl | hm
      · exact hn
      · exact hb m hm
    · rw [List.mem_cons, ← or_assoc] at h
      exact h.imp_left (lessUsed_keeps hn hb)

theorem leastUsed_of_mem {ln : StackLine} {ls : List StackLine} (h : ln ∈ ls) (hls : ∀ n ∈ ls, n ≠ ln → ln.used < n.used) :
    leastUsed ls = some ln := by
  rw [leastUsed_eq]
  exact foldl_lessUsed hls (by simp) (.inr h)

/-! ## The lowest entry of the frontier table -/

/-- The lowest entry so far and the next one, compared by ADDR. -/
def lowestStep (p : FEntry → Bool) (fs : List FEntry) (best : Option (Nat × Nat)) (i : Nat) : Option (Nat × Nat) :=
  let e := fs.getD i {}
  if p e then
    match best with
    | some (_, a) => if e.addr < a then some (i, e.addr) else best
    | none => some (i, e.addr)
  else best

theorem lowestEntry_eq (p : FEntry → Bool) (fs : List FEntry) :
    lowestEntry p fs = ((List.range fs.length).foldl (lowestStep p fs) none).map (fun b => b.1) := rfl

/-- What the search has found among the first n entries: the first of the lowest that satisfy the test. -/
def LowestAmong (p : FEntry → Bool) (fs : List FEntry) (n : Nat) : Option (Nat × Nat) → Prop
  | none => ∀ j < n, p (fs.getD j {}) = false
  | some (i, a) => i < n ∧ p (fs.getD i {}) = true ∧ a = (fs.getD i {}).addr ∧
      ∀ j < n, p (fs.getD j {}) = true → a ≤ (fs.getD j {}).addr ∧ ((fs.getD j {}).addr = a → i ≤ j)

theorem LowestAmong.step {p : FEntry → Bool} {fs : List FEntry} {n : Nat} {b : Option (Nat × Nat)} (h : LowestAmong p fs n b) :
    LowestAmong p fs (n + 1) (lowestStep p fs b n) := by
  unfold lowestStep
  by_cases hp : p (fs.getD n {}) = true
  · rw [if_pos hp]
    cases b with
    | none =>
      refine ⟨by omega, hp, rfl, Nat.forall_lt_succ_right.mpr ⟨fun j hj hpj => ?_, fun _ => by omega⟩⟩
      exact absurd hpj (by rw [h j hj]; decide)
    | some q =>
      obtain ⟨hi, hpi, ha, hmin⟩ := h
      dsimp only
      split
      · refine ⟨by omega, hp, rfl, Nat.forall_lt_succ_right.mpr ⟨fun j hj hpj => ?_, fun _ => by omega⟩⟩
        have := hmin j hj hpj
        omega
      · exact ⟨by omega, hpi, ha, Nat.forall_lt_succ_right.mpr ⟨hmin, fun _ => by omega⟩⟩
  · rw [if_neg hp]
    cases b with
    | none => exact Nat.forall_lt_succ_right.mpr ⟨h, by simpa using hp⟩
    | some q =>
      obtain ⟨hi, hpi, ha, hmin⟩ := h
      exact ⟨by omega, hpi, ha, Nat.forall_lt_succ_right.mpr ⟨hmin, fun hpn => absurd hpn hp⟩⟩

theorem lowestAmong_range (p : FEntry → Bool) (fs : List FEntry) (n : Nat) :
    LowestAmong p fs n ((List.range n).foldl (lowestStep p fs) none) := by
  induction n with
  | zero => simp [LowestAmong]
  | succ n ih => rw [List.range_succ, List.foldl_append]; exact ih.step

theorem lowestEntry_none {p : FEntry → Bool} {fs : List FEntry} (h : lowestEntry p fs = none) : ∀ e ∈ fs, p e = false := by
  have hl := lowestAmong_range p fs fs.length
  rw [lowestEntry_eq, Option.map_eq_none_iff] at h
  rw [h] at hl
  intro e he
  obtain ⟨j, hj, rfl⟩ := List.getElem_of_mem he
  simpa [hj] using hl j hj

/-- The entry found satisfies the test, and it is the first of those that do where they all have its address. -/
theorem lowestEntry_some {p : FEntry → Bool} {fs : List FEntry} {i : Nat} (h : lowestEntry p fs = some i) :
    ∃ e, fs[i]? = some e ∧ p e = true ∧ ∀ j f, fs[j]? = some f → p f = true → f.addr = e.addr → i ≤ j := by
  have hl := lowestAmong_range p fs fs.length
  rw [lowestEntry_eq, Option.map_eq_some_iff] at h
  obtain ⟨⟨k, a⟩, hb, rfl⟩ := h
  rw [hb] at hl
  obtain ⟨hk, hp, ha, hmin⟩ := hl
  refine ⟨fs[k], by simp [hk], by simpa [hk] using hp, fun j f hf hpf hadr => ?_⟩
  obtain ⟨hj, rfl⟩ := List.getElem?_eq_some_iff.mp hf
  have := (hmin j hj (by simpa [hj] using hpf)).2
  simp [hj, ha, hk, hadr] at this
  exact this

/-- The one entry that satisfies a test is the one found. -/
theorem lowestEntry_unique {p : FEntry → Bool} {fs : List FEntry} {i : Nat} {e : FEntry} (he : fs[i]? = some e) (hp : p e = true)
    (huniq : ∀ j f, fs[j]? = some f → p f = true → j = i) : lowestEntry p fs = some i := by
  cases h : lowestEntry p fs with
  | none => simp [lowestEntry_none h e (List.mem_of_getElem? he)] at hp
  | some j =>
    obtain ⟨f, hf, hpf, -⟩ := lowestEntry_some h
    rw [huniq j f hf hpf]

theorem lowestEntry_eq_none {p : FEntry → Bool} {fs : List FEntry} (h : ∀ e ∈ fs, p e = false) : lowestEntry p fs = none := by
  cases hl : lowestEntry p fs with
  | none => rfl
  | some i =>
    obtain ⟨e, he, hp, -⟩ := lowestEntry_some hl
    simp [h e (List.mem_of_getElem? he)] at hp

/-! ## The path at an address, and filing the running path (R45) -/

/-- An entry that is the path at an address. -/
def FEntry.isPath (a : Nat) (e : FEntry) : Bool := e.kind == .ordinary && e.addr == a

theorem Group.pathAt_eq (x : Group) (a : Nat) : x.pathAt a = ((x.front.find? (FEntry.isPath a)).map FEntry.mask).getD 0#32 := by
  change (match x.front.find? (FEntry.isPath a) with | some e => e.mask | none => 0#32) = _
  cases x.front.find? (FEntry.isPath a) <;> rfl

/-- Another element in place of one keeps the first that satisfies a test, where neither of the two does. -/
theorem find?_set_of_not {α : Type} {p : α → Bool} {fs : List α} {i : Nat} {e v : α} (he : fs[i]? = some e) (hpe : p e = false)
    (hpv : p v = false) : (fs.set i v).find? p = fs.find? p := by
  induction fs generalizing i with
  | nil => rfl
  | cons f t ih =>
    cases i with
    | zero =>
      obtain rfl : f = e := by simpa using he
      simp [List.find?, hpe, hpv]
    | succ i => simp [List.find?, ih (i := i) (by simpa using he)]

/-- An element that satisfies a test, put where none before it does, is the first that does. -/
theorem find?_set_first {α : Type} {p : α → Bool} {fs : List α} {i : Nat} {v : α} (hi : i < fs.length) (hpv : p v = true)
    (h : ∀ j f, fs[j]? = some f → p f = true → i ≤ j) : (fs.set i v).find? p = some v := by
  rw [List.find?_eq_some_iff_getElem]
  refine ⟨hpv, i, by simpa using hi, by simp, fun j hj => ?_⟩
  have hne : ¬ p fs[j] = true := fun hpj => by have := h j fs[j] (by simp) hpj; omega
  rw [List.getElem_set_ne (by omega)]
  simpa using hne

/-- The frontier table with another entry in one place. -/
def Group.withEntry (x : Group) (i : Nat) (v : FEntry) : Group := { x with front := x.front.set i v }

theorem Group.withEntry_self {x : Group} {i : Nat} {e : FEntry} (he : x.front[i]? = some e) : x.withEntry i e = x := by
  obtain ⟨hi, rfl⟩ := List.getElem?_eq_some_iff.mp he
  simp [Group.withEntry]

/-- A path put in a place that held no path of another address is found there, and every other path stands. -/
theorem Group.pathAt_withEntry {x : Group} {i a : Nat} {e v : FEntry} (he : x.front[i]? = some e) (hv : v.isPath a = true)
    (hother : ∀ b, b ≠ a → e.isPath b = false) (hfirst : ∀ j f, x.front[j]? = some f → f.isPath a = true → i ≤ j) (b : Nat) :
    (x.withEntry i v).pathAt b = if b = a then v.mask else x.pathAt b := by
  obtain ⟨hi, -⟩ := List.getElem?_eq_some_iff.mp he
  rw [Group.pathAt_eq, Group.pathAt_eq]
  split
  · rename_i hb
    simp [Group.withEntry, hb, find?_set_first hi hv hfirst]
  · rename_i hb
    have hvb : v.isPath b = false := by
      simp only [FEntry.isPath, Bool.and_eq_true, beq_iff_eq] at hv
      simp [FEntry.isPath, hv.2, Ne.symm hb]
    simp [Group.withEntry, find?_set_of_not he (hother b hb) hvb]

/-- A place that held no path, freed: every path stands. -/
theorem Group.pathAt_free {x : Group} {i : Nat} {e : FEntry} (he : x.front[i]? = some e) (hk : e.kind ≠ .ordinary) (b : Nat) :
    (x.withEntry i {}).pathAt b = x.pathAt b := by
  rw [Group.pathAt_eq, Group.pathAt_eq]
  simp [Group.withEntry, find?_set_of_not (p := FEntry.isPath b) he (by simp [FEntry.isPath, hk]) (v := {}) (by simp [FEntry.isPath])]

theorem Group.push_path {x : Group} {addr i : Nat} {e : FEntry} (m : W32) (h : lowestEntry (FEntry.isPath (addr / 4)) x.front = some i)
    (he : x.front[i]? = some e) : x.push addr m = some (x.withEntry i { e with mask := e.mask ||| m }) := by
  have hgd : x.front.getD i {} = e := by simp [he]
  rw [← hgd]
  unfold Group.push
  change (match lowestEntry (FEntry.isPath (addr / 4)) x.front with | some i => _ | none => _) = _
  rw [h]; rfl

theorem Group.push_new {x : Group} {addr i : Nat} (m : W32) (h : lowestEntry (FEntry.isPath (addr / 4)) x.front = none)
    (hi : lowestEntry (fun e => e.kind == .free) x.front = some i) :
    x.push addr m = some (x.withEntry i { kind := .ordinary, mask := m, fmt := x.fmt, addr := addr / 4, hnd := x.trap.isSome }) := by
  unfold Group.push
  change (match lowestEntry (FEntry.isPath (addr / 4)) x.front with | some i => _ | none => _) = _
  rw [h]
  change (match lowestEntry (fun e => e.kind == .free) x.front with | some i => _ | none => _) = _
  rw [hi]; rfl

/-- Filing lanes at an address (R45): with an entry free, they join the path there or become one, and no other path changes. -/
theorem Group.push_files {x : Group} (addr : Nat) (m : W32) (hfree : ∃ f ∈ x.front, f.kind = .free) :
    ∃ i v, x.push addr m = some (x.withEntry i v) ∧ v.kind = .ordinary ∧
      ∀ a, (x.withEntry i v).pathAt a = if a = addr / 4 then x.pathAt a ||| m else x.pathAt a := by
  cases hl : lowestEntry (FEntry.isPath (addr / 4)) x.front with
  | some i =>
    obtain ⟨e, he, hp, hlow⟩ := lowestEntry_some hl
    have ⟨hk, ha⟩ : e.kind = .ordinary ∧ e.addr = addr / 4 := by simpa [FEntry.isPath] using hp
    have hfirst : ∀ j f, x.front[j]? = some f → f.isPath (addr / 4) = true → i ≤ j := fun j f hf hpf =>
      hlow j f hf hpf (by simp only [FEntry.isPath, Bool.and_eq_true, beq_iff_eq] at hpf; rw [hpf.2, ha])
    have hother : ∀ b, b ≠ addr / 4 → e.isPath b = false := fun b hb => by simp [FEntry.isPath, ha, Ne.symm hb]
    have hpath : x.pathAt (addr / 4) = e.mask := by
      have h := Group.pathAt_withEntry he hp hother hfirst (addr / 4)
      rwa [Group.withEntry_self he, if_pos rfl] at h
    refine ⟨i, _, Group.push_path m hl he, hk, fun a => ?_⟩
    rw [Group.pathAt_withEntry he (by simpa [FEntry.isPath] using hp) hother hfirst]
    split
    · rename_i h; rw [h, hpath]
    · rfl
  | none =>
    have hnone := lowestEntry_none hl
    cases hf : lowestEntry (fun e => e.kind == .free) x.front with
    | none =>
      obtain ⟨f, hm, hk⟩ := hfree
      have hnot := lowestEntry_none hf f hm
      simp [hk] at hnot
    | some i =>
      obtain ⟨e, he, hp, -⟩ := lowestEntry_some hf
      have hk : e.kind = .free := by simpa using hp
      have hpath : x.pathAt (addr / 4) = 0#32 := by
        have hfind : x.front.find? (FEntry.isPath (addr / 4)) = none := List.find?_eq_none.mpr (fun f hm => by simp [hnone f hm])
        simp [Group.pathAt_eq, hfind]
      refine ⟨i, _, Group.push_new m hl hf, rfl, fun a => ?_⟩
      rw [Group.pathAt_withEntry he (a := addr / 4) (by simp [FEntry.isPath]) (fun b _ => by simp [FEntry.isPath, hk])
        (fun j f hj hpf => absurd hpf (by simp [hnone f (List.mem_of_getElem? hj)]))]
      split
      · rename_i h; simp [h, hpath]
      · rfl

/-! ## The join wait that has lapsed (R55) -/

/-- A join wait whose time has run out. -/
def FEntry.lapsedWait (e : FEntry) : Bool := e.kind == .joinWait && e.lapsed

/-- The group after the running path is filed, if there is one. -/
def Group.fileRunning (x : Group) : Group :=
  if x.wait = .frontier then x else
    match x.push x.pc.toNat x.m0 with
    | some y => y
    | none => x

/-- The group runs the lanes of a wait from behind its `fjoin`, sD 0. -/
def Group.runLapsed (x : Group) (e : FEntry) : Group :=
  { x.setSr e.sd 0#64 with m0 := e.mask, fmt := e.fmt, pc := BitVec.ofNat 64 (4 * e.addr + 4), wait := .none }

theorem Group.resolveExpired_none {x : Group} (h : ∀ f ∈ x.front, f.lapsedWait = false) (n : Nat) : x.resolveExpired n = x := by
  cases n with
  | zero => rfl
  | succ n =>
    have hl : lowestEntry FEntry.lapsedWait x.front = none := lowestEntry_eq_none h
    unfold Group.resolveExpired
    change (match lowestEntry FEntry.lapsedWait x.front with | some i => _ | none => x) = x
    rw [hl]

theorem Group.resolveExpired_succ {x : Group} {i : Nat} {e : FEntry} (hl : lowestEntry FEntry.lapsedWait x.front = some i) (he : x.front[i]? = some e)
    (n : Nat) : x.resolveExpired (n + 1) = ((x.withEntry i {}).fileRunning.runLapsed e).resolveExpired n := by
  have hgd : x.front.getD i {} = e := by simp [he]
  rw [← hgd]
  conv => lhs; unfold Group.resolveExpired
  change (match lowestEntry FEntry.lapsedWait x.front with | some i => _ | none => x) = _
  rw [hl]
  rfl

/-- The running path filed (R45): where an entry is free, nothing but the frontier table changes, the lanes that run wait at
their address, and no join wait has come to be. -/
theorem Group.fileRunning_spec {x : Group} (hfree : ∃ f ∈ x.front, f.kind = .free) (hw : x.wait = .none ∨ x.wait = .frontier) :
    let y := x.fileRunning
    y = { x with front := y.front } ∧
      (∀ a, y.pathAt a = if x.wait = .none ∧ a = x.pc.toNat / 4 then x.pathAt a ||| x.m0 else x.pathAt a) ∧
      ∀ f ∈ y.front, f ∈ x.front ∨ f.kind = .ordinary := by
  rcases hw with hw | hw
  · obtain ⟨i, v, hp, hv, hpath⟩ := Group.push_files x.pc.toNat x.m0 hfree
    have e : x.fileRunning = x.withEntry i v := by simp [Group.fileRunning, hw, hp]
    rw [e]
    refine ⟨rfl, by simpa [hw] using hpath, ?_⟩
    intro f hf
    rcases List.mem_or_eq_of_mem_set hf with h | rfl
    · exact .inl h
    · exact .inr hv
  · have e : x.fileRunning = x := by simp [Group.fileRunning, hw]
    rw [e]
    exact ⟨rfl, by simp [hw], fun f hf => .inl hf⟩

theorem Group.runLapsed_shape (x : Group) (e : FEntry) :
    x.runLapsed e = { x with
      sreg := (x.runLapsed e).sreg, serr := (x.runLapsed e).serr, m0 := e.mask, fmt := e.fmt
      pc := BitVec.ofNat 64 (4 * e.addr + 4), wait := .none } := by
  by_cases h : e.sd = 0
  · simp [Group.runLapsed, Group.setSr, h]
  · simp [Group.runLapsed, Group.setSr, h]

theorem Group.runLapsed_sr (x : Group) (e : FEntry) (r : Nat) : (x.runLapsed e).sr r = if r = e.sd then 0#64 else x.sr r := by
  have h : (x.runLapsed e).sr r = (x.setSr e.sd 0#64).sr r := rfl
  rw [h, Group.setSr_sr]
  by_cases h0 : e.sd = 0
  · by_cases hr : r = 0 <;> simp [h0, hr]
  · simp [h0]

theorem Group.runLapsed_front (x : Group) (e : FEntry) : (x.runLapsed e).front = x.front := Group.setSr_front x e.sd 0#64

theorem Group.withEntry_free {x : Group} {i : Nat} {e : FEntry} (he : x.front[i]? = some e) : ∃ f ∈ (x.withEntry i {}).front, f.kind = .free := by
  obtain ⟨hi, -⟩ := List.getElem?_eq_some_iff.mp he
  exact ⟨{}, List.mem_set hi _, rfl⟩

/-- With the only join wait that has lapsed taken away, none is left. -/
theorem Group.withEntry_no_lapsed {x : Group} {i : Nat} (hone : ∀ j f, x.front[j]? = some f → f.lapsedWait = true → j = i) :
    ∀ f ∈ (x.withEntry i {}).front, f.lapsedWait = false := by
  intro f hf
  obtain ⟨j, hj, rfl⟩ := List.getElem_of_mem hf
  by_cases hij : i = j
  · simp [Group.withEntry, hij, FEntry.lapsedWait]
  · have hj' : j < x.front.length := by simpa [Group.withEntry] using hj
    have hne : ¬ x.front[j].lapsedWait = true := fun h => hij (hone j x.front[j] (by simp) h).symm
    simpa [Group.withEntry, hij] using hne

/-- The state of a group after its lapsed wait resolves (R55): s[SD] 0, the lanes behind the `fjoin`, the running path filed. -/
theorem Group.resolved_spec {x : Group} {i : Nat} {e : FEntry} (hw : x.wait = .none ∨ x.wait = .frontier) (he : x.front[i]? = some e)
    (hlapsed : e.lapsedWait = true) :
    let y := (x.withEntry i {}).fileRunning.runLapsed e
    y = { x with
      front := y.front, sreg := y.sreg, serr := y.serr, m0 := e.mask, fmt := e.fmt
      pc := BitVec.ofNat 64 (4 * e.addr + 4), wait := .none } ∧
    (∀ r, y.sr r = if r = e.sd then 0#64 else x.sr r) ∧
    ∀ a, y.pathAt a = if x.wait = .none ∧ a = x.pc.toNat / 4 then x.pathAt a ||| x.m0 else x.pathAt a := by
  have hk : e.kind ≠ .ordinary := by
    simp only [FEntry.lapsedWait, Bool.and_eq_true, beq_iff_eq] at hlapsed
    simp [hlapsed.1]
  obtain ⟨hshape, hpath, -⟩ := Group.fileRunning_spec (x := x.withEntry i {}) (Group.withEntry_free he) hw
  generalize (x.withEntry i {}).fileRunning = z at hshape hpath
  refine ⟨?_, fun r => ?_, fun a => ?_⟩
  · rw [Group.runLapsed_shape, hshape]
    rfl
  · rw [Group.runLapsed_sr, hshape]
    rfl
  · rw [show (z.runLapsed e).pathAt a = z.pathAt a by unfold Group.pathAt; rw [Group.runLapsed_front], hpath, Group.pathAt_free he hk]
    rfl

/-- The only join wait that has lapsed resolves: its entry is free, the running path is filed, its lanes run (R55). -/
theorem Group.resolveExpired_one {x : Group} {i : Nat} {e : FEntry} (hw : x.wait = .none ∨ x.wait = .frontier) (he : x.front[i]? = some e)
    (hlapsed : e.lapsedWait = true) (hone : ∀ j f, x.front[j]? = some f → f.lapsedWait = true → j = i) (n : Nat) :
    x.resolveExpired (n + 1) = (x.withEntry i {}).fileRunning.runLapsed e := by
  rw [Group.resolveExpired_succ (lowestEntry_unique he hlapsed hone) he]
  refine Group.resolveExpired_none (fun f hf => ?_) n
  obtain ⟨-, -, hfront⟩ := Group.fileRunning_spec (x := x.withEntry i {}) (Group.withEntry_free he) hw
  rw [Group.runLapsed_front] at hf
  rcases hfront f hf with h | h
  · exact Group.withEntry_no_lapsed hone f h
  · simp [FEntry.lapsedWait, h]

/-! ## The steps -/

theorem exec_stackWriteback (core : Nat) (s : State) : exec (.stackWriteback core) s = execStackWriteback core s := rfl
theorem exec_stackWritebackRetry (core : Nat) (s : State) : exec (.stackWritebackRetry core) s = execStackWritebackRetry core s := rfl
theorem exec_joinWaitTimeout (g : Nat) (s : State) : exec (.joinWaitTimeout g) s = execJoinWaitTimeout g s := rfl

/-- The time-out step of a group in whose table no join wait has lapsed changes no group. -/
theorem execJoinWaitTimeout_none {g : Nat} {s : State} {x : Group} (hx : Map.find s.groups g = some x) (h : ∀ f ∈ x.front, f.lapsedWait = false) :
    ∃ t, execJoinWaitTimeout g s = .next t ∧ t = { s with groups := t.groups } ∧ ∀ k, Map.find t.groups k = Map.find s.groups k := by
  simp only [execJoinWaitTimeout, hx, Group.resolveExpired_none h]
  split
  · refine ⟨s.setGrp g x, rfl, rfl, fun k => ?_⟩
    rw [State.setGrp_groups, Map.find_put]
    split
    · rename_i hk; rw [hk, hx]
    · rfl
  · exact ⟨s, rfl, rfl, fun _ => rfl⟩

theorem execJoinWaitTimeout_trap {g : Nat} {s : State} {x : Group} (hx : Map.find s.groups g = some x) (h : x.trap ≠ none) :
    execJoinWaitTimeout g s = .next s := by
  simp [execJoinWaitTimeout, hx, h]

theorem execJoinWaitTimeout_one {g i : Nat} {s : State} {x : Group} {e : FEntry} (hx : Map.find s.groups g = some x) (ht : x.trap = none)
    (hi : s.issuing x = true) (hw : x.wait = .none ∨ x.wait = .frontier) (he : x.front[i]? = some e) (hlapsed : e.lapsedWait = true)
    (hone : ∀ j f, x.front[j]? = some f → f.lapsedWait = true → j = i) :
    execJoinWaitTimeout g s = .next (s.setGrp g ((x.withEntry i {}).fileRunning.runLapsed e)) := by
  simp [execJoinWaitTimeout, hx, ht, hi, hw, Group.resolveExpired_one hw he hlapsed hone 15]

/-- Settles O42: the write-back of the line that is taken, by what its page leads to, and the one lapsed wait, by the rules of
the frontier table. -/
theorem backgroundWork : Obligations.BackgroundWork := by
  refine ⟨fun core s ln => ⟨fun hm hlru => ?_, fun hnone => ?_, fun hone => ?_, fun hnone => ?_⟩,
    fun g i s x e hx => ⟨fun ht => ?_, fun hnone => ?_, fun ht hi hw he hl hone => ?_⟩⟩
  · have hpick : leastUsed (s.backgroundLines core) = some ln := leastUsed_of_mem hm hlru
    rw [exec_stackWriteback, execStackWriteback, hpick]
    exact ⟨fun ⟨_, h⟩ => ⟨_, rfl, State.cleanLine_ok h⟩, fun _ h => congrArg _ (State.cleanLine_cause h), fun _ h => congrArg _ (State.cleanLine_missing h)⟩
  · have hpick : s.backgroundLines core = [] := hnone
    rw [exec_stackWriteback, execStackWriteback, hpick]
    rfl
  · rw [exec_stackWritebackRetry, execStackWritebackRetry, hone]
    exact ⟨fun ⟨_, h⟩ => ⟨_, rfl, State.cleanLine_ok h⟩, fun _ h => congrArg _ (State.cleanLine_cause h), fun _ h => congrArg _ (State.cleanLine_missing h)⟩
  · rw [exec_stackWritebackRetry, execStackWritebackRetry, hnone]
    rfl
  · rw [exec_joinWaitTimeout, execJoinWaitTimeout_trap hx ht]
  · rw [exec_joinWaitTimeout]
    exact execJoinWaitTimeout_none hx hnone
  · rw [exec_joinWaitTimeout]
    refine ⟨_, execJoinWaitTimeout_one hx ht hi hw he hl hone, ?_⟩
    exact Group.resolved_spec hw he hl

end Sys2Proof.Machine
end

section
/-!
Exact values as integer multiples of a power of two (R113, R125): comparison, equality and distance of exact values are
those of the multiples.
-/
namespace Sys2Proof.Machine

/-! ## The multiple that an exact value is -/

/-- Powers of two along a chain of exponents. -/
theorem two_pow_chain {a b c : Int} (hab : a ≤ b) (hbc : b ≤ c) : 2 ^ (c - a).toNat = 2 ^ (c - b).toNat * 2 ^ (b - a).toNat := by
  rw [← Nat.pow_add]
  congr 1
  omega

/-- A magnitude with a sign. -/
def signed (neg : Bool) (k : Nat) : Int := if neg then -(k : Int) else k

theorem signed_true (k : Nat) : signed true k = -(k : Int) := rfl
theorem signed_false (k : Nat) : signed false k = k := rfl

theorem signed_not (n : Bool) (k : Nat) : signed (!n) k = -signed n k := by
  cases n
  · rfl
  · exact (Int.neg_neg _).symm

theorem signed_mul (n : Bool) (k p : Nat) : signed n (k * p) = signed n k * (p : Int) := by
  cases n
  · exact Int.natCast_mul k p
  · rw [signed_true, signed_true, Int.natCast_mul, Int.neg_mul]

/-- The magnitude of an exact value as a multiple of 2^g, for g at most its exponent; the sticky part is left out. -/
def Exact.magAt (x : Exact) (g : Int) : Nat := x.m * 2 ^ (x.e - g).toNat

theorem Exact.scaled_eq (x : Exact) (g : Int) : x.scaled g = signed x.neg (x.magAt g) := rfl

/-- A magnitude in a finer unit. -/
theorem Exact.magAt_chain (x : Exact) {h g : Int} (hg : h ≤ g) (he : g ≤ x.e) : x.magAt h = x.magAt g * 2 ^ (g - h).toNat := by
  rw [Exact.magAt, Exact.magAt, two_pow_chain hg he, Nat.mul_assoc]

theorem Exact.scaled_chain (x : Exact) {h g : Int} (hg : h ≤ g) (he : g ≤ x.e) :
    x.scaled h = x.scaled g * ((2 ^ (g - h).toNat : Nat) : Int) := by
  rw [Exact.scaled_eq, Exact.scaled_eq, x.magAt_chain hg he, signed_mul]

theorem Exact.scaled_flip (x : Exact) (g : Int) : ({ x with neg := !x.neg } : Exact).scaled g = -x.scaled g := signed_not x.neg (x.magAt g)

theorem Exact.scaled_zero (n : Bool) (g : Int) : (Exact.zero n).scaled g = 0 := by
  have h : (Exact.zero n).magAt g = 0 := Nat.zero_mul _
  rw [Exact.scaled_eq, h]
  cases n <;> rfl

/-- The value x is a times 2^g. -/
def Exact.Counts (x : Exact) (g a : Int) : Prop := ∀ h, h ≤ g → h ≤ x.e → x.scaled h = a * ((2 ^ (g - h).toNat : Nat) : Int)

theorem Exact.counts_scaled (x : Exact) {g : Int} (hg : g ≤ x.e) : x.Counts g (x.scaled g) := fun _ hh _ => x.scaled_chain hh hg

/-! ## Comparison, equality and distance -/

theorem two_pow_cast_pos (n : Nat) : (0 : Int) < ((2 ^ n : Nat) : Int) := Int.natCast_pos.mpr (Nat.two_pow_pos n)

section
variable {x y : Exact} {g a b : Int}

/-- Two multiples of 2^g in the unit in which the model compares them. -/
theorem Exact.Counts.common (hx : x.Counts g a) (hy : y.Counts g b) : ∃ p q : Int, 0 < p ∧ 0 < q ∧
    x.scaled (min x.e y.e) * p = a * q ∧ y.scaled (min x.e y.e) * p = b * q := by
  have hl : min g (min x.e y.e) ≤ min x.e y.e := Int.min_le_right _ _
  refine ⟨_, _, two_pow_cast_pos (min x.e y.e - min g (min x.e y.e)).toNat, two_pow_cast_pos (g - min g (min x.e y.e)).toNat, ?_, ?_⟩
  · rw [← x.scaled_chain hl (by omega), hx _ (by omega) (by omega)]
  · rw [← y.scaled_chain hl (by omega), hy _ (by omega) (by omega)]

theorem Exact.Counts.lt_iff (hx : x.Counts g a) (hy : y.Counts g b) : x.lt y = true ↔ a < b := by
  obtain ⟨p, q, hp, hq, hxp, hyp⟩ := hx.common hy
  have hd : x.lt y = true ↔ x.scaled (min x.e y.e) < y.scaled (min x.e y.e) := decide_eq_true_iff
  rw [hd, ← Int.mul_lt_mul_right hp, hxp, hyp, Int.mul_lt_mul_right hq]

theorem Exact.Counts.lt_eq_false_iff (hx : x.Counts g a) (hy : y.Counts g b) : x.lt y = false ↔ b ≤ a := by
  rw [← Bool.not_eq_true, hx.lt_iff hy, Int.not_lt]

theorem Exact.Counts.eqv_eq_false_iff (hx : x.Counts g a) (hy : y.Counts g b) : x.eqv y = false ↔ a ≠ b := by
  obtain ⟨p, q, hp, hq, hxp, hyp⟩ := hx.common hy
  have hd : x.eqv y = true ↔ x.scaled (min x.e y.e) = y.scaled (min x.e y.e) := decide_eq_true_iff
  rw [← Bool.not_eq_true, hd, ← Int.mul_eq_mul_right_iff (Int.ne_of_gt hp), hxp, hyp, Int.mul_eq_mul_right_iff (Int.ne_of_gt hq)]

/-- The difference of two values in the unit of the finer one. -/
def scaledDiff (x y : Exact) : Int := x.scaled (min x.e y.e) - y.scaled (min x.e y.e)

theorem distance_eq (x y : Exact) : distance x y =
    if scaledDiff x y = 0 then Exact.zero false else ⟨false, (scaledDiff x y).natAbs, min x.e y.e, false⟩ := by
  have hs : (0 : Int) + x.scaled (min x.e y.e) + ({ y with neg := !y.neg } : Exact).scaled (min x.e y.e) = scaledDiff x y := by
    rw [Exact.scaled_flip, scaledDiff]
    omega
  simp only [distance, Exact.sum, minExp, List.foldl_cons, List.foldl_nil, hs]
  split <;> rfl

/-- The distance of two multiples. -/
theorem Exact.Counts.distance (hx : x.Counts g a) (hy : y.Counts g b) : (distance x y).Counts g (a - b).natAbs := by
  rw [distance_eq]
  split
  next h0 =>
    obtain ⟨p, q, hp, hq, hxp, hyp⟩ := hx.common hy
    have hab : a = b := by
      have he : x.scaled (min x.e y.e) = y.scaled (min x.e y.e) := Int.sub_eq_zero.mp h0
      rw [he, hyp] at hxp
      exact ((Int.mul_eq_mul_right_iff (Int.ne_of_gt hq)).mp hxp).symm
    intro h _ _
    rw [Exact.scaled_zero, hab, Int.sub_self, Int.natAbs_zero, Int.natCast_zero, Int.zero_mul]
  next =>
    intro h hg he
    have he' : h ≤ min x.e y.e := he
    have hd : scaledDiff x y * ((2 ^ (min x.e y.e - h).toNat : Nat) : Int) = (a - b) * ((2 ^ (g - h).toNat : Nat) : Int) := by
      rw [scaledDiff, Int.sub_mul, Int.sub_mul, ← x.scaled_chain he' (by omega), ← y.scaled_chain he' (by omega), hx h hg (by omega), hy h hg (by omega)]
    have hn := congrArg Int.natAbs hd
    rw [Int.natAbs_mul, Int.natAbs_mul, Int.natAbs_natCast, Int.natAbs_natCast] at hn
    rw [← Int.natCast_mul, ← hn]
    rfl

end

end Sys2Proof.Machine
end

section
/-!
The encodings of a format as a sign and a magnitude (R109): their values grow with the magnitude, and the finite ones are
those up to the largest finite one.
-/
namespace Sys2Proof.Machine

/-! ## The grid of a format -/

/-- The magnitude of the encoding n, in units of the smallest subnormal, for M fraction bits (R109). -/
def gridMag (M n : Nat) : Nat := if n / 2 ^ M = 0 then n % 2 ^ M else (2 ^ M + n % 2 ^ M) * 2 ^ (n / 2 ^ M - 1)

theorem gridMag_subnormal {M k : Nat} (h : k < 2 ^ M) : gridMag M k = k := by
  rw [gridMag, if_pos (Nat.div_eq_of_lt h), Nat.mod_eq_of_lt h]

theorem gridMag_normal (M j : Nat) {r : Nat} (h : r < 2 ^ M) : gridMag M (r + 2 ^ M * (j + 1)) = (2 ^ M + r) * 2 ^ j := by
  have hd : (r + 2 ^ M * (j + 1)) / 2 ^ M = j + 1 := by
    rw [Nat.add_mul_div_left _ _ (Nat.two_pow_pos M), Nat.div_eq_of_lt h, Nat.zero_add]
  rw [gridMag, hd, if_neg (Nat.succ_ne_zero j), Nat.add_mul_mod_self_left, Nat.mod_eq_of_lt h, Nat.add_sub_cancel]

/-- The k-th multiple of the spacing 2^j is the encoding j * 2^M + k, up to the first value of the next binade. -/
theorem gridMag_binade {M j k : Nat} (h : j = 0 ∨ 2 ^ M ≤ k) (hk : k ≤ 2 ^ (M + 1)) : gridMag M (j * 2 ^ M + k) = k * 2 ^ j := by
  rw [Nat.pow_succ] at hk
  by_cases hlt : k < 2 ^ M
  · obtain rfl : j = 0 := h.resolve_right (Nat.not_le.mpr hlt)
    rw [Nat.zero_mul, Nat.zero_add, Nat.pow_zero, Nat.mul_one, gridMag_subnormal hlt]
  · obtain ⟨r, rfl⟩ := Nat.exists_eq_add_of_le (Nat.not_lt.mp hlt)
    by_cases hr : r < 2 ^ M
    · have e : j * 2 ^ M + (2 ^ M + r) = r + 2 ^ M * (j + 1) := by rw [Nat.mul_comm j, Nat.mul_add]; omega
      rw [e, gridMag_normal M j hr]
    · obtain rfl : r = 2 ^ M := by omega
      have e : j * 2 ^ M + (2 ^ M + 2 ^ M) = 0 + 2 ^ M * (j + 1 + 1) := by rw [Nat.mul_comm j, Nat.mul_add, Nat.mul_add]; omega
      rw [e, gridMag_normal M (j + 1) (Nat.two_pow_pos M), Nat.add_zero, Nat.pow_succ 2 j, ← Nat.mul_two, Nat.mul_assoc, Nat.mul_comm 2]

/-- An encoding is a multiple of the spacing of its binade. -/
theorem exists_binade (M n : Nat) : ∃ j k, n = j * 2 ^ M + k ∧ (j = 0 ∨ 2 ^ M ≤ k) ∧ k < 2 ^ (M + 1) := by
  have hr : n % 2 ^ M < 2 ^ M := Nat.mod_lt _ (Nat.two_pow_pos M)
  have hn := Nat.div_add_mod' n (2 ^ M)
  rw [Nat.pow_succ]
  cases hq : n / 2 ^ M with
  | zero => exact ⟨0, n % 2 ^ M, by rw [hq] at hn; exact hn.symm, .inl rfl, by omega⟩
  | succ j => exact ⟨j, 2 ^ M + n % 2 ^ M, by rw [hq, Nat.succ_mul] at hn; omega, .inr (by omega), by omega⟩

theorem gridMag_lt_succ (M n : Nat) : gridMag M n < gridMag M (n + 1) := by
  obtain ⟨j, k, rfl, hj, hk⟩ := exists_binade M n
  have hj' : j = 0 ∨ 2 ^ M ≤ k + 1 := hj.imp_right (Nat.le_trans · (Nat.le_succ k))
  rw [gridMag_binade hj (Nat.le_of_lt hk), Nat.add_assoc, gridMag_binade hj' hk]
  exact Nat.mul_lt_mul_of_pos_right (Nat.lt_succ_self k) (Nat.two_pow_pos j)

/-- The exponent of the smallest subnormal value of a format. -/
def tyEmin (t : Ty) : Int := 1 - ((tyFmt t).bias : Int) - ((tyFmt t).mbits : Int)

/-- The magnitude of the encoding n of a format as a multiple of 2^g, for g at most the exponent of the smallest subnormal. -/
def gridAt (t : Ty) (g : Int) (n : Nat) : Nat := gridMag (tyFmt t).mbits n * 2 ^ (tyEmin t - g).toNat

theorem gridAt_zero (t : Ty) (g : Int) : gridAt t g 0 = 0 := by
  rw [gridAt, gridMag_subnormal (Nat.two_pow_pos _), Nat.zero_mul]

theorem gridAt_lt {t : Ty} {g : Int} {n k : Nat} (h : n < k) : gridAt t g n < gridAt t g k := by
  have hstep (i : Nat) : gridAt t g i < gridAt t g (i + 1) := Nat.mul_lt_mul_of_pos_right (gridMag_lt_succ _ i) (Nat.two_pow_pos _)
  induction h with
  | refl => exact hstep n
  | step _ ih => exact Nat.lt_trans ih (hstep _)

theorem gridAt_le {t : Ty} {g : Int} {n k : Nat} (h : n ≤ k) : gridAt t g n ≤ gridAt t g k := by
  obtain rfl | hlt := Nat.eq_or_lt_of_le h
  · exact Nat.le_refl _
  · exact Nat.le_of_lt (gridAt_lt hlt)

theorem lt_of_gridAt_lt {t : Ty} {g : Int} {n k : Nat} (h : gridAt t g n < gridAt t g k) : n < k :=
  Nat.not_le.mp fun hle => Nat.not_le.mpr h (gridAt_le hle)

theorem le_of_gridAt_le {t : Ty} {g : Int} {n k : Nat} (h : gridAt t g n ≤ gridAt t g k) : n ≤ k :=
  Nat.not_lt.mp fun hlt => Nat.not_lt.mpr h (gridAt_lt hlt)

/-! ## Encodings as a sign and a magnitude -/

/-- The encoding of a sign and a magnitude. -/
def signMag (t : Ty) (s : Bool) (n : Nat) : Nat := (if s then signBit t else 0) + n

theorem signMag_true (t : Ty) (n : Nat) : signMag t true n = signBit t + n := rfl
theorem signMag_false (t : Ty) (n : Nat) : signMag t false n = n := Nat.zero_add n

/-- A floating-point type is as wide as its sign, exponent and fraction. -/
theorem tyWidth_float {t : Ty} (ht : tyIsFloat t = true) : tyWidth t = (tyFmt t).ebits + (tyFmt t).mbits + 1 := by
  revert ht; cases t <;> decide

theorem two_pow_tyWidth {t : Ty} (ht : tyIsFloat t = true) : 2 ^ tyWidth t = signBit t + signBit t := by
  rw [tyWidth_float ht, Nat.pow_succ, ← signBit, Nat.mul_two]

theorem maxEnc_lt_signBit {t : Ty} (ht : tyIsFloat t = true) : maxEnc t < signBit t := by
  revert ht; cases t <;> decide

/-- In an IEEE format the largest finite magnitude is the last below the top binade. -/
theorem le_maxEnc_iff_of_ieee {t : Ty} (hi : (tyFmt t).ieee = true) {n : Nat} (hn : n < signBit t) :
    n ≤ maxEnc t ↔ n / 2 ^ (tyFmt t).mbits ≠ 2 ^ (tyFmt t).ebits - 1 := by
  have hp := Nat.two_pow_pos (tyFmt t).mbits
  have hq : 1 < 2 ^ (tyFmt t).ebits := Nat.one_lt_two_pow (by revert hi; cases t <;> decide)
  have hpq : 0 < (2 ^ (tyFmt t).ebits - 1) * 2 ^ (tyFmt t).mbits := Nat.mul_pos (by omega) hp
  have hb : n / 2 ^ (tyFmt t).mbits < 2 ^ (tyFmt t).ebits := by
    rw [Nat.div_lt_iff_lt_mul hp, ← Nat.pow_add]
    exact hn
  have hm : maxEnc t = (2 ^ (tyFmt t).ebits - 1) * 2 ^ (tyFmt t).mbits - 1 := if_pos hi
  have hd : n ≤ maxEnc t ↔ n / 2 ^ (tyFmt t).mbits < 2 ^ (tyFmt t).ebits - 1 := by
    rw [Nat.div_lt_iff_lt_mul hp, hm]
    omega
  rw [hd]
  omega

/-- The finite magnitudes are those that are neither in the top binade of an IEEE format nor the NaN of `e4m3` (R109). -/
theorem le_maxEnc_iff {t : Ty} (ht : tyIsFloat t = true) {n : Nat} (hn : n < signBit t) :
    n ≤ maxEnc t ↔ ¬((tyFmt t).ieee = true ∧ n / 2 ^ (tyFmt t).mbits = 2 ^ (tyFmt t).ebits - 1) ∧ ¬(t = .e4m3 ∧ n = 0x7F) := by
  by_cases hi : (tyFmt t).ieee = true
  · have ht4 : t ≠ .e4m3 := by rintro rfl; exact absurd hi (by decide)
    rw [le_maxEnc_iff_of_ieee hi hn]
    exact ⟨fun h => ⟨fun h' => h h'.2, fun h' => ht4 h'.1⟩, fun h h' => h.1 ⟨hi, h'⟩⟩
  · have hmax : signBit t = maxEnc t + if t = .e4m3 then 2 else 1 := by
      revert ht hi; cases t <;> decide
    by_cases h4 : t = .e4m3
    · have h7 : maxEnc t = 0x7E := by rw [h4]; rfl
      rw [hmax, if_pos h4] at hn
      exact ⟨fun h => ⟨fun h' => hi h'.1, fun h' => by have := h'.2; omega⟩, fun h => by have h' : n ≠ 0x7F := fun h' => h.2 ⟨h4, h'⟩; omega⟩
    · rw [hmax, if_neg h4] at hn
      exact ⟨fun _ => ⟨fun h' => hi h'.1, fun h' => h4 h'.1⟩, fun _ => by omega⟩

theorem signMag_mod {t : Ty} (s : Bool) {n : Nat} (hn : n < signBit t) : signMag t s n % signBit t = n := by
  cases s
  · rw [signMag_false, Nat.mod_eq_of_lt hn]
  · rw [signMag_true, Nat.add_mod_left, Nat.mod_eq_of_lt hn]

theorem bitOf_signMag {t : Ty} (s : Bool) {n : Nat} (hn : n < signBit t) : bitOf (signMag t s n) ((tyFmt t).ebits + (tyFmt t).mbits) = s := by
  have hp : 0 < signBit t := by omega
  rw [bitOf, ← signBit]
  cases s
  · rw [signMag_false, Nat.div_eq_of_lt hn]; rfl
  · rw [signMag_true, Nat.add_div_left _ hp, Nat.div_eq_of_lt hn]; rfl

theorem signMag_lt {t : Ty} (ht : tyIsFloat t = true) (s : Bool) {n : Nat} (hn : n < signBit t) : signMag t s n < 2 ^ tyWidth t := by
  rw [two_pow_tyWidth ht]
  cases s
  · rw [signMag_false]; omega
  · rw [signMag_true]; omega

/-- Every encoding is that of a sign and a magnitude. -/
theorem exists_signMag {t : Ty} (ht : tyIsFloat t = true) {e : Nat} (he : e < 2 ^ tyWidth t) : ∃ s n, n < signBit t ∧ e = signMag t s n := by
  rw [two_pow_tyWidth ht] at he
  by_cases h : e < signBit t
  · exact ⟨false, e, h, (signMag_false t e).symm⟩
  · exact ⟨true, e - signBit t, by omega, by rw [signMag_true]; omega⟩

/-- Decoding an encoding, by its magnitude (R109). -/
theorem decodeVal_signMag {t : Ty} (s : Bool) {n : Nat} (hn : n < signBit t) : decodeVal t 0 (signMag t s n) =
    if (tyFmt t).ieee && n / 2 ^ (tyFmt t).mbits == 2 ^ (tyFmt t).ebits - 1 then
      if n % 2 ^ (tyFmt t).mbits = 0 then .inf s else .nan (n % 2 ^ (tyFmt t).mbits < 2 ^ ((tyFmt t).mbits - 1))
    else if t = .e4m3 ∧ n = 0x7F then .nan false
    else if n / 2 ^ (tyFmt t).mbits = 0 then .fin ⟨s, n % 2 ^ (tyFmt t).mbits, tyEmin t, false⟩
    else .fin ⟨s, 2 ^ (tyFmt t).mbits + n % 2 ^ (tyFmt t).mbits,
      ((n / 2 ^ (tyFmt t).mbits : Nat) : Int) - ((tyFmt t).bias : Int) - ((tyFmt t).mbits : Int), false⟩ := by
  have hmod : signMag t s n % 2 ^ ((tyFmt t).ebits + (tyFmt t).mbits) = n := signMag_mod s hn
  simp only [decodeVal, hmod, bitOf_signMag s hn]
  rfl

/-- An encoding whose magnitude is at most the largest finite one decodes to its sign and its value. -/
theorem decodeVal_finite {t : Ty} (ht : tyIsFloat t = true) (s : Bool) {n : Nat} (hn : n ≤ maxEnc t) :
    ∃ z, decodeVal t 0 (signMag t s n) = .fin z ∧ ∀ g, g ≤ tyEmin t → z.Counts g (signed s (gridAt t g n)) := by
  have hlt := Nat.lt_of_le_of_lt hn (maxEnc_lt_signBit ht)
  obtain ⟨hieee, hnan⟩ := (le_maxEnc_iff ht hlt).mp hn
  rw [← beq_iff_eq (b := 2 ^ (tyFmt t).ebits - 1), ← Bool.and_eq_true] at hieee
  rw [decodeVal_signMag s hlt, if_neg hieee, if_neg hnan]
  split
  next h0 =>
    refine ⟨_, rfl, fun g hg => ?_⟩
    rw [gridAt, gridMag, if_pos h0]
    exact Exact.counts_scaled _ hg
  next h0 =>
    obtain ⟨q, hq⟩ := Nat.exists_eq_succ_of_ne_zero h0
    have e : ((q + 1 : Nat) : Int) - ((tyFmt t).bias : Int) - ((tyFmt t).mbits : Int) = q + tyEmin t := by unfold tyEmin; omega
    have hp (g : Int) (hg : g ≤ tyEmin t) : 2 ^ q * 2 ^ (tyEmin t - g).toNat = 2 ^ ((q : Int) + tyEmin t - g).toNat := by
      rw [two_pow_chain (c := (q : Int) + tyEmin t) hg (by omega), Int.add_sub_cancel, Int.toNat_natCast]
    rw [hq, Nat.succ_eq_add_one, e]
    refine ⟨_, rfl, fun g hg => ?_⟩
    rw [gridAt, gridMag, if_neg h0, hq, Nat.succ_eq_add_one, Nat.add_sub_cancel, Nat.mul_assoc, hp g hg]
    exact Exact.counts_scaled ⟨s, 2 ^ (tyFmt t).mbits + n % 2 ^ (tyFmt t).mbits, q + tyEmin t, false⟩ (Int.le_trans hg (by show tyEmin t ≤ q + tyEmin t; omega))

/-- A finite encoding's magnitude is at most the largest finite one. -/
theorem le_maxEnc_of_decodeVal {t : Ty} (ht : tyIsFloat t = true) {s : Bool} {n : Nat} (hlt : n < signBit t) {z : Exact}
    (h : decodeVal t 0 (signMag t s n) = .fin z) : n ≤ maxEnc t := by
  rw [decodeVal_signMag s hlt] at h
  refine (le_maxEnc_iff ht hlt).mpr ⟨fun hi => ?_, fun hi => ?_⟩
  · rw [← beq_iff_eq (b := 2 ^ (tyFmt t).ebits - 1), ← Bool.and_eq_true] at hi
    rw [if_pos hi] at h
    split at h <;> cases h
  · have hb : ¬ ((tyFmt t).ieee && n / 2 ^ (tyFmt t).mbits == 2 ^ (tyFmt t).ebits - 1) = true := by
      rw [hi.1]; exact Bool.false_ne_true
    rw [if_neg hb, if_pos hi] at h
    cases h

/-- A finite encoding is a value of the format. -/
theorem exists_counts_of_finite {t : Ty} (ht : tyIsFloat t = true) {e : Nat} (he : e < 2 ^ tyWidth t) {z : Exact} (hz : decodeVal t 0 e = .fin z) :
    ∃ s n, ∀ g, g ≤ tyEmin t → (decodeVal t 0 e).exact.Counts g (signed s (gridAt t g n)) := by
  obtain ⟨s, n, hn, rfl⟩ := exists_signMag ht he
  obtain ⟨w, hw, hr⟩ := decodeVal_finite ht s (le_maxEnc_of_decodeVal ht hn hz)
  exact ⟨s, n, by rw [hw]; exact hr⟩

end Sys2Proof.Machine
end

section
/-!
The cut of a value at a grid (R115, R125): a value is a whole multiple of the spacing and a remainder, and so lies at an
encoding of its format or between two neighbours.
-/
namespace Sys2Proof.Machine

/-! ## The binade of a value -/

theorem Exact.top_eq {x : Exact} (h : x.m ≠ 0) : x.top = x.e + (Nat.log2 x.m : Int) := by
  rw [Exact.top, bitLen, if_neg h]
  omega

theorem Exact.isZero_eq_false {x : Exact} (h : x.m ≠ 0) : x.isZero = false := by
  rw [Exact.isZero, beq_eq_false_iff_ne.mpr h, Bool.false_and]

/-- `top` is the binade of the magnitude. -/
theorem Exact.top_le_magAt {x : Exact} (h : x.m ≠ 0) {g : Int} (hg : g ≤ x.e) : 2 ^ (x.top - g).toNat ≤ x.magAt g := by
  have he : (x.top - g).toNat = Nat.log2 x.m + (x.e - g).toNat := by rw [Exact.top_eq h]; omega
  rw [he, Nat.pow_add]
  exact Nat.mul_le_mul_right _ (Nat.log2_self_le h)

theorem Exact.magAt_lt_top {x : Exact} (h : x.m ≠ 0) {g : Int} (hg : g ≤ x.e) : x.magAt g < 2 ^ (x.top + 1 - g).toNat := by
  have he : (x.top + 1 - g).toNat = Nat.log2 x.m + 1 + (x.e - g).toNat := by rw [Exact.top_eq h]; omega
  rw [he, Nat.pow_add]
  exact Nat.mul_lt_mul_of_pos_right Nat.lt_log2_self (Nat.two_pow_pos _)

/-! ## Cutting a value at a grid -/

/-- On a grid 2^g coarser than the last bit of a value, quotient and remainder are those of its digits. -/
theorem Exact.magAt_divMod (x : Exact) {u g : Int} (hg : u ≤ x.e) (h : x.e ≤ g) :
    x.magAt u / 2 ^ (g - u).toNat = x.m / 2 ^ (g - x.e).toNat ∧ x.magAt u % 2 ^ (g - u).toNat = x.m % 2 ^ (g - x.e).toNat * 2 ^ (x.e - u).toNat := by
  rw [two_pow_chain hg h, Exact.magAt]
  exact ⟨Nat.mul_div_mul_right _ _ (Nat.two_pow_pos _), Nat.mul_mod_mul_right _ _ _⟩

/-- The cut takes the whole multiples of 2^g. -/
theorem cutAt_k (x : Exact) {u g : Int} (hx : u ≤ x.e) (hg : u ≤ g) : (cutAt x g).k = x.magAt u / 2 ^ (g - u).toNat := by
  by_cases h : g ≤ x.e
  · rw [cutAt, if_pos h, x.magAt_chain hg h, Nat.mul_div_cancel _ (Nat.two_pow_pos _)]
    rfl
  · rw [cutAt, if_neg h]
    exact (x.magAt_divMod hx (by omega)).1.symm

/-- The fields of the cut c say how the remainder r that it leaves of the spacing p lies to nothing and to a half (R115). -/
structure Cut.Leaves (c : Cut) (r p : Nat) : Prop where
  rest_iff : c.rest = true ↔ r ≠ 0
  half_cases : c.half = -1 ∧ 2 * r < p ∨ c.half = 0 ∧ 2 * r = p ∨ c.half = 1 ∧ p < 2 * r
  d24_eq : r = 0 → c.d24 = 0

theorem cutAt_leaves {x : Exact} (hm : x.more = false) {u g : Int} (hx : u ≤ x.e) (hg : u ≤ g) :
    (cutAt x g).Leaves (x.magAt u % 2 ^ (g - u).toNat) (2 ^ (g - u).toNat) := by
  by_cases h : g ≤ x.e
  · have hr : x.magAt u % 2 ^ (g - u).toNat = 0 := by rw [x.magAt_chain hg h, Nat.mul_mod_left]
    rw [hr, cutAt, if_pos h]
    exact ⟨by rw [hm]; exact iff_of_false Bool.false_ne_true (not_not_intro rfl), .inl ⟨rfl, Nat.two_pow_pos _⟩, fun _ => rfl⟩
  · obtain ⟨n, hn⟩ : ∃ n, (g - x.e).toNat = n + 1 := ⟨(g - x.e).toNat - 1, by omega⟩
    have hq : 0 < 2 ^ (x.e - u).toNat := Nat.two_pow_pos _
    have hp : 2 ^ (g - u).toNat = 2 * (2 ^ n * 2 ^ (x.e - u).toNat) := by
      rw [two_pow_chain hx (by omega : x.e ≤ g), hn, Nat.pow_succ, Nat.mul_comm _ 2, Nat.mul_assoc]
    rw [(x.magAt_divMod hx (by omega)).2, hp, cutAt, if_neg h]
    simp only [hn, hm, Nat.add_sub_cancel, and_true, Bool.or_false]
    generalize x.m % 2 ^ (n + 1) = r
    refine ⟨?_, ?_, fun h0 => ?_⟩
    · rw [bne_iff_ne, Ne, Ne, Nat.mul_eq_zero, or_iff_left (Nat.ne_of_gt hq)]
    · -- both sides of the comparison count the unit of the value's last bit
      have hlt (a b : Nat) : 2 * (a * 2 ^ (x.e - u).toNat) < 2 * (b * 2 ^ (x.e - u).toNat) ↔ a < b := by
        rw [← Nat.mul_assoc, ← Nat.mul_assoc, Nat.mul_lt_mul_right hq]
        omega
      rw [hlt, hlt]
      obtain hr | rfl | hr := Nat.lt_trichotomy r (2 ^ n)
      · exact .inl ⟨if_pos hr, hr⟩
      · exact .inr (.inl ⟨by rw [if_neg (Nat.lt_irrefl _), if_pos rfl], rfl⟩)
      · exact .inr (.inr ⟨by rw [if_neg (Nat.lt_asymm hr), if_neg (Nat.ne_of_gt hr)], hr⟩)
    · obtain rfl : r = 0 := (Nat.mul_eq_zero.mp h0).resolve_right (Nat.ne_of_gt hq)
      rw [Nat.zero_div, Nat.zero_mul, ite_self]

/-- A value of the normal range fills the significand. -/
theorem two_pow_le_cut {x : Exact} (hm : x.m ≠ 0) (M : Nat) : 2 ^ M ≤ (cutAt x (x.top - M)).k := by
  have hu : min x.e (x.top - M) ≤ x.e := Int.min_le_left _ _
  have hg : min x.e (x.top - M) ≤ x.top - M := Int.min_le_right _ _
  have he : (x.top - min x.e (x.top - M)).toNat = M + (x.top - M - min x.e (x.top - M)).toNat := by omega
  rw [cutAt_k x hu hg, Nat.le_div_iff_mul_le (Nat.two_pow_pos _), ← Nat.pow_add, ← he]
  exact Exact.top_le_magAt hm hu

/-- A cut at the spacing of the grid or above leaves a significand of M + 1 bits at most. -/
theorem cut_lt_two_pow {x : Exact} (hm : x.m ≠ 0) {M : Nat} {g : Int} (hg : x.top - M ≤ g) : (cutAt x g).k < 2 ^ (M + 1) := by
  have hu : min x.e g ≤ x.e := Int.min_le_left _ _
  have he : (x.top + 1 - min x.e g).toNat ≤ M + 1 + (g - min x.e g).toNat := by omega
  rw [cutAt_k x hu (Int.min_le_right _ _), Nat.div_lt_iff_lt_mul (Nat.two_pow_pos _), ← Nat.pow_add]
  exact Nat.lt_of_lt_of_le (Exact.magAt_lt_top hm hu) (Nat.pow_le_pow_right (Nat.succ_pos 1) he)

/-! ## Going up -/

/-- The random number of a draw has 24 bits. -/
theorem draw_lt (d : W32) : (d >>> 8).toNat < 2 ^ 24 := by
  rw [BitVec.toNat_ushiftRight, Nat.shiftRight_eq_div_pow]
  have := d.isLt
  omega

section
variable {c : Cut} {r p : Nat}

theorem Cut.Leaves.rest_eq_false_iff (h : c.Leaves r p) : c.rest = false ↔ r = 0 := by
  rw [← Bool.not_eq_true, h.rest_iff, Decidable.not_not]

/-- No mode moves an exact value. -/
theorem Cut.Leaves.goesUp_ne_zero (h : c.Leaves r p) (hp : 0 < p) {rm : RMode} {neg : Bool} {d : Nat} (hd : d < 2 ^ 24)
    (hu : goesUp rm neg d c = true) : r ≠ 0 := by
  intro h0
  have hr := h.rest_eq_false_iff.mpr h0
  have hh : c.half = -1 := by
    obtain ⟨hh, -⟩ | ⟨-, hf⟩ | ⟨-, hf⟩ := h.half_cases
    · exact hh
    · omega
    · omega
  cases rm <;> simp only [goesUp, hr, hh, h.d24_eq h0, Bool.and_false, Bool.false_eq_true, Nat.zero_add, decide_eq_true_eq] at hu
  case rne => cases hu
  case rna => cases hu
  case rst => omega

/-- The modes to nearest move a value up only from a half on, and stay only up to a half. -/
theorem Cut.Leaves.half_of_nearest (h : c.Leaves r p) {rm : RMode} (hrm : rm ∈ [RMode.rne, .rna]) (neg : Bool) (d : Nat) :
    (goesUp rm neg d c = true → p ≤ 2 * r) ∧ (goesUp rm neg d c = false → 2 * r ≤ p) := by
  have hrm' : rm = .rne ∨ rm = .rna := by
    rwa [List.mem_cons, List.mem_singleton] at hrm
  obtain ⟨hh, hf⟩ | ⟨hh, hf⟩ | ⟨hh, hf⟩ := h.half_cases
  · have hstay : goesUp rm neg d c = false := by
      obtain rfl | rfl := hrm' <;> rw [goesUp, hh] <;> rfl
    exact ⟨fun hu => absurd (hu.symm.trans hstay) Bool.noConfusion, fun _ => Nat.le_of_lt hf⟩
  · exact ⟨fun _ => Nat.le_of_eq hf.symm, fun _ => Nat.le_of_eq hf⟩
  · have hmove : goesUp rm neg d c = true := by
      obtain rfl | rfl := hrm' <;> rw [goesUp, hh] <;> rfl
    exact ⟨fun _ => Nat.le_of_lt hf, fun hu => absurd (hmove.symm.trans hu) Bool.noConfusion⟩

end

/-! ## Where a value lies among the encodings -/

/-- The exponent of the spacing of a format's grid at a value (R125). -/
def spacing (t : Ty) (x : Exact) : Int := max x.top (1 - ((tyFmt t).bias : Int)) - ((tyFmt t).mbits : Int)

/-- A unit that counts a value and the magnitudes of a format. -/
def unitExp (t : Ty) (x : Exact) : Int := min x.e (tyEmin t)

theorem unitExp_le (t : Ty) (x : Exact) : unitExp t x ≤ x.e := Int.min_le_left _ _

theorem unitExp_le_tyEmin (t : Ty) (x : Exact) : unitExp t x ≤ tyEmin t := Int.min_le_right _ _

theorem tyEmin_le_spacing (t : Ty) (x : Exact) : tyEmin t ≤ spacing t x := by
  unfold tyEmin spacing; omega

/-- The magnitude of a value in that unit. -/
def unitMag (t : Ty) (x : Exact) : Nat := x.magAt (unitExp t x)

/-- The magnitude of the encoding n in that unit. -/
def unitGrid (t : Ty) (x : Exact) (n : Nat) : Nat := gridAt t (unitExp t x) n

/-- The spacing of the grid at a value in that unit. -/
def gridStep (t : Ty) (x : Exact) : Nat := 2 ^ (spacing t x - unitExp t x).toNat

/-- What a value exceeds its multiple of the spacing by. -/
def gridRem (t : Ty) (x : Exact) : Nat := unitMag t x % gridStep t x

theorem gridStep_pos (t : Ty) (x : Exact) : 0 < gridStep t x := Nat.two_pow_pos _

theorem gridRem_lt (t : Ty) (x : Exact) : gridRem t x < gridStep t x := Nat.mod_lt _ (gridStep_pos t x)

/-- The cut of a value at the spacing of a format's grid. -/
def gridCut (t : Ty) (x : Exact) : Cut := cutAt x (spacing t x)

theorem gridCut_leaves (t : Ty) {x : Exact} (hx : x.more = false) : (gridCut t x).Leaves (gridRem t x) (gridStep t x) :=
  cutAt_leaves hx (unitExp_le t x) (Int.le_trans (unitExp_le_tyEmin t x) (tyEmin_le_spacing t x))

theorem unitMag_eq_cut (t : Ty) (x : Exact) : unitMag t x = (gridCut t x).k * gridStep t x + gridRem t x := by
  rw [gridCut, cutAt_k x (unitExp_le t x) (Int.le_trans (unitExp_le_tyEmin t x) (tyEmin_le_spacing t x))]
  exact (Nat.div_add_mod' _ _).symm

/-- The magnitude's encoding, cut toward zero. -/
def floorEnc (t : Ty) (x : Exact) : Nat := (spacing t x - tyEmin t).toNat * 2 ^ (tyFmt t).mbits + (gridCut t x).k

theorem spacing_subnormal_or (t : Ty) {x : Exact} (hm : x.m ≠ 0) : (spacing t x - tyEmin t).toNat = 0 ∨ 2 ^ (tyFmt t).mbits ≤ (gridCut t x).k := by
  rcases Int.le_total x.top (1 - ((tyFmt t).bias : Int)) with h | h
  · left; unfold spacing tyEmin; omega
  · right; rw [gridCut, spacing, Int.max_eq_left h]; exact two_pow_le_cut hm _

/-- Multiples of the spacing are encodings. -/
theorem unitGrid_binade (t : Ty) (x : Exact) {k : Nat} (h : (spacing t x - tyEmin t).toNat = 0 ∨ 2 ^ (tyFmt t).mbits ≤ k)
    (hk : k ≤ 2 ^ ((tyFmt t).mbits + 1)) : unitGrid t x ((spacing t x - tyEmin t).toNat * 2 ^ (tyFmt t).mbits + k) = k * gridStep t x := by
  rw [unitGrid, gridAt, gridMag_binade h hk, gridStep, two_pow_chain (unitExp_le_tyEmin t x) (tyEmin_le_spacing t x), Nat.mul_assoc]

theorem gridCut_lt (t : Ty) {x : Exact} (hm : x.m ≠ 0) : (gridCut t x).k < 2 ^ ((tyFmt t).mbits + 1) :=
  cut_lt_two_pow hm (by unfold spacing; omega)

/-- A value is the remainder above the encoding `floorEnc`. -/
theorem unitMag_eq (t : Ty) {x : Exact} (hm : x.m ≠ 0) : unitMag t x = unitGrid t x (floorEnc t x) + gridRem t x := by
  rw [floorEnc, unitGrid_binade t x (spacing_subnormal_or t hm) (Nat.le_of_lt (gridCut_lt t hm)), unitMag_eq_cut]

/-- The next encoding is one spacing on. -/
theorem unitGrid_succ (t : Ty) {x : Exact} (hm : x.m ≠ 0) : unitGrid t x (floorEnc t x + 1) = unitGrid t x (floorEnc t x) + gridStep t x := by
  have hj := spacing_subnormal_or t hm
  have hk := gridCut_lt t hm
  rw [floorEnc, Nat.add_assoc, unitGrid_binade t x hj (Nat.le_of_lt hk), unitGrid_binade t x (hj.imp_right (Nat.le_trans · (Nat.le_succ _))) hk, Nat.succ_mul]

end Sys2Proof.Machine
end

section
/-!
Rounding (R113, R114, R117, R125): each mode picks the encoding below a magnitude or the one above it, and says by its flags
whether it moved the value.
-/
namespace Sys2Proof.Machine

/-- The magnitude's encoding, away from zero where it is not exact. -/
def ceilEnc (t : Ty) (x : Exact) : Nat := floorEnc t x + b2n (gridCut t x).rest

/-- The magnitude's encoding under a mode, if the exponent range did not end. -/
def roundMag (t : Ty) (rm : RMode) (d : W32) (x : Exact) : Nat :=
  floorEnc t x + b2n (goesUp rm x.neg (d >>> 8).toNat (gridCut t x))

theorem roundMag_rdn (t : Ty) (d : W32) (x : Exact) : roundMag t .rdn d x = if x.neg then ceilEnc t x else floorEnc t x := by
  rw [roundMag, ceilEnc, goesUp]
  cases x.neg <;> rfl

theorem roundMag_rup (t : Ty) (d : W32) (x : Exact) : roundMag t .rup d x = if x.neg then floorEnc t x else ceilEnc t x := by
  rw [roundMag, ceilEnc, goesUp]
  cases x.neg <;> rfl

theorem roundMag_rtz (t : Ty) (d : W32) (x : Exact) : roundMag t .rtz d x = floorEnc t x := rfl

theorem floorEnc_le_roundMag (t : Ty) (rm : RMode) (d : W32) (x : Exact) : floorEnc t x ≤ roundMag t rm d x := Nat.le_add_right _ _

/-! ## What `round` gives -/

theorem roundVal_fin (t : Ty) (rm : RMode) (d : W32) (x : Exact) : roundVal t rm 0 d (.fin x) = roundFin t rm d x := by
  rw [roundVal, if_neg fun h => h.1 rfl]

/-- The test of `roundFin` for overflow is on `roundMag`. -/
theorem roundMag_eq (t : Ty) (rm : RMode) (d : W32) (x : Exact) : roundMag t rm d x =
    (max x.top (1 - ((tyFmt t).bias : Int)) - ((tyFmt t).mbits : Int) - (1 - ((tyFmt t).bias : Int) - ((tyFmt t).mbits : Int))).toNat * 2 ^ (tyFmt t).mbits +
      ((cutAt x (max x.top (1 - ((tyFmt t).bias : Int)) - ((tyFmt t).mbits : Int))).k +
        b2n (goesUp rm x.neg (d >>> 8).toNat (cutAt x (max x.top (1 - ((tyFmt t).bias : Int)) - ((tyFmt t).mbits : Int))))) := Nat.add_assoc _ _ _

/-- A rounded magnitude that fits is the result, with UF beside NX where it is tiny (R125). -/
theorem roundFin_fits {t : Ty} {rm : RMode} {d : W32} {x : Exact} (hm : x.m ≠ 0) (h : roundMag t rm d x ≤ maxEnc t) :
    (roundFin t rm d x).bits = signMag t x.neg (roundMag t rm d x) ∧
      ∃ tiny : Bool, (roundFin t rm d x).flags = if (gridCut t x).rest then (if tiny then fNX ||| fUF else fNX) else 0#32 := by
  have h' := Nat.not_lt.mpr h
  rw [roundMag_eq] at h' ⊢
  simp only [roundFin, Exact.isZero_eq_false hm, Bool.false_eq_true, if_false]
  rw [if_neg h']
  exact ⟨rfl, _, rfl⟩

/-- A result that fits raises NX when the cut leaves something, and none of OF, DZ and NV. -/
theorem roundFin_fits_flags {t : Ty} {rm : RMode} {d : W32} {x : Exact} (hm : x.m ≠ 0) (h : roundMag t rm d x ≤ maxEnc t) :
    ((roundFin t rm d x).flags.getLsbD 0 = true ↔ (gridCut t x).rest = true) ∧ (roundFin t rm d x).flags &&& 0x1C#32 = 0#32 := by
  obtain ⟨-, tiny, hf⟩ := roundFin_fits hm h
  rw [hf]
  cases (gridCut t x).rest <;> cases tiny <;> decide

/-- A rounded magnitude beyond the largest finite one overflows (R114). -/
theorem roundFin_overflow {t : Ty} {rm : RMode} {d : W32} {x : Exact} (hm : x.m ≠ 0) (h : maxEnc t < roundMag t rm d x) :
    (roundFin t rm d x).bits = signMag t x.neg (overflowEnc t rm x.neg) ∧ (roundFin t rm d x).flags = fOF ||| fNX := by
  rw [roundMag_eq] at h
  simp only [roundFin, Exact.isZero_eq_false hm, Bool.false_eq_true, if_false]
  rw [if_pos h]
  exact ⟨rfl, rfl⟩

/-! ## The two neighbours of a value -/

section
variable {t : Ty} {x : Exact} (hx : x.more = false) (hm : x.m ≠ 0)

include hm in
/-- No magnitude of the format lies between a value and its floor. -/
theorem le_floorEnc {n : Nat} (h : unitGrid t x n ≤ unitMag t x) : n ≤ floorEnc t x := by
  have hlt : unitGrid t x n < unitGrid t x (floorEnc t x + 1) := by
    rw [unitGrid_succ t hm]
    have := unitMag_eq t hm
    have := gridRem_lt t x
    omega
  exact Nat.lt_succ_iff.mp (lt_of_gridAt_lt hlt)

include hx

theorem roundMag_le_ceilEnc (rm : RMode) (d : W32) : roundMag t rm d x ≤ ceilEnc t x := by
  have hl := gridCut_leaves t hx
  refine Nat.add_le_add_left ?_ _
  cases hu : goesUp rm x.neg (d >>> 8).toNat (gridCut t x)
  · exact Nat.zero_le _
  · have hr := hl.rest_iff.mpr (hl.goesUp_ne_zero (gridStep_pos t x) (draw_lt d) hu)
    exact Nat.le_of_eq (congrArg b2n hr.symm)

include hm

/-- The ceiling is the floor of an exact value, and else the next encoding. -/
theorem ceilEnc_cases : (gridRem t x = 0 ∧ ceilEnc t x = floorEnc t x ∧ unitGrid t x (ceilEnc t x) = unitMag t x) ∨
    (gridRem t x ≠ 0 ∧ ceilEnc t x = floorEnc t x + 1 ∧ unitMag t x < unitGrid t x (ceilEnc t x)) := by
  have hl := gridCut_leaves t hx
  have heq := unitMag_eq t hm
  by_cases h : gridRem t x = 0
  · have hc : ceilEnc t x = floorEnc t x := by rw [ceilEnc, hl.rest_eq_false_iff.mpr h]; rfl
    exact .inl ⟨h, hc, by rw [hc]; omega⟩
  · have hc : ceilEnc t x = floorEnc t x + 1 := by rw [ceilEnc, hl.rest_iff.mpr h]; rfl
    have := gridRem_lt t x
    exact .inr ⟨h, hc, by rw [hc, unitGrid_succ t hm]; omega⟩

theorem unitMag_le_ceil : unitMag t x ≤ unitGrid t x (ceilEnc t x) := by
  obtain ⟨-, -, h⟩ | ⟨-, -, h⟩ := ceilEnc_cases (t := t) hx hm
  · exact Nat.le_of_eq h.symm
  · exact Nat.le_of_lt h

/-- No magnitude of the format lies between a value and its ceiling. -/
theorem ceilEnc_le {n : Nat} (h : unitMag t x ≤ unitGrid t x n) : ceilEnc t x ≤ n := by
  obtain ⟨-, -, he⟩ | ⟨hr, hc, -⟩ := ceilEnc_cases (t := t) hx hm
  · exact le_of_gridAt_le (he ▸ h)
  · have heq := unitMag_eq t hm
    have hlt : unitGrid t x (floorEnc t x) < unitGrid t x n := by omega
    exact hc ▸ lt_of_gridAt_lt hlt

theorem roundMag_le_maxEnc (h : unitMag t x ≤ unitGrid t x (maxEnc t)) (rm : RMode) (d : W32) : roundMag t rm d x ≤ maxEnc t :=
  Nat.le_trans (roundMag_le_ceilEnc hx rm d) (ceilEnc_le hx hm h)

omit hx in
/-- Where a mode's result lies to the value. -/
theorem unitGrid_roundMag (rm : RMode) (d : W32) : unitGrid t x (roundMag t rm d x) + gridRem t x =
    unitMag t x + if goesUp rm x.neg (d >>> 8).toNat (gridCut t x) then gridStep t x else 0 := by
  rw [unitMag_eq t hm, roundMag]
  cases goesUp rm x.neg (d >>> 8).toNat (gridCut t x)
  · rfl
  · have h : unitGrid t x (floorEnc t x + b2n true) = _ := unitGrid_succ t hm
    rw [h, if_pos rfl]
    omega

/-- The result is the value itself exactly when the cut leaves nothing. -/
theorem unitGrid_roundMag_ne_iff (rm : RMode) (d : W32) : unitGrid t x (roundMag t rm d x) ≠ unitMag t x ↔ (gridCut t x).rest = true := by
  have hl := gridCut_leaves t hx
  have hlt := gridRem_lt t x
  have h := unitGrid_roundMag (t := t) hm rm d
  rw [hl.rest_iff]
  cases hu : goesUp rm x.neg (d >>> 8).toNat (gridCut t x)
  · rw [hu, if_neg Bool.false_ne_true] at h
    omega
  · have hr := hl.goesUp_ne_zero (gridStep_pos t x) (draw_lt d) hu
    rw [hu, if_pos rfl] at h
    omega

/-- The modes to nearest: no magnitude of the format is nearer. -/
theorem roundMag_nearest {rm : RMode} (hrm : rm ∈ [RMode.rne, .rna]) (d : W32) (n : Nat) :
    ((unitMag t x : Int) - unitGrid t x (roundMag t rm d x)).natAbs ≤ ((unitMag t x : Int) - unitGrid t x n).natAbs := by
  obtain ⟨hup, hdown⟩ := (gridCut_leaves t hx).half_of_nearest hrm x.neg (d >>> 8).toNat
  have h := unitGrid_roundMag (t := t) hm rm d
  have heq := unitMag_eq t hm
  have hlt := gridRem_lt t x
  -- every magnitude is at least as far as the neighbour on its side
  have hfar : unitGrid t x n ≤ unitGrid t x (floorEnc t x) ∨ unitGrid t x (floorEnc t x) + gridStep t x ≤ unitGrid t x n := by
    rcases Nat.lt_or_ge (floorEnc t x) n with hn | hn
    · exact .inr (unitGrid_succ t hm ▸ gridAt_le hn)
    · exact .inl (gridAt_le hn)
  cases hu : goesUp rm x.neg (d >>> 8).toNat (gridCut t x)
  · have hf := hdown hu
    rw [hu, if_neg Bool.false_ne_true] at h
    omega
  · have hf := hup hu
    rw [hu, if_pos rfl] at h
    omega

/-! ## The rounded result with its sign -/

/-- The rounded result as a number, in the unit of the value. -/
def roundInt (t : Ty) (rm : RMode) (d : W32) (x : Exact) : Int := signed x.neg (unitGrid t x (roundMag t rm d x))

/-- The value as a number in that unit. -/
def unitInt (t : Ty) (x : Exact) : Int := signed x.neg (unitMag t x)

omit hx hm in
/-- Up is down with the signs turned. -/
theorem roundInt_rup (d : W32) : roundInt t .rup d x = -roundInt t .rdn d { x with neg := !x.neg } := by
  have h : roundMag t .rup d x = roundMag t .rdn d { x with neg := !x.neg } := by
    rw [roundMag_rup, roundMag_rdn]
    cases x.neg <;> rfl
  have hs : roundInt t .rdn d { x with neg := !x.neg } = -signed x.neg (unitGrid t x (roundMag t .rup d x)) := by
    rw [h]
    exact signed_not x.neg _
  rw [hs, Int.neg_neg, roundInt]

omit hx hm in
theorem unitInt_flip : unitInt t { x with neg := !x.neg } = -unitInt t x := signed_not x.neg (unitMag t x)

theorem roundInt_rdn_le (d : W32) : roundInt t .rdn d x ≤ unitInt t x := by
  have hfloor : unitGrid t x (floorEnc t x) ≤ unitMag t x := unitMag_eq t hm ▸ Nat.le_add_right _ _
  have hceil := unitMag_le_ceil (t := t) hx hm
  rw [roundInt, roundMag_rdn, unitInt]
  cases x.neg
  · exact Int.ofNat_le.mpr hfloor
  · exact Int.neg_le_neg (Int.ofNat_le.mpr hceil)

/-- RDN gives the greatest value of the format that is not above (R113). -/
theorem le_roundInt_rdn (d : W32) {s : Bool} {n : Nat} (h : signed s (unitGrid t x n) ≤ unitInt t x) : signed s (unitGrid t x n) ≤ roundInt t .rdn d x := by
  have hpos : 0 < unitMag t x := Nat.lt_of_lt_of_le (Nat.two_pow_pos _) (Exact.top_le_magAt hm (unitExp_le t x))
  have hfloor (h : unitGrid t x n ≤ unitMag t x) : unitGrid t x n ≤ unitGrid t x (floorEnc t x) := gridAt_le (le_floorEnc hm h)
  have hceil (h : unitMag t x ≤ unitGrid t x n) : unitGrid t x (ceilEnc t x) ≤ unitGrid t x n := gridAt_le (ceilEnc_le hx hm h)
  rw [unitInt] at h
  rw [roundInt, roundMag_rdn]
  cases hneg : x.neg <;> cases s <;>
    simp only [hneg, signed_true, signed_false, Bool.false_eq_true, if_false, if_true] at h ⊢ <;> omega

theorem le_roundInt_rup (d : W32) : unitInt t x ≤ roundInt t .rup d x := by
  have h := roundInt_rdn_le (t := t) (x := { x with neg := !x.neg }) hx hm d
  rw [unitInt_flip] at h
  rw [roundInt_rup]
  omega

/-- RUP gives the least value of the format that is not below (R113). -/
theorem roundInt_rup_le (d : W32) {s : Bool} {n : Nat} (h : unitInt t x ≤ signed s (unitGrid t x n)) : roundInt t .rup d x ≤ signed s (unitGrid t x n) := by
  have h' : signed (!s) (unitGrid t x n) ≤ unitInt t { x with neg := !x.neg } := by
    rw [signed_not, unitInt_flip]
    exact Int.neg_le_neg h
  have hr := le_roundInt_rdn (x := { x with neg := !x.neg }) hx hm d h'
  have hs : signed (!s) (unitGrid t { x with neg := !x.neg } n) = -signed s (unitGrid t x n) := signed_not s _
  rw [hs] at hr
  rw [roundInt_rup]
  omega

omit hm in
/-- Every mode gives a value between those of RDN and RUP. -/
theorem roundInt_between (rm : RMode) (d : W32) : roundInt t .rdn d x ≤ roundInt t rm d x ∧ roundInt t rm d x ≤ roundInt t .rup d x := by
  have hlo : unitGrid t x (floorEnc t x) ≤ unitGrid t x (roundMag t rm d x) := gridAt_le (floorEnc_le_roundMag t rm d x)
  have hhi : unitGrid t x (roundMag t rm d x) ≤ unitGrid t x (ceilEnc t x) := gridAt_le (roundMag_le_ceilEnc hx rm d)
  rw [roundInt, roundInt, roundInt, roundMag_rdn, roundMag_rup]
  cases x.neg
  · exact ⟨Int.ofNat_le.mpr hlo, Int.ofNat_le.mpr hhi⟩
  · exact ⟨Int.neg_le_neg (Int.ofNat_le.mpr hhi), Int.neg_le_neg (Int.ofNat_le.mpr hlo)⟩

/-- The modes to nearest: no value of the format is nearer, of either sign. -/
theorem roundInt_nearest {rm : RMode} (hrm : rm ∈ [RMode.rne, .rna]) (d : W32) (s : Bool) (n : Nat) :
    (unitInt t x - roundInt t rm d x).natAbs ≤ (unitInt t x - signed s (unitGrid t x n)).natAbs := by
  have hnear := roundMag_nearest (t := t) hx hm hrm d n
  -- a value of the other sign is no nearer than zero
  have hzero := roundMag_nearest (t := t) hx hm hrm d 0
  have h0 : unitGrid t x 0 = 0 := gridAt_zero _ _
  rw [unitInt, roundInt]
  cases x.neg <;> cases s <;> simp only [signed_true, signed_false] <;> omega

/-- The result is the value itself exactly when the cut leaves nothing. -/
theorem roundInt_ne_iff (rm : RMode) (d : W32) : roundInt t rm d x ≠ unitInt t x ↔ (gridCut t x).rest = true := by
  rw [← unitGrid_roundMag_ne_iff hx hm rm d, roundInt, unitInt]
  cases x.neg <;> simp only [signed_true, signed_false] <;> omega

end

/-! ## The statement about encodings -/

theorem counts_unitInt (t : Ty) (x : Exact) : x.Counts (unitExp t x) (unitInt t x) := x.counts_scaled (unitExp_le t x)

/-- Settles O31: an exact value lies at an encoding or between two neighbours; each mode picks one of them. -/
theorem roundingCorrect : Obligations.RoundingCorrect := by
  intro t v d ht hx hm val isFin r top le htop
  have hu := unitExp_le_tyEmin t v
  have hv := counts_unitInt t v
  have hmax : unitMag t v ≤ unitGrid t v (maxEnc t) := by
    obtain ⟨z, hz, hr⟩ := decodeVal_finite ht false (Nat.le_refl (maxEnc t))
    rw [signMag_false] at hz
    have hc : top.Counts (unitExp t v) (signed false (unitGrid t v (maxEnc t))) := by
      have he : top = z := congrArg Val.exact hz
      rw [he]
      exact hr _ hu
    have habs : ({ v with neg := false } : Exact).Counts (unitExp t v) (signed false (unitMag t v)) := Exact.counts_scaled _ (unitExp_le t v)
    exact Int.ofNat_le.mp ((hc.lt_eq_false_iff habs).mp htop)
  have hfits : ∀ rm, roundMag t rm d v ≤ maxEnc t := fun rm => roundMag_le_maxEnc hx hm hmax rm d
  have hbits : ∀ rm, (r rm).bits = signMag t v.neg (roundMag t rm d v) := fun rm =>
    (congrArg Rounded.bits (roundVal_fin t rm d v)).trans (roundFin_fits hm (hfits rm)).1
  have hflags : ∀ rm, (r rm).flags = (roundFin t rm d v).flags := fun rm => congrArg Rounded.flags (roundVal_fin t rm d v)
  have hfin : ∀ rm, isFin (r rm).bits ∧ (val (r rm).bits).Counts (unitExp t v) (roundInt t rm d v) := fun rm => by
    obtain ⟨z, hz, hr⟩ := decodeVal_finite ht v.neg (hfits rm)
    simp only [isFin, val, hbits, hz]
    exact ⟨⟨signMag_lt ht _ (Nat.lt_of_le_of_lt (hfits rm) (maxEnc_lt_signBit ht)), z, rfl⟩, hr _ hu⟩
  have hval := fun rm => (hfin rm).2
  refine ⟨fun rm => ⟨(hfin rm).1, ?_, ?_, ?_, ?_⟩, ?_, ?_, fun e he => ?_, ?_, fun e he rm hrm => ?_⟩
  · rw [hflags, (hval rm).eqv_eq_false_iff hv, roundInt_ne_iff hx hm]
    exact (roundFin_fits_flags hm (hfits rm)).1
  · rw [hflags]
    exact (roundFin_fits_flags hm (hfits rm)).2
  · exact ((hval rm).lt_eq_false_iff (hval .rdn)).mpr (roundInt_between hx rm d).1
  · exact ((hval .rup).lt_eq_false_iff (hval rm)).mpr (roundInt_between hx rm d).2
  · exact (hv.lt_eq_false_iff (hval .rdn)).mpr (roundInt_rdn_le hx hm d)
  · exact ((hval .rup).lt_eq_false_iff hv).mpr (le_roundInt_rup hx hm d)
  · obtain ⟨hw, z, hz⟩ := he
    obtain ⟨s, n, hn⟩ := exists_counts_of_finite ht hw hz
    have hn := hn _ hu
    exact ⟨fun h => ((hval .rdn).lt_eq_false_iff hn).mpr (le_roundInt_rdn hx hm d ((hv.lt_eq_false_iff hn).mp h)),
      fun h => (hn.lt_eq_false_iff (hval .rup)).mpr (roundInt_rup_le hx hm d ((hn.lt_eq_false_iff hv).mp h))⟩
  · rw [hbits, hbits, hbits, roundMag_rtz, roundMag_rdn, roundMag_rup]
    cases v.neg <;> rfl
  · obtain ⟨hw, z, hz⟩ := he
    obtain ⟨s, n, hn⟩ := exists_counts_of_finite ht hw hz
    exact ((hv.distance (hn _ hu)).lt_eq_false_iff (hv.distance (hval rm))).mpr (Int.ofNat_le.mpr (roundInt_nearest hx hm hrm d s n))

end Sys2Proof.Machine
end

section
/-!
Special results (R114, R116, R118, R222): NaNs, infinities, overflow, flushing and invalid operations.
-/
namespace Sys2Proof.Machine

/-! ## NaNs and infinities -/

theorem hasNan_iff {t : Ty} (ht : tyIsFloat t = true) : hasNan t = true ↔ t ∈ [Ty.f32, .f64, .f16, .bf16, .e5m2, .e4m3] := by
  revert ht; cases t <;> decide

theorem ieee_of_mem {t : Ty} (h : t ∈ [Ty.f32, .f64, .f16, .bf16, .e5m2]) : (tyFmt t).ieee = true := by
  revert h; cases t <;> decide

/-- A NaN rounds to the canonical NaN, or to zero where the format has none (R116, R125). -/
theorem roundVal_nan {t : Ty} (ht : tyIsFloat t = true) (rm : RMode) (fz : Nat) (d : W32) (sig : Bool) : roundVal t rm fz d (.nan sig) =
    if t ∈ [Ty.f32, .f64, .f16, .bf16, .e5m2, .e4m3] then ⟨canon t, if sig then 16#32 else 0#32, d⟩ else ⟨0, 16#32, d⟩ := by
  by_cases h : hasNan t = true
  · rw [if_pos ((hasNan_iff ht).mp h)]
    exact if_pos h
  · rw [if_neg (mt (hasNan_iff ht).mpr h)]
    exact if_neg h

theorem infEnc_lt_signBit (t : Ty) : infEnc t < signBit t := by
  rw [infEnc, signBit, Nat.pow_add]
  exact Nat.mul_lt_mul_of_pos_right (Nat.sub_lt (Nat.two_pow_pos _) Nat.one_pos) (Nat.two_pow_pos _)

/-- The encoding of an infinity decodes to it. -/
theorem decodeVal_infEnc {t : Ty} (hi : (tyFmt t).ieee = true) (s : Bool) : decodeVal t 0 (signMag t s (infEnc t)) = .inf s := by
  have hdiv : infEnc t / 2 ^ (tyFmt t).mbits = 2 ^ (tyFmt t).ebits - 1 := Nat.mul_div_cancel _ (Nat.two_pow_pos _)
  have hrem : infEnc t % 2 ^ (tyFmt t).mbits = 0 := Nat.mul_mod_left _ _
  rw [decodeVal_signMag s (infEnc_lt_signBit t), hdiv, hrem, hi, beq_self_eq_true, Bool.and_self, if_pos rfl, if_pos rfl]

/-- An infinity stays itself in the formats that have it. -/
theorem roundVal_inf {t : Ty} (hi : (tyFmt t).ieee = true) (rm : RMode) (fz : Nat) (d : W32) (n : Bool) :
    roundVal t rm fz d (.inf n) = ⟨signMag t n (infEnc t), 0#32, d⟩ := if_pos hi

/-! ## Flushing and overflow -/

/-- A value below the smallest normal is flushed to a zero of its sign (R118). -/
theorem roundVal_flushed {t : Ty} (ht : tyIsFloat t = true) (rm : RMode) {fz : Nat} (d : W32) {x : Exact} (hm : x.m ≠ 0) (hfz : fz ≠ 0)
    (h : x.top < 1 - ((tyFmt t).bias : Int)) : roundVal t rm fz d (.fin x) = ⟨if x.neg then 2 ^ (tyWidth t - 1) else 0, 3#32, d⟩ := by
  rw [tyWidth_float ht]
  exact if_pos ⟨hfz, Exact.isZero_eq_false hm, h⟩

/-- A value from the smallest normal up is not flushed. -/
theorem roundVal_normal (t : Ty) (rm : RMode) (fz : Nat) (d : W32) {x : Exact} (h : 1 - ((tyFmt t).bias : Int) ≤ x.top) :
    roundVal t rm fz d (.fin x) = roundFin t rm d x := by
  rw [roundVal, if_neg fun hf => Int.not_lt.mpr h hf.2.2]

/-- Past the last exponent field the grid's encodings have left the format. -/
theorem signBit_le_floorEnc {t : Ty} {x : Exact} (hm : x.m ≠ 0) (h : ((2 ^ (tyFmt t).ebits : Nat) : Int) ≤ x.top + (tyFmt t).bias) :
    signBit t ≤ floorEnc t x := by
  have hpos : 1 ≤ 2 ^ (tyFmt t).ebits := Nat.one_le_two_pow
  have hs : spacing t x = x.top - (tyFmt t).mbits := by rw [spacing, Int.max_eq_left (by omega)]
  have hj : 2 ^ (tyFmt t).ebits ≤ (spacing t x - tyEmin t).toNat + 1 := by rw [hs, tyEmin]; omega
  have hk : 2 ^ (tyFmt t).mbits ≤ (gridCut t x).k := by rw [gridCut, hs]; exact two_pow_le_cut hm _
  calc signBit t = 2 ^ (tyFmt t).ebits * 2 ^ (tyFmt t).mbits := Nat.pow_add _ _ _
    _ ≤ ((spacing t x - tyEmin t).toNat + 1) * 2 ^ (tyFmt t).mbits := Nat.mul_le_mul_right _ hj
    _ = (spacing t x - tyEmin t).toNat * 2 ^ (tyFmt t).mbits + 2 ^ (tyFmt t).mbits := Nat.succ_mul _ _
    _ ≤ floorEnc t x := Nat.add_le_add_left hk _

/-- A value that large overflows in every mode, flushing or not (R114). -/
theorem roundVal_overflow {t : Ty} (ht : tyIsFloat t = true) (rm : RMode) (fz : Nat) (d : W32) {x : Exact} (hm : x.m ≠ 0)
    (h : ((2 ^ (tyFmt t).ebits : Nat) : Int) ≤ x.top + (tyFmt t).bias) :
    (roundVal t rm fz d (.fin x)).bits = signMag t x.neg (overflowEnc t rm x.neg) ∧ (roundVal t rm fz d (.fin x)).flags = 5#32 := by
  have hpos : 1 ≤ 2 ^ (tyFmt t).ebits := Nat.one_le_two_pow
  have hbig : signBit t ≤ roundMag t rm d x := Nat.le_trans (signBit_le_floorEnc hm h) (floorEnc_le_roundMag t rm d x)
  rw [roundVal_normal t rm fz d (by omega)]
  exact roundFin_overflow hm (Nat.lt_of_lt_of_le (maxEnc_lt_signBit ht) hbig)

theorem overflowEnc_saturating {t : Ty} (hi : (tyFmt t).ieee = false) (rm : RMode) (neg : Bool) : overflowEnc t rm neg = maxEnc t :=
  if_neg (ne_true_of_eq_false hi)

/-- In the IEEE formats the modes that go toward zero give the largest value. -/
theorem overflowEnc_max {t : Ty} (hi : (tyFmt t).ieee = true) {rm : RMode} {neg : Bool}
    (h : rm = .rtz ∨ (rm = .rdn ∧ neg = false) ∨ (rm = .rup ∧ neg = true)) : overflowEnc t rm neg = maxEnc t := by
  obtain rfl | ⟨rfl, rfl⟩ | ⟨rfl, rfl⟩ := h <;> exact if_pos hi

/-- In the IEEE formats the other modes give infinity. -/
theorem overflowEnc_inf {t : Ty} (hi : (tyFmt t).ieee = true) {rm : RMode} {neg : Bool}
    (h : rm = .rne ∨ rm = .rna ∨ rm = .rst ∨ (rm = .rdn ∧ neg = true) ∨ (rm = .rup ∧ neg = false)) : overflowEnc t rm neg = infEnc t := by
  obtain rfl | rfl | rfl | ⟨rfl, rfl⟩ | ⟨rfl, rfl⟩ := h <;> exact if_pos hi

/-! ## Invalid operations -/

theorem bothInf_iff (ts : List Val) : bothInf ts = true ↔ Val.inf false ∈ ts ∧ Val.inf true ∈ ts := by
  rw [bothInf, Bool.and_eq_true, List.contains_iff_mem, List.contains_iff_mem]

/-- A sum with a NaN term is a NaN (R222, R228). -/
theorem Val.sum_nan (rm : RMode) {ts : List Val} (h : ∃ v ∈ ts, v.isNan = true) :
    Val.sum rm ts = .nan (decide ((∃ v ∈ ts, v.isSig = true) ∨ (Val.inf false ∈ ts ∧ Val.inf true ∈ ts))) := by
  have hs : (ts.any Val.isSig || bothInf ts) = decide ((∃ v ∈ ts, v.isSig = true) ∨ (Val.inf false ∈ ts ∧ Val.inf true ∈ ts)) := by
    rw [Bool.eq_iff_iff, Bool.or_eq_true, bothInf_iff, List.any_eq_true, decide_eq_true_iff]
  rw [Val.sum, if_pos (List.any_eq_true.mpr h), hs]

/-- A sum of both infinities is invalid (R222). -/
theorem Val.sum_inf_inf (rm : RMode) {ts : List Val} (hn : ∀ v ∈ ts, v.isNan = false) (hp : Val.inf false ∈ ts) (hm : Val.inf true ∈ ts) :
    Val.sum rm ts = .nan true := by
  have hany : ¬ ts.any Val.isNan = true := by
    rw [List.any_eq_true]
    rintro ⟨v, hv, h⟩
    exact Bool.false_ne_true ((hn v hv).symm.trans h)
  have hmem (n : Bool) (h : Val.inf n ∈ ts) : ts.any (fun v => v == .inf n) = true := List.any_eq_true.mpr ⟨_, h, beq_self_eq_true _⟩
  rw [Val.sum, if_neg hany, if_pos (hmem false hp), if_pos (hmem true hm)]

/-- A value that is not zero by a zero is an infinity and raises DZ (R222). -/
theorem Val.div_zero {v w : Exact} (hv : v.isZero = false) (hw : w.isZero = true) : (Val.fin v).div (.fin w) = (.inf (v.neg != w.neg), 8#32) := by
  rw [Val.div, if_pos hw, hv, if_neg Bool.false_ne_true, fDZ]

/-- Zero by zero is invalid (R222). -/
theorem Val.zero_div_zero {v w : Exact} (hv : v.isZero = true) (hw : w.isZero = true) : ((Val.fin v).div (.fin w)).1 = .nan true := by
  rw [Val.div, if_pos hw, if_pos hv]

/-- The root of a negative value is invalid (R222). -/
theorem Val.sqrt_negative {v : Exact} (hv : v.isZero = false) (hneg : v.neg = true) : (Val.fin v).sqrt = .nan true := by
  rw [Val.sqrt, hv, if_neg Bool.false_ne_true, if_pos hneg]

/-- Settles O32: each special operand and each result outside the range of normal values, by the branch of `round` that takes it. -/
theorem specialResults : Obligations.SpecialResults := by
  refine ⟨fun t rm fz d sig n ht => ⟨roundVal_nan ht rm fz d sig, fun hmem => ?_, fun v hm hfz htop => ?_, fun v hm htop => ?_⟩,
    fun rm ts => Val.sum_nan rm, fun rm ts => Val.sum_inf_inf rm,
    fun n v w hv hw => ⟨if_pos hv, if_pos hv, rfl, Val.zero_div_zero hv hw⟩, fun v => Val.sqrt_negative, fun v w => Val.div_zero⟩
  · rw [roundVal_inf (ieee_of_mem hmem)]
    exact ⟨decodeVal_infEnc (ieee_of_mem hmem) n, rfl⟩
  · exact roundVal_flushed ht rm d hm hfz (by rw [Exact.top_eq hm]; exact htop)
  · have htop' : ((2 ^ (tyFmt t).ebits : Nat) : Int) ≤ v.top + (tyFmt t).bias := by
      rw [Exact.top_eq hm, htop]
      split
      next h => rw [h]; decide
      next => omega
    obtain ⟨hbits, hflags⟩ := roundVal_overflow ht rm fz d hm htop'
    have hmax : signMag t v.neg (maxEnc t) % 2 ^ (tyWidth t - 1) = maxEnc t := by
      rw [tyWidth_float ht]
      exact signMag_mod _ (maxEnc_lt_signBit ht)
    rw [hbits]
    refine ⟨hflags, fun hi => ?_, fun hi h => ?_, fun hi h => ?_⟩
    · rw [overflowEnc_saturating hi, hmax]
    · rw [overflowEnc_max hi h, hmax]
    · rw [overflowEnc_inf hi h, decodeVal_infEnc hi]

end Sys2Proof.Machine
end
